-- ==== Sys2Proof/Word.lean ====
section
/-! DEFINITION. The two words that frames carry as bits: bytes and tags (R199). Every other quantity of the
manual is a count and is a Nat (R1); signed amounts are Int. -/
namespace Sys2Proof

/-- One byte of a frame (R186, R199). -/
abbrev Byte := BitVec 8

/-- A tag, 0 to 65,535, any value the station chooses (R199). -/
abbrev Tag := BitVec 16

end Sys2Proof
end

