-- ==== Sys2Proof/Syntax.lean ====
section
/-! DEFINITION. The commands of the part: one constructor of `Instr` per row of spec/opcode_table.json, with the
names they carry (links, items, selectors, bank entries). -/
namespace Sys2Proof

/-- A counter position. Index n stands for position n + 1 of the manual (1 to 24). -/
abbrev PositionNo := Fin 24

/-- A rating unit. Index n stands for unit n + 1 of the manual (1 to 4). -/
abbrev UnitNo := Fin 4

/-- One of the 26 station links (R187, R188). -/
inductive Link where
  | position (p : PositionNo)
  | dispatch
  | supervisor
  deriving DecidableEq, Repr

/-- What every request frame carries beside its kind and its items: the link it came in on and its tag. -/
structure Header where
  link : Link
  tag : Tag
  deriving DecidableEq, Repr

/-- The two tariff banks (R23). -/
inductive BankLetter where
  | a
  | b
  deriving DecidableEq, Repr

/-- The two descriptor tables (R29). -/
inductive TableLetter where
  | n
  | h
  deriving DecidableEq, Repr

/-- A selector: table letter and index (R30). -/
structure Selector where
  table : TableLetter
  index : Nat
  deriving DecidableEq, Repr

/-- A checked entry of a bank (R37): a catalogue segment, a zone place or a descriptor slot. -/
inductive BankEntry where
  | segment (n : Nat)
  | place (n : Nat)
  | slot (sel : Selector)
  deriving DecidableEq, Repr

/-- A handle: slot and generation (R2). -/
structure Handle where
  slot : Nat
  gen : Nat
  deriving DecidableEq, Repr

/-- The names a fault's subject can give (R62). -/
inductive ParcelField where
  | mass
  | sides
  | destination
  | serviceCode
  | declaredValue
  | contentCategory
  | total
  deriving DecidableEq, Repr

/-- The four forms of a fault's subject (R62). -/
inductive Subject where
  | selector (sel : Selector)
  | code (n : Nat)
  | district (n : Nat)
  | field (f : ParcelField)
  deriving DecidableEq, Repr, Inhabited

/-- One item of a frame body (R199), with its value as carried, in or out of range. `raw` is an item whose code the
item table does not list or whose length is not the one the table gives; `cut` is the end of a body too short for
the item it begins. -/
inductive Item where
  | handle (slot gen : Nat)
  | serial (n : Nat)
  | statedGrade (g : Nat)
  | reserve
  | serviceCode (n : Nat)
  | destination (n : Nat)
  | mass (n : Nat)
  | sides (a b c : Nat)
  | declaredValue (n : Nat)
  | contentCategory (n : Nat)
  | addOption (n : Nat)
  | clearOptions
  | optionCode (n : Nat)
  | position (n : Nat)
  | grade (n : Nat)
  | escalationEnable (n : Nat)
  | hallTime (n : Nat)
  | printDeadline (n : Nat)
  | escalationTimeout (n : Nat)
  | lowStock (n : Nat)
  | enables (n : Nat)
  | causes (n : Nat)
  | firstSerial (n : Nat)
  | count (n : Nat)
  | bankLetter (n : Nat)
  | editionNumber (n : Nat)
  | grace (n : Nat)
  | selector (letter index : Nat)
  | patchChange (change grade : Nat)
  | settleForm (n : Nat)
  | statusPart (n : Nat)
  | parameters (grams perMille threshold : Nat)
  | segment (number use first last baseLetter baseIndex successor : Nat)
  | zonePlace (number use low high zone sortCode : Nat)
  | tableLimit (letter limit : Nat)
  | descriptorHead (letter index kind : Nat) (fields : List Byte)
  | listSelector (letter index : Nat)
  | listBand (limit : Nat) (prices : List Nat)
  | raw (code : Nat) (value : List Byte)
  | cut (bytes : List Byte)
  deriving DecidableEq, Repr

/-- Content of answers that shares no field with a request item (R199, log entry 33). -/
inductive AnswerContent where
  | recordState
  | changeCount
  | verdict
  | chargeableMass
  | toleranceLimit
  | total
  | shortfall
  | holdReason
  | adjustment
  | quoteLine
  | noLine
  | record
  | quote
  | label
  | reweighPart
  | positionState
  | suspendPending
  | blockCount
  | remainingCount
  | bankState
  | damagedCount
  | reportKind
  | segmentNumber
  | placeNumber
  | editionReason
  | attributeName
  | hall
  | bank
  | unit
  | queueEntry
  | grantState
  | position
  | block
  | pendingReweigh
  | heldRecords
  | logEntry
  deriving DecidableEq, Repr

/-- The 37 request kinds, in the order of the table of R188. The supervisor's QUERY and VOID are kinds of their own. -/
inductive Kind where
  | newParcel
  | setAttributes
  | rate
  | commit
  | printed
  | spoilt
  | query
  | amend
  | takeOver
  | void
  | cancel
  | reweigh
  | handover
  | setTime
  | setTimers
  | setEnables
  | acknowledge
  | status
  | openPosition
  | closePosition
  | resetPosition
  | suspend
  | resume
  | grant
  | deny
  | loadBlock
  | bankClear
  | bankCopy
  | bankWrite
  | bankVerify
  | scheduleSwitch
  | unschedule
  | patch
  | settle
  | querySupervisor
  | voidSupervisor
  | softReset
  deriving DecidableEq, Repr

/-- The commands: one constructor per row of spec/opcode_table.json. Request rows carry the frame's header and its
items; event rows carry what names the thing the event concerns. -/
inductive Instr where
  | newParcel (h : Header) (items : List Item)
  | setAttributes (h : Header) (items : List Item)
  | rate (h : Header) (items : List Item)
  | commit (h : Header) (items : List Item)
  | printed (h : Header) (items : List Item)
  | spoilt (h : Header) (items : List Item)
  | query (h : Header) (items : List Item)
  | amendAddOption (h : Header) (items : List Item)
  | takeOver (h : Header) (items : List Item)
  | void (h : Header) (items : List Item)
  | cancel (h : Header) (items : List Item)
  | reweigh (h : Header) (items : List Item)
  | handover (h : Header) (items : List Item)
  | setTime (h : Header) (items : List Item)
  | setTimers (h : Header) (items : List Item)
  | setEnables (h : Header) (items : List Item)
  | acknowledge (h : Header) (items : List Item)
  | status (h : Header) (items : List Item)
  | openPosition (h : Header) (items : List Item)
  | closePosition (h : Header) (items : List Item)
  | resetPosition (h : Header) (items : List Item)
  | suspend (h : Header) (items : List Item)
  | resume (h : Header) (items : List Item)
  | grant (h : Header) (items : List Item)
  | deny (h : Header) (items : List Item)
  | loadBlock (h : Header) (items : List Item)
  | bankClear (h : Header) (items : List Item)
  | bankWrite (h : Header) (items : List Item)
  | bankCopy (h : Header) (items : List Item)
  | bankVerify (h : Header) (items : List Item)
  | scheduleSwitch (h : Header) (items : List Item)
  | unschedule (h : Header) (items : List Item)
  | patchWithdraw (h : Header) (items : List Item)
  | patchRestore (h : Header) (items : List Item)
  | patchRegrade (h : Header) (items : List Item)
  | patchApplied
  | settleAccept (h : Header) (items : List Item)
  | settleVoid (h : Header) (items : List Item)
  | querySupervisor (h : Header) (items : List Item)
  | voidSupervisor (h : Header) (items : List Item)
  | softReset (h : Header) (items : List Item)
  | drainEnd
  | frameDiscarded (link : Link) (bytes : List Byte)
  | unknownRequest (h : Header) (kind : Byte)
  | hardReset
  | resetRelease
  | hallTimeTick
  | printDeadlineExpiry (slot : Nat)
  | escalationTimeout (p : PositionNo)
  | graceExpiry (bank : BankLetter)
  | switch
  | grantOfJob
  | rateJobCompletion (u : UnitNo)
  | rateOptionCompletion (u : UnitNo)
  | rerateReweighCompletion (u : UnitNo)
  | discardedJobCompletion (u : UnitNo)
  | jobReadFailsCheck (u : UnitNo) (entry : BankEntry)
  deriving DecidableEq, Repr

end Sys2Proof
end

