-- ==== Sys2Proof/Decode.lean ====
section
/-! DEFINITION. From bits to commands: the check sequence (R186), the item table and the kind numbers (R199), the
receiver that finds frames in a stream of bytes (R186), the same layouts as an encoder, and `decodeTableWord` (no row
of spec/opcode_table.json gives bits). -/
namespace Sys2Proof

/-- No row of the opcode table gives bits, so no word spells a command (log entry 22). -/
def decodeTableWord (_nbits _w : Nat) : Option Instr := none

/-! ### Bytes and numbers (R199: most significant byte first) -/

/-- The number that bytes spell, most significant first. -/
def natOfBytes (bs : List Byte) : Nat := bs.foldl (fun n b => n * 256 + b.toNat) 0

/-- A number in `len` bytes, most significant first. -/
def bytesOfNat : Nat → Nat → List Byte
  | 0, _ => []
  | len + 1, n => bytesOfNat len (n / 256) ++ [BitVec.ofNat 8 n]

/-- The two running sums of the check sequence over the bytes from the kind through the last body byte (R186). -/
def checkSums (bs : List Byte) : Nat × Nat :=
  bs.foldl (fun (p : Nat × Nat) b => ((p.1 + b.toNat) % 255, (p.2 + (p.1 + b.toNat) % 255) % 255)) (0, 0)

/-- The start byte (R199). -/
def startByte : Byte := 0xC3

/-- The longest body (R186). -/
def bodyMax : Nat := 1024

/-! ### Kind numbers (R199) -/

/-- The number of a request kind: position requests from 01, dispatch requests from 21, supervisor requests from 41
hexadecimal, in the order of the table of R188. -/
def Kind.code : Kind → Byte
  | .newParcel => 0x01
  | .setAttributes => 0x02
  | .rate => 0x03
  | .commit => 0x04
  | .printed => 0x05
  | .spoilt => 0x06
  | .query => 0x07
  | .amend => 0x08
  | .takeOver => 0x09
  | .void => 0x0A
  | .cancel => 0x0B
  | .reweigh => 0x21
  | .handover => 0x22
  | .setTime => 0x41
  | .setTimers => 0x42
  | .setEnables => 0x43
  | .acknowledge => 0x44
  | .status => 0x45
  | .openPosition => 0x46
  | .closePosition => 0x47
  | .resetPosition => 0x48
  | .suspend => 0x49
  | .resume => 0x4A
  | .grant => 0x4B
  | .deny => 0x4C
  | .loadBlock => 0x4D
  | .bankClear => 0x4E
  | .bankCopy => 0x4F
  | .bankWrite => 0x50
  | .bankVerify => 0x51
  | .scheduleSwitch => 0x52
  | .unschedule => 0x53
  | .patch => 0x54
  | .settle => 0x55
  | .querySupervisor => 0x56
  | .voidSupervisor => 0x57
  | .softReset => 0x58

/-- Every request kind, in the order of the table of R188. -/
def Kind.all : List Kind :=
  [.newParcel, .setAttributes, .rate, .commit, .printed, .spoilt, .query, .amend, .takeOver, .void, .cancel,
   .reweigh, .handover, .setTime, .setTimers, .setEnables, .acknowledge, .status, .openPosition, .closePosition,
   .resetPosition, .suspend, .resume, .grant, .deny, .loadBlock, .bankClear, .bankCopy, .bankWrite, .bankVerify,
   .scheduleSwitch, .unschedule, .patch, .settle, .querySupervisor, .voidSupervisor, .softReset]

/-- The request kind a kind byte names, if any. -/
def Kind.ofCode (b : Byte) : Option Kind := Kind.all.find? (fun k => k.code == b)

/-! ### Items (R199, the item table) -/

/-- An item's code (R199); `cut` has none, so a number no byte holds. -/
def Item.code : Item → Nat
  | .handle .. => 0x01
  | .serial _ => 0x02
  | .statedGrade _ => 0x03
  | .reserve => 0x04
  | .serviceCode _ => 0x05
  | .destination _ => 0x06
  | .mass _ => 0x07
  | .sides .. => 0x08
  | .declaredValue _ => 0x09
  | .contentCategory _ => 0x0A
  | .addOption _ => 0x0B
  | .clearOptions => 0x0C
  | .optionCode _ => 0x0D
  | .position _ => 0x0E
  | .grade _ => 0x0F
  | .escalationEnable _ => 0x10
  | .hallTime _ => 0x11
  | .printDeadline _ => 0x12
  | .escalationTimeout _ => 0x13
  | .lowStock _ => 0x14
  | .enables _ => 0x15
  | .causes _ => 0x16
  | .firstSerial _ => 0x17
  | .count _ => 0x18
  | .bankLetter _ => 0x19
  | .editionNumber _ => 0x1A
  | .grace _ => 0x1B
  | .selector .. => 0x1C
  | .patchChange .. => 0x1D
  | .settleForm _ => 0x1E
  | .statusPart _ => 0x1F
  | .parameters .. => 0x20
  | .segment .. => 0x21
  | .zonePlace .. => 0x22
  | .tableLimit .. => 0x23
  | .descriptorHead .. => 0x24
  | .listSelector .. => 0x25
  | .listBand .. => 0x25
  | .raw c _ => c
  | .cut _ => 256

/-- Groups of four bytes, as the prices of a band stand. -/
def pricesOfBytes : List Byte → List Nat
  | a :: b :: c :: d :: rest => natOfBytes [a, b, c, d] :: pricesOfBytes rest
  | _ => []

/-- The fixed length of the kinds of a descriptor head, its selector and kind included (R199). -/
def headLength : Nat → Option Nat
  | 0 => some 4
  | 1 => some 14
  | 2 => some 9
  | 3 => some 5
  | 4 => some 17
  | _ => none

/-- Read one item from its code and its value bytes by the item table (R199). A code the table does not list, and a
length it does not give, stay `raw`. -/
def Item.read (code : Nat) (value : List Byte) : Item :=
  match code, value with
  | 0x01, [a, b, g] => .handle (natOfBytes [a, b]) g.toNat
  | 0x02, [a, b, c, d] => .serial (natOfBytes [a, b, c, d])
  | 0x03, [g] => .statedGrade g.toNat
  | 0x04, [] => .reserve
  | 0x05, [a, b] => .serviceCode (natOfBytes [a, b])
  | 0x06, [a, b] => .destination (natOfBytes [a, b])
  | 0x07, [a, b] => .mass (natOfBytes [a, b])
  | 0x08, [a, b, c, d, e, f] => .sides (natOfBytes [a, b]) (natOfBytes [c, d]) (natOfBytes [e, f])
  | 0x09, [a, b, c, d] => .declaredValue (natOfBytes [a, b, c, d])
  | 0x0A, [c] => .contentCategory c.toNat
  | 0x0B, [a, b] => .addOption (natOfBytes [a, b])
  | 0x0C, [] => .clearOptions
  | 0x0D, [a, b] => .optionCode (natOfBytes [a, b])
  | 0x0E, [p] => .position p.toNat
  | 0x0F, [g] => .grade g.toNat
  | 0x10, [e] => .escalationEnable e.toNat
  | 0x11, [a, b, c, d] => .hallTime (natOfBytes [a, b, c, d])
  | 0x12, [a, b] => .printDeadline (natOfBytes [a, b])
  | 0x13, [a, b] => .escalationTimeout (natOfBytes [a, b])
  | 0x14, [a, b, c, d] => .lowStock (natOfBytes [a, b, c, d])
  | 0x15, [e] => .enables e.toNat
  | 0x16, [c] => .causes c.toNat
  | 0x17, [a, b, c, d] => .firstSerial (natOfBytes [a, b, c, d])
  | 0x18, [a, b, c, d] => .count (natOfBytes [a, b, c, d])
  | 0x19, [l] => .bankLetter l.toNat
  | 0x1A, [a, b] => .editionNumber (natOfBytes [a, b])
  | 0x1B, [a, b] => .grace (natOfBytes [a, b])
  | 0x1C, [t, a, b] => .selector t.toNat (natOfBytes [a, b])
  | 0x1D, [c, g] => .patchChange c.toNat g.toNat
  | 0x1E, [f] => .settleForm f.toNat
  | 0x1F, [p] => .statusPart p.toNat
  | 0x20, [a, b, p, c, d, e, f] => .parameters (natOfBytes [a, b]) p.toNat (natOfBytes [c, d, e, f])
  | 0x21, [n, u, a, b, c, d, t, e, f, x] =>
    .segment n.toNat u.toNat (natOfBytes [a, b]) (natOfBytes [c, d]) t.toNat (natOfBytes [e, f]) x.toNat
  | 0x22, [n, u, a, b, c, d, z, e, f] =>
    .zonePlace n.toNat u.toNat (natOfBytes [a, b]) (natOfBytes [c, d]) z.toNat (natOfBytes [e, f])
  | 0x23, [t, a, b] => .tableLimit t.toNat (natOfBytes [a, b])
  | 0x24, t :: a :: b :: k :: rest =>
    if rest.length ≤ 13 && ((headLength k.toNat).getD (rest.length + 4) == rest.length + 4) then
      .descriptorHead t.toNat (natOfBytes [a, b]) k.toNat rest
    else .raw 0x24 (t :: a :: b :: k :: rest)
  | 0x25, [t, a, b] => .listSelector t.toNat (natOfBytes [a, b])
  | 0x25, a :: b :: rest =>
    if rest.length == 48 then .listBand (natOfBytes [a, b]) (pricesOfBytes rest) else .raw 0x25 (a :: b :: rest)
  | c, v => .raw c v

/-- An item's value bytes (R199). -/
def Item.value : Item → List Byte
  | .handle s g => bytesOfNat 2 s ++ bytesOfNat 1 g
  | .serial n => bytesOfNat 4 n
  | .statedGrade g => bytesOfNat 1 g
  | .reserve => []
  | .serviceCode n => bytesOfNat 2 n
  | .destination n => bytesOfNat 2 n
  | .mass n => bytesOfNat 2 n
  | .sides a b c => bytesOfNat 2 a ++ bytesOfNat 2 b ++ bytesOfNat 2 c
  | .declaredValue n => bytesOfNat 4 n
  | .contentCategory n => bytesOfNat 1 n
  | .addOption n => bytesOfNat 2 n
  | .clearOptions => []
  | .optionCode n => bytesOfNat 2 n
  | .position n => bytesOfNat 1 n
  | .grade n => bytesOfNat 1 n
  | .escalationEnable n => bytesOfNat 1 n
  | .hallTime n => bytesOfNat 4 n
  | .printDeadline n => bytesOfNat 2 n
  | .escalationTimeout n => bytesOfNat 2 n
  | .lowStock n => bytesOfNat 4 n
  | .enables n => bytesOfNat 1 n
  | .causes n => bytesOfNat 1 n
  | .firstSerial n => bytesOfNat 4 n
  | .count n => bytesOfNat 4 n
  | .bankLetter n => bytesOfNat 1 n
  | .editionNumber n => bytesOfNat 2 n
  | .grace n => bytesOfNat 2 n
  | .selector l i => bytesOfNat 1 l ++ bytesOfNat 2 i
  | .patchChange c g => bytesOfNat 1 c ++ bytesOfNat 1 g
  | .settleForm n => bytesOfNat 1 n
  | .statusPart n => bytesOfNat 1 n
  | .parameters g m t => bytesOfNat 2 g ++ bytesOfNat 1 m ++ bytesOfNat 4 t
  | .segment n u f l bl bi x =>
    bytesOfNat 1 n ++ bytesOfNat 1 u ++ bytesOfNat 2 f ++ bytesOfNat 2 l ++ bytesOfNat 1 bl ++ bytesOfNat 2 bi ++
      bytesOfNat 1 x
  | .zonePlace n u l h z c =>
    bytesOfNat 1 n ++ bytesOfNat 1 u ++ bytesOfNat 2 l ++ bytesOfNat 2 h ++ bytesOfNat 1 z ++ bytesOfNat 2 c
  | .tableLimit l n => bytesOfNat 1 l ++ bytesOfNat 2 n
  | .descriptorHead l i k rest => bytesOfNat 1 l ++ bytesOfNat 2 i ++ bytesOfNat 1 k ++ rest
  | .listSelector l i => bytesOfNat 1 l ++ bytesOfNat 2 i
  | .listBand m ps => bytesOfNat 2 m ++ ps.flatMap (bytesOfNat 4)
  | .raw _ v => v
  | .cut _ => []

/-- An item as it stands in a body: code, length, value (R199). -/
def Item.bytes : Item → List Byte
  | .cut bs => bs
  | i => BitVec.ofNat 8 i.code :: BitVec.ofNat 8 i.value.length :: i.value

/-- The body that items spell. -/
def bodyOf (items : List Item) : List Byte := items.flatMap Item.bytes

/-- Read a body's items (R199). The number bounds the items read; a body holds no more items than bytes. -/
def readItems : Nat → List Byte → List Item
  | 0, _ => []
  | _ + 1, [] => []
  | n + 1, c :: l :: rest =>
    if l.toNat ≤ rest.length then Item.read c.toNat (rest.take l.toNat) :: readItems n (rest.drop l.toNat)
    else [.cut (c :: l :: rest)]
  | _ + 1, [c] => [.cut [c]]

/-- The items of a body. -/
def itemsOf (body : List Byte) : List Item := readItems body.length body

/-! ### Frames (R186, R199) -/

/-- A frame's bytes from its kind, tag and body. -/
def frameBytes (kind : Byte) (tag : Tag) (body : List Byte) : List Byte :=
  let inner := kind :: (bytesOfNat 2 tag.toNat ++ bytesOfNat 2 body.length ++ body)
  let sums := checkSums inner
  startByte :: (inner ++ [BitVec.ofNat 8 sums.1, BitVec.ofNat 8 sums.2])

/-- The PATCH rows differ by the change their item names; the first such item decides, and a frame with none or with
another code (refused MALFORMED by the link) stands under the WITHDRAW row (log entry 23). -/
def patchChangeOf (items : List Item) : Option Nat :=
  items.findSome? (fun i => match i with | .patchChange c _ => some c | _ => none)

/-- The SETTLE rows differ by the form their item names, in the same way (log entry 23). -/
def settleFormOf (items : List Item) : Option Nat :=
  items.findSome? (fun i => match i with | .settleForm f => some f | _ => none)

/-- The command a frame of a request kind is. -/
def requestCommand (k : Kind) (h : Header) (items : List Item) : Instr :=
  match k with
  | .newParcel => .newParcel h items
  | .setAttributes => .setAttributes h items
  | .rate => .rate h items
  | .commit => .commit h items
  | .printed => .printed h items
  | .spoilt => .spoilt h items
  | .query => .query h items
  | .amend => .amendAddOption h items
  | .takeOver => .takeOver h items
  | .void => .void h items
  | .cancel => .cancel h items
  | .reweigh => .reweigh h items
  | .handover => .handover h items
  | .setTime => .setTime h items
  | .setTimers => .setTimers h items
  | .setEnables => .setEnables h items
  | .acknowledge => .acknowledge h items
  | .status => .status h items
  | .openPosition => .openPosition h items
  | .closePosition => .closePosition h items
  | .resetPosition => .resetPosition h items
  | .suspend => .suspend h items
  | .resume => .resume h items
  | .grant => .grant h items
  | .deny => .deny h items
  | .loadBlock => .loadBlock h items
  | .bankClear => .bankClear h items
  | .bankCopy => .bankCopy h items
  | .bankWrite => .bankWrite h items
  | .bankVerify => .bankVerify h items
  | .scheduleSwitch => .scheduleSwitch h items
  | .unschedule => .unschedule h items
  | .patch =>
    match patchChangeOf items with
    | some 2 => .patchRestore h items
    | some 3 => .patchRegrade h items
    | _ => .patchWithdraw h items
  | .settle =>
    match settleFormOf items with
    | some 2 => .settleVoid h items
    | _ => .settleAccept h items
  | .querySupervisor => .querySupervisor h items
  | .voidSupervisor => .voidSupervisor h items
  | .softReset => .softReset h items

/-- The command a frame that passed its check is (R187, check 1). -/
def frameCommand (link : Link) (kind : Byte) (tag : Tag) (body : List Byte) : Instr :=
  match Kind.ofCode kind with
  | some k => requestCommand k ⟨link, tag⟩ (itemsOf body)
  | none => .unknownRequest ⟨link, tag⟩ kind

/-- What a receiver makes of the bytes from a start byte onward (R186): the frame is not whole yet, it is discarded,
or it passes its check. -/
inductive FrameRead where
  | incomplete
  | discarded
  | frame (kind : Byte) (tag : Tag) (body rest : List Byte)
  deriving DecidableEq, Repr

/-- Judge the bytes after a start byte (R186): the body length above 1,024 discards at once; else the whole frame is
awaited and its two sums compared with its two check bytes. -/
def readFrame : List Byte → FrameRead
  | kind :: t1 :: t0 :: l1 :: l0 :: rest =>
    let len := natOfBytes [l1, l0]
    if bodyMax < len then .discarded
    else if rest.length < len + 2 then .incomplete
    else
      let body := rest.take len
      let sums := checkSums (kind :: t1 :: t0 :: l1 :: l0 :: body)
      if (rest.drop len).take 2 = [BitVec.ofNat 8 sums.1, BitVec.ofNat 8 sums.2] then
        .frame kind (BitVec.ofNat 16 (natOfBytes [t1, t0])) body (rest.drop (len + 2))
      else .discarded
  | _ => .incomplete

/-- A receiver at work on its bytes (R186): bytes before a start byte are passed over; a whole frame that passes its
check becomes a command; a discarded frame becomes FRAME_DISCARDED and the search goes on from the byte after its
start byte; an incomplete frame is kept. The number bounds the looks, one per byte at most. -/
def scanBytes (link : Link) : Nat → List Byte → List Instr × List Byte
  | 0, bs => ([], bs)
  | _ + 1, [] => ([], [])
  | n + 1, b :: rest =>
    if b = startByte then
      match readFrame rest with
      | .incomplete => ([], b :: rest)
      | .discarded =>
        let r := scanBytes link n rest
        (.frameDiscarded link (b :: rest) :: r.1, r.2)
      | .frame kind tag body after =>
        let r := scanBytes link n after
        (frameCommand link kind tag body :: r.1, r.2)
    else scanBytes link n rest

end Sys2Proof
end

