-- ==== Sys2Proof/Config.lean ====
section
/-! DEFINITION. The sizes and ranges the part fixes, and the free values: constants without a body that stand for
what the manual leaves open. -/
namespace Sys2Proof.Config

/-- Record slots of the table (R2). -/
def slotCount : Nat := 4096

/-- Most records a position may own in DRAFT, RATED and PRINTING together when it opens or takes one (R22). -/
def ownedLimit : Nat := 8

/-- Most options a record carries (R6). -/
def optionLimit : Nat := 4

/-- Most blocks the Label Pool holds (R137). -/
def blockLimit : Nat := 32

/-- The greatest label serial (R20, R137). -/
def serialMax : Nat := 999999999

/-- The greatest quote total and adjustment (R7, R6). -/
def totalMax : Nat := 99999999

/-- The greatest amount a quote line holds (R7). -/
def lineMax : Nat := 999999

/-- The divisor of the volumetric mass: it belongs to the part and not to the edition (R54). -/
def volumetricDivisor : Nat := 5000

/-- Districts from here upward are international (R31). -/
def internationalFrom : Nat := 10000

/-- The greatest hall time (R191). -/
def hallTimeMax : Nat := 4294967295

/-- Most reports the failure log keeps (R179). -/
def logLimit : Nat := 8

/-- The greatest report count (R179). -/
def reportCountMax : Nat := 65535

/-- Most segments a catalogue lookup visits (R26). -/
def chainLimit : Nat := 32

/-- FREE VALUE (R47, log entry 4): how many further entries of its bank a running job has read, in the order of its
steps, by the time an entry of that bank is disturbed or marked damaged. Applied to a fresh number each time. -/
opaque readsMade : Nat → Nat

/-- FREE VALUE (R149, R199, log entry 13): whether a flag byte other than 0 and 1 in a BANK WRITE is stored as set. -/
opaque unlistedFlag : Nat → Bool

/-- FREE VALUE (R199, log entry 33): the item code of answer content that shares no field with a request item, by that
content. -/
opaque contentCode : AnswerContent → Byte

/-- FREE VALUE (R199, log entry 11): the answer kind sent for an unknown kind byte of 80 hexadecimal and above. -/
opaque unlistedAnswerKind : Byte → Byte

/-- FREE VALUE (R90, R104, R111, log entry 10): the subject of the fault report in a FAULT GRADE answer that no rating
job found, by the number of the request's kind. -/
opaque gradeRefusalSubject : Nat → Subject

end Sys2Proof.Config
end

