-- ==== Sys2Proof/Machine/State.lean ====
section
/-! DEFINITION. The state of the part as plain data, block by block (00_scope, Block overview), the answers it sends,
the reasons a step can stop, and `State.reset`. -/
namespace Sys2Proof.Machine

/-! ### Sparse stores -/

/-- A store of the part addressed by number (record slots by slot, the label index by serial, a bank's segments,
places and slots): the cells that differ from what an unlisted key holds, keys strictly rising. -/
structure Table (α : Type) where
  cells : List (Nat × α)
  deriving DecidableEq, Repr

/-! ### Parcel records (R6 to R11) -/

/-- Three sides, set together (R6). -/
structure Sides where
  a : Nat
  b : Nat
  c : Nat
  deriving DecidableEq, Repr

/-- One surcharge in a quote: selector and signed amount (R7). -/
structure Line where
  sel : Selector
  amount : Int
  deriving DecidableEq, Repr

/-- A quote (R7). -/
structure Quote where
  bank : BankLetter
  edition : Nat
  zone : Nat
  chargeable : Nat
  band : Nat
  base : Nat
  lines : List Line
  total : Nat
  deriving DecidableEq, Repr

/-- A label (R8). The check character is 0 to 9, or 10 for the letter X (R143). -/
structure Label where
  letters : Nat × Nat
  serial : Nat
  check : Nat
  sortCode : Nat
  commitTime : Nat
  deriving DecidableEq, Repr

/-- The verdict of a reweigh part (R9). -/
inductive Verdict where
  | agreed
  | held
  | settled
  deriving DecidableEq, Repr

/-- The reweigh part (R9). -/
structure ReweighPart where
  mass : Nat
  sides : Sides
  verdict : Verdict
  shortfall : Option Nat
  deriving DecidableEq, Repr

/-- The fault kinds of rating (R62), in the order of its table. -/
inductive FaultKind where
  | missingAttribute
  | unknownService
  | nullSelector
  | noSupplement
  | beyondLimit
  | damagedTariff
  | wrongKind
  | notPresent
  | grade
  | scopeMismatch
  | customsDataMissing
  | noZone
  | overMassLimit
  | amountRange
  deriving DecidableEq, Repr

/-- A fault report (R62); `grades` holds the needed grade and the grade checked of a GRADE fault. -/
structure FaultReport where
  kind : FaultKind
  subject : Subject
  grades : Option (Nat × Nat)
  deriving DecidableEq, Repr

/-- Why a parcel was stopped (R9). -/
inductive HoldReason where
  | underpaid
  | rerateFault (kind : FaultKind)
  deriving DecidableEq, Repr

/-- What SET ATTRIBUTES enters, with the opened-at time (R6). -/
structure Entered where
  openedAt : Nat
  serviceCode : Option Nat
  destination : Option Nat
  mass : Option Nat
  sides : Option Sides
  declaredValue : Option Nat
  contentCategory : Option Nat
  options : List Nat
  deriving DecidableEq, Repr

/-- The six states of a live record, each with exactly the fields R11 gives it. -/
inductive RecordBody where
  | draft (e : Entered)
  | rated (e : Entered) (q : Quote)
  | printing (e : Entered) (q : Quote) (l : Label) (deadline : Nat)
  | labelled (e : Entered) (q : Quote) (l : Label) (adjustment : Nat) (reweigh : Option ReweighPart)
  | held (e : Entered) (q : Quote) (l : Label) (adjustment : Nat) (reweigh : ReweighPart) (reason : HoldReason)
  | damaged (l : Option Label)
  deriving DecidableEq, Repr

/-- A live record (R6). Its handle is its slot with the slot's generation. `sound` says that its check bits agree
with its content (R177, log entry 3). -/
structure Rec where
  owner : PositionNo
  changeCount : Nat
  busy : Bool
  queued : Bool
  sound : Bool
  body : RecordBody
  deriving DecidableEq, Repr

/-- One entry of the label index (R20, R21): the slot it leads to, whether it failed its check before, and whether
its check bits agree with it. -/
structure IndexEntry where
  slot : Nat
  failed : Bool
  sound : Bool
  deriving DecidableEq, Repr

/-- The Parcel Record Table (R2, R20): live records by slot, the generations that are not 1, the label index by
serial. -/
structure RecordTable where
  records : Table Rec
  generations : Table Nat
  index : Table IndexEntry
  deriving DecidableEq, Repr

/-! ### Tariff editions (R23 to R41) -/

/-- Edition parameters (R24). -/
structure Parameters where
  grams : Nat
  perMille : Nat
  customsThreshold : Nat
  deriving DecidableEq, Repr

/-- A used catalogue segment (R25); `next` is its successor, none for END. -/
structure Segment where
  first : Nat
  last : Nat
  base : Selector
  next : Option Nat
  deriving DecidableEq, Repr

/-- A zone entry (R27). -/
structure Zone where
  low : Nat
  high : Nat
  zone : Nat
  sortCode : Nat
  deriving DecidableEq, Repr

/-- Where a service may carry to (R31). -/
inductive Scope where
  | domestic
  | international
  | both
  deriving DecidableEq, Repr

/-- A SERVICE descriptor without its present flag (R31). -/
structure Service where
  grade : Nat
  letters : Nat × Nat
  scope : Scope
  volumetric : Bool
  customs : Bool
  rate : Selector
  surcharges : List Selector
  deriving DecidableEq, Repr

/-- A band of a RATE descriptor (R33). -/
structure Band where
  limit : Nat
  prices : List Nat
  deriving DecidableEq, Repr

/-- What a surcharge condition looks at (R34). -/
inductive Measure where
  | chargeableMass
  | longestSide
  | girth
  | declaredValue
  | zone
  deriving DecidableEq, Repr

/-- How it compares (R34). -/
inductive Comparison where
  | always
  | above
  | atLeast
  | below
  | atMost
  | equal
  | notEqual
  deriving DecidableEq, Repr

/-- The amount of a surcharge (R34). -/
inductive Amount where
  | fixed (n : Int)
  | perMille (n : Nat)
  deriving DecidableEq, Repr

/-- A SURCHARGE descriptor without its present flag (R34). -/
structure Surcharge where
  grade : Nat
  measure : Measure
  comparison : Comparison
  threshold : Nat
  amount : Amount
  deriving DecidableEq, Repr

/-- What a descriptor slot holds (R29, R31 to R34). -/
inductive Descriptor where
  | empty
  | service (d : Service)
  | redirect (grade : Nat) (target : Selector)
  | rate (bands : List Band)
  | surcharge (d : Surcharge)
  deriving DecidableEq, Repr

/-- A stored segment or zone place: its content (none: unused), its damaged mark, and whether its check bits agree
(R25, R27, R37). -/
structure Cell (α : Type) where
  content : Option α
  damaged : Bool
  sound : Bool
  deriving DecidableEq, Repr

/-- A descriptor slot: content, present flag, damaged mark, and whether its check bits agree (R29, R30, R37). -/
structure SlotCell where
  content : Descriptor
  present : Bool
  damaged : Bool
  sound : Bool
  deriving DecidableEq, Repr

/-- The grace of a RETIRING bank: seconds left, or the mark "grace expired" (R40). -/
inductive Grace where
  | running (seconds : Nat)
  | expired
  deriving DecidableEq, Repr

/-- The seven bank states, each with the parts R23 gives it. -/
inductive BankState where
  | empty
  | loading
  | verified (edition : Nat)
  | scheduled (edition effective grace : Nat)
  | active (edition : Nat)
  | retiring (edition : Nat) (grace : Grace)
  | stale (edition : Nat)
  deriving DecidableEq, Repr

/-- A tariff bank (R23). -/
structure Bank where
  state : BankState
  parameters : Parameters
  segments : Table (Cell Segment)
  zones : Table (Cell Zone)
  nLimit : Nat
  nSlots : Table SlotCell
  hLimit : Nat
  hSlots : Table SlotCell
  pins : Nat
  damagedCount : Nat
  deriving DecidableEq, Repr

/-! ### Rating units and the arbiter (R66 to R76) -/

/-- Who asked for a job (R66). -/
inductive Requester where
  | position (p : PositionNo)
  | dispatch
  deriving DecidableEq, Repr

/-- The kind of a job with the values its request carries (R66). -/
inductive JobKind where
  | rate
  | rerateReweigh (mass : Nat) (sides : Sides)
  | rateOption (code : Nat)
  deriving DecidableEq, Repr

/-- An entry of the waiting queue (R67). -/
structure QueueEntry where
  kind : JobKind
  handle : Handle
  requester : Requester
  eg : Nat
  deriving DecidableEq, Repr

/-- The parcel values of a RATE or RERATE REWEIGH job (R44). -/
structure ParcelValues where
  mass : Option Nat
  sides : Option Sides
  destination : Option Nat
  serviceCode : Option Nat
  declaredValue : Option Nat
  contentCategory : Option Nat
  options : List Nat
  deriving DecidableEq, Repr

/-- The values of a RATE OPTION job: the code to add, and what it reads of the record and its quote (R44, R60, R61). -/
structure OptionValues where
  code : Nat
  sides : Sides
  declaredValue : Option Nat
  chargeable : Nat
  zone : Nat
  base : Nat
  total : Nat
  adjustment : Nat
  deriving DecidableEq, Repr

/-- The values a job read at its grant (R44). -/
inductive JobValues where
  | parcel (v : ParcelValues)
  | option (v : OptionValues)
  deriving DecidableEq, Repr

/-- A bank entry as a running job has read it (R47, log entry 4). -/
inductive SeenEntry where
  | segment (n : Nat) (c : Cell Segment)
  | place (n : Nat) (c : Cell Zone)
  | slot (sel : Selector) (c : SlotCell)
  deriving DecidableEq, Repr

/-- One read a running job has made: in which lookup or resolution, counted in the order of its steps, and what it read
there (R47). -/
structure JobRead where
  reading : Nat
  entry : SeenEntry
  deriving DecidableEq, Repr

/-- The job record of a RUNNING unit (R66) with its working values: the values read at grant, the reads it is known to
have made, and the fault a failing read of its own has found (R47, R65). -/
structure Job where
  entry : QueueEntry
  bank : BankLetter
  edition : Nat
  discarded : Bool
  values : JobValues
  seen : List JobRead
  found : Option FaultReport
  deriving DecidableEq, Repr

/-- The change a PATCH makes (R159). -/
inductive PatchChange where
  | withdraw
  | restore
  | regrade (grade : Nat)
  deriving DecidableEq, Repr

/-- A patch that was taken (R159). -/
structure Patch where
  bank : BankLetter
  sel : Selector
  change : PatchChange
  deriving DecidableEq, Repr

/-- The arbiter's grant state (R69), with the patch that waits. -/
inductive GrantState where
  | granting
  | patchWait (p : Patch)
  | draining
  deriving DecidableEq, Repr

/-! ### Positions (R115 to R124) -/

/-- A reservation: handle and change count (R102). -/
structure Reservation where
  handle : Handle
  count : Nat
  deriving DecidableEq, Repr

/-- What OPEN POSITION sets (R118). -/
structure Session where
  grade : Nat
  escalation : Bool
  deriving DecidableEq, Repr

/-- The requests that can be in flight or escalated (R116, R121). -/
inductive HeldKind where
  | rate
  | commit
  | amend
  | void
  deriving DecidableEq, Repr

/-- A request a position holds: its kind, tag and items, with the reservation copy that travels with it (R103,
R123). -/
structure HeldRequest where
  kind : HeldKind
  tag : Tag
  items : List Item
  copy : Option Reservation
  deriving DecidableEq, Repr

/-- The normal save slot (R124). -/
structure NormalSlot where
  request : HeldRequest
  needed : Nat
  remaining : Nat
  deriving DecidableEq, Repr

/-- The critical save slot: the state that was left (R124); ESCALATED keeps the normal slot with it. -/
inductive Saved where
  | opened
  | escalated (slot : NormalSlot)
  deriving DecidableEq, Repr

/-- A position context (R115): each state with the parts it can hold. -/
inductive Context where
  | closed
  | opened (session : Session) (reservation : Option Reservation)
  | working (session : Session) (suspendPending : Bool) (reservation : Option Reservation) (request : HeldRequest)
  | escalated (session : Session) (slot : NormalSlot)
  | suspended (session : Session) (saved : Saved)
  deriving DecidableEq, Repr

/-! ### Label Pool and Reweigh Check -/

/-- A block of label serials (R137). -/
structure Block where
  first : Nat
  last : Nat
  next : Nat
  deriving DecidableEq, Repr

/-- The Label Pool (R137): blocks, oldest first, and the low-stock threshold. -/
structure Pool where
  blocks : List Block
  threshold : Nat
  deriving DecidableEq, Repr

/-- The pending reweigh (R164). -/
structure PendingReweigh where
  handle : Handle
  serial : Nat
  mass : Nat
  sides : Sides
  chargeable : Nat
  limit : Nat
  deriving DecidableEq, Repr

/-! ### Integrity Checker (R178 to R180) -/

/-- The integrity state (R180). -/
inductive IntegrityState where
  | normal
  | alert
  | halted
  deriving DecidableEq, Repr

/-- Kind and subject of a report (R178). -/
inductive ReportSubject where
  | record (h : Handle)
  | indexEntry (serial : Nat) (h : Option Handle)
  | bankEntry (bank : BankLetter) (entry : BankEntry)
  deriving DecidableEq, Repr

/-- Who made the failing read (R178). -/
inductive Reader where
  | position (p : PositionNo)
  | dispatch
  | supervisor
  | unit (u : UnitNo)
  | printDeadline
  | graceExpiry
  deriving DecidableEq, Repr

/-- A logged report (R178, R179): the report, its sequence number and the integrity state it left. -/
structure LogEntry where
  subject : ReportSubject
  reader : Reader
  hallTime : Nat
  sequence : Nat
  left : IntegrityState
  deriving DecidableEq, Repr

/-- The Integrity Checker (R179, R180). -/
structure Integrity where
  state : IntegrityState
  alertEnable : Bool
  reportCount : Nat
  log : List LogEntry
  deriving DecidableEq, Repr

/-! ### Attention Controller (R193) -/

/-- The seven attention causes (R193), in the order of its table. -/
inductive Cause where
  | escalation
  | integrity
  | poolLow
  | held
  | switchTaken
  | bankRetired
  | quotesLapsed
  deriving DecidableEq, Repr

/-- One flag for each of the seven causes. -/
structure Causes where
  escalation : Bool
  integrity : Bool
  poolLow : Bool
  held : Bool
  switchTaken : Bool
  bankRetired : Bool
  quotesLapsed : Bool
  deriving DecidableEq, Repr

/-- The last conditions reported for the three level causes (R193). -/
structure Conditions where
  escalation : Bool
  poolLow : Bool
  held : Bool
  deriving DecidableEq, Repr

/-- The Attention Controller (R193). -/
structure Attention where
  pending : Causes
  enabled : Causes
  conditions : Conditions
  deriving DecidableEq, Repr

/-- The three settings of SET TIMERS that are not the pool's (R192). -/
structure Timers where
  printDeadline : Nat
  escalationTimeout : Nat
  deriving DecidableEq, Repr

/-! ### Answers (R190) -/

/-- The fields of a record as RECORD reports it (R100). The fields of each state are those of its body (R11). -/
structure RecordView where
  handle : Handle
  owner : PositionNo
  changeCount : Nat
  busy : Bool
  queued : Bool
  body : RecordBody
  deriving DecidableEq, Repr

/-- The six record states by name, in the order of their codes (R199). -/
inductive RecordState where
  | draft
  | rated
  | printing
  | labelled
  | held
  | damaged
  deriving DecidableEq, Repr

/-- The seven bank states by name, in the order of their codes (R199). -/
inductive BankStateName where
  | empty
  | loading
  | verified
  | scheduled
  | active
  | retiring
  | stale
  deriving DecidableEq, Repr

/-- The reasons of a MALFORMED EDITION answer, in the order of the table of R152. -/
inductive EditionReason where
  | editionNumber
  | segmentForm
  | chain
  | zoneForm
  | zoneOrder
  | serviceForm
  | redirectForm
  | rateForm
  | surchargeForm
  deriving DecidableEq, Repr

/-- What a MALFORMED EDITION answer names (R152). -/
inductive EditionEntry where
  | bank (l : BankLetter)
  | entry (e : BankEntry)
  deriving DecidableEq, Repr

/-- The content of the DONE answers, as each request's rule lists it. -/
inductive Done where
  | plain
  | parcel (h : Handle)
  | changed (h : Handle) (state : RecordState) (count : Nat)
  | state (state : RecordState)
  | amended (h : Handle) (code : Nat) (line : Option Line) (total adjustment count : Nat)
  | takenOver (h : Handle) (owner : PositionNo) (state : RecordState) (count : Nat)
  | handedOver (h : Handle) (serial : Nat) (verdict : Option Verdict)
  | settled (h : Handle) (verdict : Verdict) (adjustment count : Nat)
  | hallTime (t : Nat)
  | timers (printDeadline escalationTimeout threshold : Nat)
  | flags (pending : Causes)
  | enables (enabled : Causes) (alertEnable : Bool) (pending : Causes)
  | suspended
  | suspendPending
  | pool (blocks remaining : Nat)
  | bankWritten (state : BankStateName) (damagedCount : Nat)
  | edition (n : Nat)
  | bank (state : BankStateName)
  deriving DecidableEq, Repr

/-- The content of LABEL, in the order R92 lists it: the label number as twelve characters (R144), the printed fields,
the acceptance position and the commit time. -/
structure LabelAnswer where
  number : List Byte
  serviceCode : Option Nat
  zone : Nat
  sortCode : Nat
  chargeable : Nat
  total : Nat
  edition : Nat
  position : PositionNo
  commitTime : Nat
  deriving DecidableEq, Repr

/-- The content of CLEAR, in the order R167 and R170 list it: the re-rating's total is present where there was a
re-rating. -/
structure ClearAnswer where
  handle : Handle
  serial : Nat
  verdict : Verdict
  chargeable : Nat
  limit : Nat
  total : Option Nat
  count : Nat
  deriving DecidableEq, Repr

/-- What DIVERT carries for its hold reason (R170). -/
inductive DivertReason where
  | underpaid (total shortfall : Nat)
  | rerateFault (report : FaultReport)
  deriving DecidableEq, Repr

/-- The content of DIVERT (R170). -/
structure DivertAnswer where
  handle : Handle
  serial : Nat
  reason : DivertReason
  chargeable : Nat
  count : Nat
  deriving DecidableEq, Repr

/-- A bank as STATUS reports it (R39). -/
structure BankStatus where
  state : BankState
  pins : Nat
  damagedCount : Nat
  deriving DecidableEq, Repr

/-- The three job kinds by name (R66). -/
inductive JobKindName where
  | rate
  | rerateReweigh
  | rateOption
  deriving DecidableEq, Repr

/-- A RUNNING unit as STATUS reports it (R66). -/
structure UnitStatus where
  kind : JobKindName
  handle : Handle
  bank : BankLetter
  requester : Requester
  deriving DecidableEq, Repr

/-- A filled normal save slot as STATUS reports it (R115). -/
structure SlotStatus where
  kind : HeldKind
  tag : Tag
  needed : Nat
  remaining : Nat
  deriving DecidableEq, Repr

/-- The five position states by name (R116). -/
inductive PositionState where
  | closed
  | opened
  | working
  | escalated
  | suspended
  deriving DecidableEq, Repr

/-- A position as STATUS reports it (R115). -/
structure PositionStatus where
  state : PositionState
  session : Option Session
  suspendPending : Bool
  reserved : Bool
  normal : Option SlotStatus
  critical : Option PositionState
  deriving DecidableEq, Repr

/-- The grant states by name (R69). -/
inductive GrantStateName where
  | granting
  | patchWait
  | draining
  deriving DecidableEq, Repr

/-- The seven parts STATUS reports (R196). -/
inductive StatusContent where
  | hall (hallTime printDeadline escalationTimeout threshold : Nat) (pending enabled : Causes) (line : Bool)
      (state : IntegrityState) (alertEnable : Bool) (reportCount : Nat)
  | banks (a b : BankStatus)
  | rating (units : List (Option UnitStatus)) (queue : List QueueEntry) (grantState : GrantStateName)
  | positions (contexts : List PositionStatus)
  | pool (blocks : List Block) (remaining threshold : Nat)
  | dispatch (pending : Option (Handle × Nat × Nat)) (heldRecords : Nat)
  | log (entries : List LogEntry)
  deriving DecidableEq, Repr

/-- An answer: its outcome (R190) with the outcome's content. FAULT GRADE is FAULT with kind GRADE. -/
inductive Answer where
  | done (content : Done)
  | quote (h : Handle) (state : RecordState) (q : Quote)
  | label (content : LabelAnswer)
  | record (view : RecordView) (reserved : Bool)
  | status (content : StatusContent)
  | clear (content : ClearAnswer)
  | divert (content : DivertAnswer)
  | busy
  | unknownRequest
  | malformed
  | notOnThisLink
  | positionClosed
  | suspended
  | halted
  | reset
  | noRecord
  | wrongState
  | notOwner
  | recordBusy
  | limit
  | tableFull
  | reservationLost
  | fault (report : FaultReport)
  | denied
  | timedOut
  | cancelled
  | withdrawn (subject : Subject)
  | noNumbers
  | noEdition
  | tooLate
  | hold
  | notReady
  | damaged (subject : ReportSubject)
  | bankState (bank : BankLetter) (state : BankStateName)
  | overlap
  | malformedEdition (reason : EditionReason) (entry : EditionEntry)
  | notIdle
  | optionPresent
  deriving DecidableEq, Repr

/-- An answer frame as sent (R190): the link, the tag of the request it answers, the answer kind, the answer. -/
structure AnswerFrame where
  link : Link
  tag : Tag
  kind : Byte
  answer : Answer
  deriving DecidableEq, Repr

/-! ### Station links (R186, R187) -/

/-- A link's outstanding request (R187). -/
structure Outstanding where
  kind : Kind
  tag : Tag
  deriving DecidableEq, Repr

/-- A link: its outstanding request, if any, and the bytes its receiver has assembled (R186, R187, R198). -/
structure LinkState where
  outstanding : Option Outstanding
  received : List Byte
  deriving DecidableEq, Repr

/-- The 26 links (R188). -/
structure Links where
  positions : Vector LinkState 24
  dispatch : LinkState
  supervisor : LinkState
  deriving DecidableEq, Repr

/-! ### The state of the part -/

/-- The state of the part, block by block. `answers`, `freeCount` and `pending` are the model's own fields (log
entries 15, 4 and 1). -/
structure State where
  links : Links
  positions : Vector Context 24
  table : RecordTable
  bankA : Bank
  bankB : Bank
  units : Vector (Option Job) 4
  queue : List QueueEntry
  grantState : GrantState
  pool : Pool
  pendingReweigh : Option PendingReweigh
  integrity : Integrity
  attention : Attention
  hallTime : Nat
  timers : Timers
  resetAsserted : Bool
  answers : List AnswerFrame
  freeCount : Nat
  pending : List Instr
  deriving DecidableEq, Repr

/-- Why a step stops with a fault: never. Every command answers a next state in every state (log entry 18), so this
type has no constructor; safe, since nothing is left undone by it. -/
inductive Fault where
  deriving DecidableEq, Repr

/-- Why a step is refused. -/
inductive Refusal where
  /-- Raised by no meaning; kept for a row that has none yet. Safe. -/
  | notModelled (mnemonic : String)
  deriving DecidableEq, Repr

/-- What a meaning answers. -/
abbrev Outcome := Host.Outcome State Fault Refusal

/-! ### Reset values -/

/-- No cause flagged. -/
def Causes.none : Causes := ⟨false, false, false, false, false, false, false⟩

/-- A table with nothing listed. -/
def Table.empty {α : Type} : Table α := ⟨[]⟩

/-- A bank with the cleared content of R23. -/
def Bank.cleared : Bank where
  state := .empty
  parameters := ⟨0, 0, 0⟩
  segments := .empty
  zones := .empty
  nLimit := 1
  nSlots := .empty
  hLimit := 0
  hSlots := .empty
  pins := 0
  damagedCount := 0

/-- A link with nothing outstanding and no byte assembled (R187, R198). -/
def LinkState.free : LinkState := ⟨none, []⟩

/-- The part right after hard reset (R198 and the rules it gathers), the reset input released, no command waiting. -/
def State.reset : State where
  links := ⟨Vector.replicate 24 .free, .free, .free⟩
  positions := Vector.replicate 24 .closed
  table := ⟨.empty, .empty, .empty⟩
  bankA := .cleared
  bankB := .cleared
  units := Vector.replicate 4 none
  queue := []
  grantState := .granting
  pool := ⟨[], 500⟩
  pendingReweigh := none
  integrity := ⟨.normal, false, 0, []⟩
  attention := ⟨.none, .none, ⟨false, true, false⟩⟩
  hallTime := 0
  timers := ⟨90, 300⟩
  resetAsserted := false
  answers := []
  freeCount := 0
  pending := []

end Sys2Proof.Machine
end

