-- ==== Sys2Proof/Machine/Operands.lean ====
section
/-! DEFINITION. The items of a request: what each link accepts (R188, R189, R199), and the values its meaning reads. -/
namespace Sys2Proof.Machine

/-! ### Request kinds and links (R188) -/

/-- The three sorts of link. -/
inductive LinkSort where
  | position
  | dispatch
  | supervisor
  deriving DecidableEq, Repr

/-- The sort of link a kind is permitted on (R188). -/
def linkSort : Kind → LinkSort
  | .newParcel | .setAttributes | .rate | .commit | .printed | .spoilt | .query | .amend | .takeOver | .void
  | .cancel => .position
  | .reweigh | .handover => .dispatch
  | .setTime | .setTimers | .setEnables | .acknowledge | .status | .openPosition | .closePosition | .resetPosition
  | .suspend | .resume | .grant | .deny | .loadBlock | .bankClear | .bankCopy | .bankWrite | .bankVerify
  | .scheduleSwitch | .unschedule | .patch | .settle | .querySupervisor | .voidSupervisor | .softReset => .supervisor

/-- The sort of a link. -/
def sortOf : Link → LinkSort
  | .position _ => .position
  | .dispatch => .dispatch
  | .supervisor => .supervisor

/-! ### Items by kind (R189) -/

/-- The items a kind carries, by code: required ones, optional ones, a group of which exactly one stands, a group of
which at least one stands. -/
structure ItemRule where
  required : List Nat
  optional : List Nat
  oneOf : List Nat
  someOf : List Nat
  deriving DecidableEq, Repr

/-- The table of R189. -/
def itemRule : Kind → ItemRule
  | .newParcel => ⟨[], [], [], []⟩
  | .setAttributes => ⟨[0x01], [0x05, 0x06, 0x07, 0x08, 0x09, 0x0A, 0x0B, 0x0C], [], []⟩
  | .rate => ⟨[0x01], [0x03], [], []⟩
  | .commit => ⟨[0x01], [0x03], [], []⟩
  | .printed => ⟨[0x01, 0x02], [], [], []⟩
  | .spoilt => ⟨[0x01, 0x02], [], [], []⟩
  | .query => ⟨[], [0x04], [0x01, 0x02], []⟩
  | .amend => ⟨[0x01, 0x0D], [0x03], [], []⟩
  | .takeOver => ⟨[0x01], [], [], []⟩
  | .void => ⟨[0x01], [0x03], [], []⟩
  | .cancel => ⟨[], [], [], []⟩
  | .reweigh => ⟨[0x02, 0x07, 0x08], [], [], []⟩
  | .handover => ⟨[0x02], [], [], []⟩
  | .setTime => ⟨[0x11], [], [], []⟩
  | .setTimers => ⟨[], [], [], [0x12, 0x13, 0x14]⟩
  | .setEnables => ⟨[0x15], [], [], []⟩
  | .acknowledge => ⟨[0x16], [], [], []⟩
  | .status => ⟨[0x1F], [], [], []⟩
  | .openPosition => ⟨[0x0E, 0x0F, 0x10], [], [], []⟩
  | .closePosition => ⟨[0x0E], [], [], []⟩
  | .resetPosition => ⟨[0x0E], [], [], []⟩
  | .suspend => ⟨[0x0E], [], [], []⟩
  | .resume => ⟨[0x0E], [], [], []⟩
  | .grant => ⟨[0x0E, 0x0F], [], [], []⟩
  | .deny => ⟨[0x0E], [], [], []⟩
  | .loadBlock => ⟨[0x17, 0x18], [], [], []⟩
  | .bankClear => ⟨[0x19], [], [], []⟩
  | .bankCopy => ⟨[0x19], [], [], []⟩
  | .bankWrite => ⟨[0x19], [0x25], [0x20, 0x21, 0x22, 0x23, 0x24], []⟩
  | .bankVerify => ⟨[0x19, 0x1A], [], [], []⟩
  | .scheduleSwitch => ⟨[0x19, 0x11, 0x1B], [], [], []⟩
  | .unschedule => ⟨[0x19], [], [], []⟩
  | .patch => ⟨[0x19, 0x1C, 0x1D], [], [], []⟩
  | .settle => ⟨[0x1E], [], [0x01, 0x02], []⟩
  | .querySupervisor => ⟨[], [], [0x01, 0x02], []⟩
  | .voidSupervisor => ⟨[], [], [0x01, 0x02], []⟩
  | .softReset => ⟨[], [], [], []⟩

/-- A value from lo to hi, both included (R1). -/
def within (lo hi n : Nat) : Bool := decide (lo ≤ n) && decide (n ≤ hi)

/-- The bank a letter byte names: the letter A or B as a character (R199). -/
def bankOfByte (n : Nat) : Option BankLetter :=
  if n = 0x41 then some .a else if n = 0x42 then some .b else none

/-- The table a letter byte names: the letter N or H as a character (R199). -/
def tableOfByte (n : Nat) : Option TableLetter :=
  if n = 0x4E then some .n else if n = 0x48 then some .h else none

/-- The greatest index a selector holds (R30). -/
def selectorMax : Nat := 2047

/-- The value of an item lies in the range the item table checks at the link (R199). Length and code have been read
already: `raw` and `cut` are the items that break them. -/
def itemInRange (k : Kind) : Item → Bool
  | .handle s g => within 0 4095 s && within 1 255 g
  | .serial n => within 0 Config.serialMax n
  | .statedGrade g => within 0 3 g
  | .reserve => true
  | .mass n => within 1 40000 n
  | .sides a b c => within 10 2000 a && within 10 2000 b && within 10 2000 c
  | .serviceCode _ | .destination _ | .declaredValue _ | .contentCategory _ | .addOption _ | .clearOptions => true
  | .optionCode n => within 1 999 n
  | .position n => within 1 24 n
  | .grade g => if k = .openPosition then within 1 3 g else within 0 3 g
  | .escalationEnable n => within 0 1 n
  | .hallTime n => within 0 Config.hallTimeMax n
  | .printDeadline n => within 10 600 n
  | .escalationTimeout n => within 30 1800 n
  | .lowStock n => within 0 100000 n
  | .enables n => within 0 255 n
  | .causes n => within 1 127 n
  | .firstSerial n => within 0 Config.serialMax n
  | .count n => within 1 100000 n
  | .bankLetter n => (bankOfByte n).isSome
  | .editionNumber n => within 1 65535 n
  | .grace n => within 0 7200 n
  | .selector l i => (tableOfByte l).isSome && within 0 selectorMax i
  | .patchChange c g => (c == 1 && g == 0) || (c == 2 && g == 0) || (c == 3 && within 0 3 g)
  | .settleForm n => within 1 2 n
  | .statusPart n => within 1 7 n
  | .parameters .. | .segment .. | .zonePlace .. | .tableLimit .. | .descriptorHead .. | .listSelector ..
  | .listBand .. => true
  | .raw .. | .cut .. => false

/-- The items 05 to 0C of SET ATTRIBUTES are judged by the record table, not by the link (R189). -/
def judgedByTable (k : Kind) (code : Nat) : Bool := k == .setAttributes && within 0x05 0x0C code

/-- Codes that may stand twice: list entries on BANK WRITE, and the items the link does not judge (R189). -/
def mayRepeat (k : Kind) (code : Nat) : Bool := (k == .bankWrite && code == 0x25) || judgedByTable k code

/-- List entries stand only with a descriptor head, and have the length its kind gives them (R189, R199, log entry
13). -/
def listEntriesFit (items : List Item) : Bool :=
  items.all fun i => match i with
    | .listSelector .. => items.any fun j => match j with | .descriptorHead _ _ k _ => k == 1 | _ => false
    | .listBand .. => items.any fun j => match j with | .descriptorHead _ _ k _ => k == 3 | _ => false
    | _ => true

/-- How often a code stands among items. -/
def codeCount (c : Nat) (items : List Item) : Nat := items.countP fun i => i.code == c

/-- The link accepts the items of a kind (R189). The manual does not say who refuses a body that ends inside an item; the
model's choice is MALFORMED at the link, on SET ATTRIBUTES too (`cut` has code 256, which no kind carries; log entry
31). -/
def itemsAccepted (k : Kind) (items : List Item) : Bool :=
  let r := itemRule k
  items.all (fun i => (r.required ++ r.optional ++ r.oneOf ++ r.someOf).contains i.code
    && (judgedByTable k i.code || itemInRange k i)
    && (mayRepeat k i.code || codeCount i.code items == 1))
  && r.required.all (fun c => codeCount c items != 0)
  && (r.oneOf.isEmpty || (r.oneOf.map fun c => codeCount c items).sum == 1)
  && (r.someOf.isEmpty || r.someOf.any fun c => codeCount c items != 0)
  && listEntriesFit items

/-! ### Reading the items -/

/-- The handle a request names. -/
def handleOf (items : List Item) : Option Handle :=
  items.findSome? fun i => match i with | .handle s g => some ⟨s, g⟩ | _ => none

/-- The label serial a request names. -/
def serialOf (items : List Item) : Option Nat :=
  items.findSome? fun i => match i with | .serial n => some n | _ => none

/-- The stated grade, if the request carries one (R45). -/
def statedGradeOf (items : List Item) : Option Nat :=
  items.findSome? fun i => match i with | .statedGrade g => some g | _ => none

/-- Whether the reserve item stands (R101). -/
def reserves (items : List Item) : Bool := items.any fun i => i == .reserve

/-- The option code of AMEND ADD OPTION. -/
def optionCodeOf (items : List Item) : Option Nat :=
  items.findSome? fun i => match i with | .optionCode n => some n | _ => none

/-- The position a supervisor request names. -/
def positionOf (items : List Item) : Option PositionNo :=
  items.findSome? fun i => match i with
    | .position n => if h : n - 1 < 24 then some ⟨n - 1, h⟩ else none
    | _ => none

/-- The grade of GRANT and OPEN POSITION. -/
def gradeOf (items : List Item) : Option Nat :=
  items.findSome? fun i => match i with | .grade g => some g | _ => none

/-- The escalation enable of OPEN POSITION. -/
def escalationEnableOf (items : List Item) : Option Bool :=
  items.findSome? fun i => match i with | .escalationEnable n => some (n == 1) | _ => none

/-- The hall time item (SET TIME; the effective time of SCHEDULE SWITCH). -/
def hallTimeOf (items : List Item) : Option Nat :=
  items.findSome? fun i => match i with | .hallTime n => some n | _ => none

/-- The print deadline setting of SET TIMERS. -/
def printDeadlineOf (items : List Item) : Option Nat :=
  items.findSome? fun i => match i with | .printDeadline n => some n | _ => none

/-- The escalation timeout setting of SET TIMERS. -/
def escalationTimeoutOf (items : List Item) : Option Nat :=
  items.findSome? fun i => match i with | .escalationTimeout n => some n | _ => none

/-- The low-stock threshold of SET TIMERS. -/
def lowStockOf (items : List Item) : Option Nat :=
  items.findSome? fun i => match i with | .lowStock n => some n | _ => none

/-- The enables byte of SET ENABLES. -/
def enablesOf (items : List Item) : Option Nat :=
  items.findSome? fun i => match i with | .enables n => some n | _ => none

/-- The causes byte of ACKNOWLEDGE. -/
def causesOf (items : List Item) : Option Nat :=
  items.findSome? fun i => match i with | .causes n => some n | _ => none

/-- The first serial of LOAD BLOCK. -/
def firstSerialOf (items : List Item) : Option Nat :=
  items.findSome? fun i => match i with | .firstSerial n => some n | _ => none

/-- The count of LOAD BLOCK. -/
def countOf (items : List Item) : Option Nat :=
  items.findSome? fun i => match i with | .count n => some n | _ => none

/-- The bank a request names. -/
def bankOf (items : List Item) : Option BankLetter :=
  items.findSome? fun i => match i with | .bankLetter n => bankOfByte n | _ => none

/-- The edition number of BANK VERIFY. -/
def editionNumberOf (items : List Item) : Option Nat :=
  items.findSome? fun i => match i with | .editionNumber n => some n | _ => none

/-- The grace of SCHEDULE SWITCH. -/
def graceOf (items : List Item) : Option Nat :=
  items.findSome? fun i => match i with | .grace n => some n | _ => none

/-- The selector of PATCH. -/
def selectorOf (items : List Item) : Option Selector :=
  items.findSome? fun i => match i with
    | .selector l n => (tableOfByte l).map fun t => ⟨t, n⟩
    | _ => none

/-- The new grade of a REGRADE patch. -/
def patchGradeOf (items : List Item) : Option Nat :=
  items.findSome? fun i => match i with | .patchChange _ g => some g | _ => none

/-- The status part of STATUS. -/
def statusPartOf (items : List Item) : Option Nat :=
  items.findSome? fun i => match i with | .statusPart n => some n | _ => none

/-- The measured mass of REWEIGH. -/
def massOf (items : List Item) : Option Nat :=
  items.findSome? fun i => match i with | .mass n => some n | _ => none

/-- The measured sides of REWEIGH. -/
def sidesOf (items : List Item) : Option Sides :=
  items.findSome? fun i => match i with | .sides a b c => some ⟨a, b, c⟩ | _ => none

/-! ### Attribute items of SET ATTRIBUTES (R83, R84) -/

/-- Whether an item is one of 05 to 0C. -/
def isAttributeItem (i : Item) : Bool := within 0x05 0x0C i.code

/-- The range of an attribute item (R83). An item of a wrong length is out of form. -/
def attributeInRange : Item → Bool
  | .serviceCode n => within 1 999 n
  | .destination n => within 0 10999 n
  | .mass n => within 1 40000 n
  | .sides a b c => within 10 2000 a && within 10 2000 b && within 10 2000 c
  | .declaredValue n => within 0 5000000 n
  | .contentCategory n => within 1 9 n
  | .addOption n => within 1 999 n
  | .clearOptions => true
  | _ => false

/-- The attribute items are as R83 requires: at least one, each in its range, none twice but add option, which may
stand up to four times. -/
def attributeItemsOk (items : List Item) : Bool :=
  let is := items.filter isAttributeItem
  !is.isEmpty
  && is.all (fun i => attributeInRange i && decide (codeCount i.code is ≤ if i.code = 0x0B then 4 else 1))

/-- The option codes the request adds, in order (R84). -/
def addedOptions (items : List Item) : List Nat :=
  items.filterMap fun i => match i with | .addOption n => some n | _ => none

/-- The candidate options list (R84): emptied first where the request carries clear options, then extended. -/
def candidateOptions (items : List Item) (options : List Nat) : List Nat :=
  (if items.any (fun i => i == .clearOptions) then [] else options) ++ addedOptions items

/-- A code stands twice in a list (R84). -/
def hasRepeat : List Nat → Bool
  | [] => false
  | c :: rest => rest.contains c || hasRepeat rest

/-- One attribute item written (R83); options are written as a list apart. -/
def writeAttribute (e : Entered) : Item → Entered
  | .serviceCode n => { e with serviceCode := some n }
  | .destination n => { e with destination := some n }
  | .mass n => { e with mass := some n }
  | .sides a b c => { e with sides := some ⟨a, b, c⟩ }
  | .declaredValue n => { e with declaredValue := some n }
  | .contentCategory n => { e with contentCategory := some n }
  | _ => e

/-- Every item of a SET ATTRIBUTES written as one change (R85). -/
def writeAttributes (items : List Item) (e : Entered) : Entered :=
  { items.foldl writeAttribute e with options := candidateOptions items e.options }

/-! ### The content of BANK WRITE (R149, R199) -/

/-- A selector from a letter byte and an index, the index stored as given (R149); a letter the layouts do not list is
refused (log entry 13). -/
def selectorFrom (l i : Nat) : Option Selector := (tableOfByte l).map fun t => ⟨t, i⟩

/-- A selector from its three bytes (R199). -/
def selectorOfBytes : List Byte → Option Selector
  | [l, a, b] => selectorFrom l.toNat (natOfBytes [a, b])
  | _ => none

/-- A flag byte: 0 for clear and 1 for set (R199); what any other byte stores is a free value (log entry 13). -/
def flagOfByte (b : Byte) : Bool :=
  if b.toNat = 0 then false else if b.toNat = 1 then true else Config.unlistedFlag b.toNat

/-- A scope by its code (R199). -/
def scopeOfByte (b : Byte) : Option Scope :=
  match b.toNat with
  | 1 => some .domestic
  | 2 => some .international
  | 3 => some .both
  | _ => none

/-- What a condition looks at, by its code (R199). -/
def measureOfByte (b : Byte) : Option Measure :=
  match b.toNat with
  | 1 => some .chargeableMass
  | 2 => some .longestSide
  | 3 => some .girth
  | 4 => some .declaredValue
  | 5 => some .zone
  | _ => none

/-- How a condition compares, by its code (R199). -/
def comparisonOfByte (b : Byte) : Option Comparison :=
  match b.toNat with
  | 0 => some .always
  | 1 => some .above
  | 2 => some .atLeast
  | 3 => some .below
  | 4 => some .atMost
  | 5 => some .equal
  | 6 => some .notEqual
  | _ => none

/-- A four-byte number read as two's complement (R199). -/
def signedOf (n : Nat) : Int := if n < 2147483648 then (n : Int) else (n : Int) - 4294967296

/-- An amount by its form code and its four bytes: signed for FIXED (R199). -/
def amountOf (form : Byte) (n : Nat) : Option Amount :=
  match form.toNat with
  | 1 => some (.fixed (signedOf n))
  | 2 => some (.perMille n)
  | _ => none

/-- The surcharge selectors that follow a SERVICE head, in order (R199). -/
def listedSelectors : List Item → Option (List Selector)
  | [] => some []
  | .listSelector l i :: rest => do
    let sel ← selectorFrom l i
    let more ← listedSelectors rest
    pure (sel :: more)
  | _ :: rest => listedSelectors rest

/-- The bands that follow a RATE head, in order (R199). -/
def listedBands : List Item → List Band
  | [] => []
  | .listBand m ps :: rest => ⟨m, ps⟩ :: listedBands rest
  | _ :: rest => listedBands rest

/-- The descriptor and present flag that a head's kind and fields with the list entries of the request spell; none
where an enumerated field holds a code or a selector a letter that the layouts do not list (R149, R199, log entry
13). -/
def descriptorOf (kind : Nat) (fields : List Byte) (items : List Item) : Option (Descriptor × Bool) :=
  match kind, fields with
  | 0, [] => some (.empty, false)
  | 1, [g, p, c1, c2, sc, v, cu, r0, r1, r2] => do
    let scope ← scopeOfByte sc
    let rate ← selectorOfBytes [r0, r1, r2]
    let list ← listedSelectors items
    pure (.service ⟨g.toNat, (c1.toNat, c2.toNat), scope, flagOfByte v, flagOfByte cu, rate, list⟩, flagOfByte p)
  | 2, [g, p, t0, t1, t2] => do
    let target ← selectorOfBytes [t0, t1, t2]
    pure (.redirect g.toNat target, flagOfByte p)
  | 3, [p] => some (.rate (listedBands items), flagOfByte p)
  | 4, [g, p, m, c, h0, h1, h2, h3, f, a0, a1, a2, a3] => do
    let measure ← measureOfByte m
    let comparison ← comparisonOfByte c
    let amount ← amountOf f (natOfBytes [a0, a1, a2, a3])
    pure (.surcharge ⟨g.toNat, measure, comparison, natOfBytes [h0, h1, h2, h3], amount⟩, flagOfByte p)
  | _, _ => none

/-- One write of BANK WRITE (R149). -/
inductive BankWrite where
  | parameters (p : Parameters)
  | segment (n : Nat) (content : Option Segment)
  | place (n : Nat) (content : Option Zone)
  | limit (t : TableLetter) (n : Nat)
  | slot (sel : Selector) (content : Descriptor) (present : Bool)
  deriving DecidableEq, Repr

/-- A descriptor slot that BANK WRITE may name: N:1 to N:1,023 or H:0 to H:255 (R149, R29). -/
def writableSlot : Selector → Bool
  | ⟨.n, i⟩ => within 1 1023 i
  | ⟨.h, i⟩ => within 0 255 i

/-- The successor byte: 0 to 31, or 255 for END (R199). The outer option is none where it is neither. -/
def successorOf (n : Nat) : Option (Option Nat) :=
  if n ≤ 31 then some (some n) else if n = 255 then some none else none

/-- The write one item asks for, or none where R149 answers MALFORMED. -/
def writeOfItem (items : List Item) : Item → Option BankWrite
  | .parameters g m t =>
    if g ≤ 500 && m ≤ 100 && t ≤ 5000000 then some (.parameters ⟨g, m, t⟩) else none
  | .segment n u f l bl bi x =>
    if 31 < n then none
    else match u with
      | 0 => some (.segment n none)
      | 1 => do
        let base ← selectorFrom bl bi
        let next ← successorOf x
        pure (.segment n (some ⟨f, l, base, next⟩))
      | _ => none
  | .zonePlace n u l h z c =>
    if 255 < n then none
    else match u with
      | 0 => some (.place n none)
      | 1 => some (.place n (some ⟨l, h, z, c⟩))
      | _ => none
  | .tableLimit l n =>
    match tableOfByte l with
    | some .n => if within 1 1024 n then some (.limit .n n) else none
    | some .h => if n ≤ 256 then some (.limit .h n) else none
    | none => none
  | .descriptorHead l i k fields => do
    let sel ← selectorFrom l i
    if writableSlot sel then
      let d ← descriptorOf k fields items
      pure (.slot sel d.1 d.2)
    else none
  | _ => none

/-- Whether an item is one of the five that say what BANK WRITE writes. -/
def isWriteItem (i : Item) : Bool := within 0x20 0x24 i.code

/-- The write of a BANK WRITE (R149). -/
def bankWriteOf (items : List Item) : Option BankWrite :=
  match items.find? isWriteItem with
  | some i => writeOfItem items i
  | none => none

end Sys2Proof.Machine
end

