-- ==== Sys2Proof/Machine/Flags.lean ====
section
/-! DEFINITION. The attention flags, their line, and the integrity state's own steps (R181, R193 to R195). -/
namespace Sys2Proof.Machine

/-- The flag of a cause. -/
def Causes.get (c : Causes) : Cause → Bool
  | .escalation => c.escalation
  | .integrity => c.integrity
  | .poolLow => c.poolLow
  | .held => c.held
  | .switchTaken => c.switchTaken
  | .bankRetired => c.bankRetired
  | .quotesLapsed => c.quotesLapsed

/-- Set the flag of a cause. -/
def Causes.set (c : Causes) : Cause → Causes
  | .escalation => { c with escalation := true }
  | .integrity => { c with integrity := true }
  | .poolLow => { c with poolLow := true }
  | .held => { c with held := true }
  | .switchTaken => { c with switchTaken := true }
  | .bankRetired => { c with bankRetired := true }
  | .quotesLapsed => { c with quotesLapsed := true }

/-- Whether some cause is flagged in both. -/
def Causes.meet (a b : Causes) : Bool :=
  a.escalation && b.escalation || a.integrity && b.integrity || a.poolLow && b.poolLow || a.held && b.held ||
    a.switchTaken && b.switchTaken || a.bankRetired && b.bankRetired || a.quotesLapsed && b.quotesLapsed

/-- Bit `i` of a byte's number. -/
def bitOf (n i : Nat) : Bool := n / 2 ^ i % 2 == 1

/-- The causes a byte names: bit 0 to bit 6 in the order of the table of R193 (R199, items 15 and 16). -/
def Causes.ofByte (n : Nat) : Causes :=
  ⟨bitOf n 0, bitOf n 1, bitOf n 2, bitOf n 3, bitOf n 4, bitOf n 5, bitOf n 6⟩

/-- A cause becomes pending (R193). -/
def Attention.raise (a : Attention) (c : Cause) : Attention := { a with pending := a.pending.set c }

/-- A level cause becomes pending as its condition changes from not holding to holding; the conditions are remembered
(R193). -/
def Attention.judge (a : Attention) (now : Conditions) : Attention :=
  { a with
    pending := { a.pending with
      escalation := a.pending.escalation || (now.escalation && !a.conditions.escalation)
      poolLow := a.pending.poolLow || (now.poolLow && !a.conditions.poolLow)
      held := a.pending.held || (now.held && !a.conditions.held) }
    conditions := now }

/-- ACKNOWLEDGE (R194): each named flag that is pending is cleared, and set again at once where it is a level cause whose
remembered condition holds; naming a cause that is not pending changes nothing for it. -/
def Attention.acknowledge (a : Attention) (named : Causes) : Attention :=
  { a with
    pending := {
      escalation := a.pending.escalation && (!named.escalation || a.conditions.escalation)
      integrity := a.pending.integrity && !named.integrity
      poolLow := a.pending.poolLow && (!named.poolLow || a.conditions.poolLow)
      held := a.pending.held && (!named.held || a.conditions.held)
      switchTaken := a.pending.switchTaken && !named.switchTaken
      bankRetired := a.pending.bankRetired && !named.bankRetired
      quotesLapsed := a.pending.quotesLapsed && !named.quotesLapsed } }

/-- SET ENABLES (R194): every enable takes the value written; a level cause enabled afresh while its condition holds
becomes pending. -/
def Attention.enable (a : Attention) (e : Causes) : Attention :=
  { a with
    pending := { a.pending with
      escalation := a.pending.escalation || (e.escalation && !a.enabled.escalation && a.conditions.escalation)
      poolLow := a.pending.poolLow || (e.poolLow && !a.enabled.poolLow && a.conditions.poolLow)
      held := a.pending.held || (e.held && !a.enabled.held && a.conditions.held) }
    enabled := e }

/-- The end of a soft-reset drain (R197): each level cause whose remembered condition holds becomes pending. -/
def Attention.drainEnded (a : Attention) : Attention :=
  { a with
    pending := { a.pending with
      escalation := a.pending.escalation || a.conditions.escalation
      poolLow := a.pending.poolLow || a.conditions.poolLow
      held := a.pending.held || a.conditions.held } }

/-- The attention line (R195): asserted exactly when some cause is both pending and enabled; deasserted while the
reset input is asserted. -/
def State.line (s : State) : Bool := !s.resetAsserted && s.attention.pending.meet s.attention.enabled

/-- The state a report leaves (R181). -/
def IntegrityState.afterReport (i : IntegrityState) (alertEnable : Bool) : IntegrityState :=
  match i with
  | .normal => if alertEnable then .alert else .halted
  | .alert => .halted
  | .halted => .halted

/-- The failure log with one more report: a ninth removes the oldest (R179). -/
def appendLog (log : List LogEntry) (e : LogEntry) : List LogEntry :=
  if log.length < Config.logLimit then log ++ [e] else (log ++ [e]).drop (log.length + 1 - Config.logLimit)

/-- The checker takes a report (R179, R181). -/
def Integrity.take (i : Integrity) (subject : ReportSubject) (reader : Reader) (time : Nat) : Integrity :=
  let count := min Config.reportCountMax (i.reportCount + 1)
  let left := i.state.afterReport i.alertEnable
  { i with state := left, reportCount := count, log := appendLog i.log ⟨subject, reader, time, count, left⟩ }

end Sys2Proof.Machine
end

