-- ==== Sys2Proof/Machine/Tables.lean ====
section
/-! DEFINITION. Reading and writing the sparse stores: one canonical form, keys strictly rising and no cell equal to
what an unlisted key holds. -/
namespace Sys2Proof.Machine

/-- The content at a key among cells. -/
def getCell {α : Type} (k : Nat) : List (Nat × α) → Option α
  | [] => none
  | (j, v) :: rest => if j = k then some v else getCell k rest

/-- Put a content at a key, keeping the keys rising. -/
def insertCell {α : Type} (k : Nat) (v : α) : List (Nat × α) → List (Nat × α)
  | [] => [(k, v)]
  | (j, w) :: rest =>
    if k < j then (k, v) :: (j, w) :: rest
    else if k = j then (k, v) :: rest
    else (j, w) :: insertCell k v rest

/-- Take the content at a key out. -/
def eraseCell {α : Type} (k : Nat) : List (Nat × α) → List (Nat × α)
  | [] => []
  | (j, w) :: rest => if j = k then rest else (j, w) :: eraseCell k rest

/-- Keys strictly rising. -/
def risingKeys {α : Type} : List (Nat × α) → Bool
  | [] => true
  | (j, _) :: rest => (rest.head?.all fun c => decide (j < c.1)) && risingKeys rest

namespace Table
variable {α : Type}

/-- What a key holds, if it is listed. -/
def get (t : Table α) (k : Nat) : Option α := getCell k t.cells

/-- What a key holds, with what an unlisted key holds. -/
def getD (t : Table α) (k : Nat) (d : α) : α := (t.get k).getD d

/-- List a content at a key. -/
def insert (t : Table α) (k : Nat) (v : α) : Table α := ⟨insertCell k v t.cells⟩

/-- Unlist a key. -/
def erase (t : Table α) (k : Nat) : Table α := ⟨eraseCell k t.cells⟩

/-- Write a key: writing what an unlisted key holds unlists it. -/
def put [DecidableEq α] (t : Table α) (k : Nat) (v d : α) : Table α := if v = d then t.erase k else t.insert k v

/-- Change every listed content; the keys stay. -/
def mapValues (t : Table α) (f : α → α) : Table α := ⟨t.cells.map fun c => (c.1, f c.2)⟩

/-- The lowest key of the next `fuel` keys from `k` on that is not listed (R3). -/
def lowestFree (t : Table α) : Nat → Nat → Option Nat
  | 0, _ => none
  | fuel + 1, k =>
    match t.get k with
    | none => some k
    | some _ => lowestFree t fuel (k + 1)

end Table

/-- An unused segment or place, sound (R23, R37). -/
def Cell.unused {α : Type} : Cell α := ⟨none, false, true⟩

/-- An EMPTY descriptor slot, sound (R23, R37). -/
def SlotCell.empty : SlotCell := ⟨.empty, false, false, true⟩

end Sys2Proof.Machine
end

