-- ==== Sys2Proof/Machine/Ops.lean ====
section
/-! DEFINITION. The named operations over the state: links and answers, positions, records and the label index, banks
and pins, jobs and the queue, damage and reports, retirement, the switch and grace expiry. Meanings are written over
these. -/
namespace Sys2Proof.Machine

/-! ### Reading and writing the blocks -/

/-- A link. -/
def State.link (s : State) : Link → LinkState
  | .position p => s.links.positions.get p
  | .dispatch => s.links.dispatch
  | .supervisor => s.links.supervisor

/-- Replace a link. -/
def State.setLink (s : State) (l : Link) (x : LinkState) : State :=
  match l with
  | .position p => { s with links := { s.links with positions := s.links.positions.set p.val x p.isLt } }
  | .dispatch => { s with links := { s.links with dispatch := x } }
  | .supervisor => { s with links := { s.links with supervisor := x } }

/-- A position's context. -/
def State.ctx (s : State) (p : PositionNo) : Context := s.positions.get p

/-- Replace a position's context. -/
def State.setCtx (s : State) (p : PositionNo) (c : Context) : State :=
  { s with positions := s.positions.set p.val c p.isLt }

/-- A rating unit: none while IDLE. -/
def State.unit (s : State) (u : UnitNo) : Option Job := s.units.get u

/-- Replace a unit's job record. -/
def State.setUnit (s : State) (u : UnitNo) (j : Option Job) : State :=
  { s with units := s.units.set u.val j u.isLt }

/-- A bank. -/
def State.bank (s : State) : BankLetter → Bank
  | .a => s.bankA
  | .b => s.bankB

/-- Replace a bank. -/
def State.setBank (s : State) (l : BankLetter) (b : Bank) : State :=
  match l with
  | .a => { s with bankA := b }
  | .b => { s with bankB := b }

/-- The other bank. -/
def otherBank : BankLetter → BankLetter
  | .a => .b
  | .b => .a

/-- Whether the part is HALTED. -/
def State.halted (s : State) : Bool := s.integrity.state == .halted

/-- An attention cause is raised (R193). -/
def State.raise (s : State) (c : Cause) : State := { s with attention := s.attention.raise c }

/-! ### Links and answers (R187, R190) -/

/-- An answer's kind: its request's kind plus 80 hexadecimal; from 80 upward no byte holds the sum (log entry 11). -/
def answerKind (k : Byte) : Byte := if k.toNat < 0x80 then k + 0x80 else Config.unlistedAnswerKind k

/-- Send one answer frame. -/
def State.send (s : State) (l : Link) (tag : Tag) (kind : Byte) (a : Answer) : State :=
  { s with answers := s.answers ++ [⟨l, tag, answerKind kind, a⟩] }

/-- A request becomes its link's outstanding request (R187). -/
def State.hold (s : State) (l : Link) (k : Kind) (tag : Tag) : State :=
  s.setLink l { s.link l with outstanding := some ⟨k, tag⟩ }

/-- Answer a link's outstanding request with its own tag and free the link (R187, R190). -/
def State.answer (s : State) (l : Link) (a : Answer) : State :=
  match (s.link l).outstanding with
  | none => s
  | some o => (s.setLink l { s.link l with outstanding := none }).send l o.tag o.kind.code a

/-! ### Positions -/

/-- A WORKING position leaves WORKING as its request is answered; a pending suspension is taken in the same step and
the live reservation goes with it (R122, R132). Other states stay. -/
def Context.released : Context → Context
  | .working session pend res _ => if pend then .suspended session .opened else .opened session res
  | c => c

/-- Whether a position is ESCALATED. -/
def Context.isEscalated : Context → Bool
  | .escalated .. => true
  | _ => false

/-- Whether a position is CLOSED. -/
def Context.isClosed : Context → Bool
  | .closed => true
  | _ => false

/-- Answer a position's outstanding request and take the position out of WORKING (R122). -/
def State.answerPosition (s : State) (p : PositionNo) (a : Answer) : State :=
  (s.answer (.position p) a).setCtx p (s.ctx p).released

/-- Answer the requester of a job or queue entry; for dispatch the pending reweigh is emptied in the same step
(R171). -/
def State.answerRequester (s : State) (r : Requester) (a : Answer) : State :=
  match r with
  | .position p => s.answerPosition p a
  | .dispatch => { s.answer .dispatch a with pendingReweigh := none }

/-! ### Records (R2 to R22) -/

/-- The generation a slot carries (R2). -/
def State.generation (s : State) (slot : Nat) : Nat := s.table.generations.getD slot 1

/-- The handle of the record in a slot. -/
def State.handleAt (s : State) (slot : Nat) : Handle := ⟨slot, s.generation slot⟩

/-- The record in a slot, if it holds one. -/
def State.record (s : State) (slot : Nat) : Option Rec := s.table.records.get slot

/-- Write a record into its slot. -/
def State.putRecord (s : State) (slot : Nat) (r : Rec) : State :=
  { s with table := { s.table with records := s.table.records.insert slot r } }

/-- Free a slot. -/
def State.freeSlot (s : State) (slot : Nat) : State :=
  { s with table := { s.table with
      records := s.table.records.erase slot
      generations := s.table.generations.put slot (if s.generation slot = 255 then 1 else s.generation slot + 1) 1 } }

/-- Add or replace an index entry. -/
def State.putIndex (s : State) (serial : Nat) (e : IndexEntry) : State :=
  { s with table := { s.table with index := s.table.index.insert serial e } }

/-- Remove an index entry. -/
def State.eraseIndex (s : State) (serial : Nat) : State :=
  { s with table := { s.table with index := s.table.index.erase serial } }

/-- The record state by name. -/
def RecordBody.name : RecordBody → RecordState
  | .draft .. => .draft
  | .rated .. => .rated
  | .printing .. => .printing
  | .labelled .. => .labelled
  | .held .. => .held
  | .damaged .. => .damaged

/-- The label of a record, where it has one (R11). -/
def RecordBody.label : RecordBody → Option Label
  | .draft _ => none
  | .rated _ _ => none
  | .printing _ _ l _ => some l
  | .labelled _ _ l _ _ => some l
  | .held _ _ l _ _ _ => some l
  | .damaged l => l

/-- The bank a record pins: that of its quote in RATED and PRINTING (R7, R11). -/
def RecordBody.pin : RecordBody → Option BankLetter
  | .rated _ q => some q.bank
  | .printing _ q _ _ => some q.bank
  | _ => none

/-- Whether a record is HELD. -/
def RecordBody.isHeld : RecordBody → Bool
  | .held .. => true
  | _ => false

/-- Whether a record is PRINTING. -/
def RecordBody.isPrinting : RecordBody → Bool
  | .printing .. => true
  | _ => false

/-- Whether a record is DRAFT or RATED (R22). -/
def RecordBody.isOpen : RecordBody → Bool
  | .draft _ => true
  | .rated _ _ => true
  | _ => false

/-- One change of a record: a new body, the change count advanced once and wrapping, fresh check bits (R10, R177). -/
def Rec.change (r : Rec) (body : RecordBody) : Rec :=
  { r with body := body, changeCount := (r.changeCount + 1) % 65536, sound := true }

/-- What becomes of a record whose check fails (R17): handle, owner and label kept, the marks cleared. -/
def Rec.damage (r : Rec) : Rec := { r.change (.damaged r.body.label) with busy := false, queued := false }

/-- Set or clear the busy mark; neither a change of the record nor fresh check bits (R10, R18, log entry 16). -/
def State.markBusy (s : State) (slot : Nat) (b : Bool) : State :=
  match s.record slot with
  | some r => s.putRecord slot { r with busy := b }
  | none => s

/-- Set or clear the queued mark, in the same way (R19). -/
def State.markQueued (s : State) (slot : Nat) (b : Bool) : State :=
  match s.record slot with
  | some r => s.putRecord slot { r with queued := b }
  | none => s

/-- The record a handle finds: its slot is live and carries the handle's generation (R4). -/
def State.find (s : State) (h : Handle) : Option Rec :=
  match s.record h.slot with
  | some r => if s.generation h.slot = h.gen then some r else none
  | none => none

/-- The slot of the live record whose label carries a serial, found in the records (R178). -/
def carrierAmong (serial : Nat) : List (Nat × Rec) → Option Nat
  | [] => none
  | (slot, r) :: rest =>
    if r.body.label.any (fun l => l.serial == serial) then some slot else carrierAmong serial rest

/-- The record an index entry's failure damages (R178). -/
def State.carrier (s : State) (serial : Nat) : Option Nat := carrierAmong serial s.table.records.cells

/-- Records a position owns of a sort. -/
def State.owned (s : State) (p : PositionNo) (sort : RecordBody → Bool) : Nat :=
  s.table.records.cells.countP fun c => c.2.owner == p && sort c.2.body

/-- The count NEW PARCEL and TAKE OVER check: the open count plus the records in PRINTING (R22). -/
def State.ownedInHand (s : State) (p : PositionNo) : Nat := s.owned p fun b => b.isOpen || b.isPrinting

/-! ### Banks and pins (R39 to R41, R156) -/

/-- The bank state by name. -/
def BankState.name : BankState → BankStateName
  | .empty => .empty
  | .loading => .loading
  | .verified _ => .verified
  | .scheduled .. => .scheduled
  | .active _ => .active
  | .retiring .. => .retiring
  | .stale _ => .stale

/-- The edition number a bank carries, in the states that carry one (R23, R24). -/
def BankState.edition : BankState → Option Nat
  | .empty => none
  | .loading => none
  | .verified n => some n
  | .scheduled n _ _ => some n
  | .active n => some n
  | .retiring n _ => some n
  | .stale n => some n

/-- Whether a bank is ACTIVE. -/
def BankState.isActive : BankState → Bool
  | .active _ => true
  | _ => false

/-- The ACTIVE bank, if there is one. -/
def State.activeBank (s : State) : Option BankLetter :=
  if s.bankA.state.isActive then some .a else if s.bankB.state.isActive then some .b else none

/-- A bank takes a pin (R41). -/
def State.takePin (s : State) (l : BankLetter) : State :=
  s.setBank l { s.bank l with pins := (s.bank l).pins + 1 }

/-- A bank releases a pin; a RETIRING bank whose count reaches 0 becomes STALE in the same step and BANK RETIRED is
raised (R41, R156). -/
def State.releasePin (s : State) (l : BankLetter) : State :=
  let b := s.bank l
  match b.state with
  | .retiring ed _ =>
    if b.pins - 1 = 0 then (s.setBank l { b with pins := 0, state := .stale ed }).raise .bankRetired
    else s.setBank l { b with pins := b.pins - 1 }
  | _ => s.setBank l { b with pins := b.pins - 1 }

/-- Release the pin a record body holds, if it holds one. -/
def State.releaseBodyPin (s : State) (b : RecordBody) : State :=
  match b.pin with
  | some l => s.releasePin l
  | none => s

/-! ### Bank entries (R37) -/

/-- A catalogue segment as stored. -/
def Bank.segmentCell (b : Bank) (n : Nat) : Cell Segment := b.segments.getD n .unused

/-- The slots of a descriptor table. -/
def Bank.slots (b : Bank) : TableLetter → Table SlotCell
  | .n => b.nSlots
  | .h => b.hSlots

/-- The limit of a descriptor table (R29). -/
def Bank.limit (b : Bank) : TableLetter → Nat
  | .n => b.nLimit
  | .h => b.hLimit

/-- A descriptor slot as stored. -/
def Bank.slotCell (b : Bank) (sel : Selector) : SlotCell := (b.slots sel.table).getD sel.index .empty

/-- A zone place as stored. -/
def Bank.placeCell (b : Bank) (n : Nat) : Cell Zone := b.zones.getD n .unused

/-- Replace a segment cell. -/
def Bank.putSegment (b : Bank) (n : Nat) (c : Cell Segment) : Bank :=
  { b with segments := b.segments.put n c .unused }

/-- Replace a place cell. -/
def Bank.putPlace (b : Bank) (n : Nat) (c : Cell Zone) : Bank := { b with zones := b.zones.put n c .unused }

/-- Replace a slot cell. -/
def Bank.putSlot (b : Bank) (sel : Selector) (c : SlotCell) : Bank :=
  match sel.table with
  | .n => { b with nSlots := b.nSlots.put sel.index c .empty }
  | .h => { b with hSlots := b.hSlots.put sel.index c .empty }

/-- Whether an entry carries a damaged mark. -/
def Bank.isDamaged (b : Bank) : BankEntry → Bool
  | .segment n => (b.segmentCell n).damaged
  | .place n => (b.placeCell n).damaged
  | .slot sel => (b.slotCell sel).damaged

/-- Mark an entry damaged (R37): a segment or place loses its content, a slot its present flag; the count rises by
one. -/
def Bank.damage (b : Bank) (e : BankEntry) : Bank :=
  let b' := match e with
    | .segment n => b.putSegment n ⟨none, true, true⟩
    | .place n => b.putPlace n ⟨none, true, true⟩
    | .slot sel => b.putSlot sel { b.slotCell sel with present := false, damaged := true }
  { b' with damagedCount := b'.damagedCount + 1 }

/-- Make the check bits of an entry disagree with it (log entry 3). -/
def Bank.unsound (b : Bank) : BankEntry → Bank
  | .segment n => b.putSegment n { b.segmentCell n with sound := false }
  | .place n => b.putPlace n { b.placeCell n with sound := false }
  | .slot sel => b.putSlot sel { b.slotCell sel with sound := false }

/-- An entry as a job reads it. -/
def Bank.seenEntry (b : Bank) : BankEntry → SeenEntry
  | .segment n => .segment n (b.segmentCell n)
  | .place n => .place n (b.placeCell n)
  | .slot sel => .slot sel (b.slotCell sel)

/-- A bank with one entry as a job has read it. -/
def Bank.withSeen (b : Bank) : SeenEntry → Bank
  | .segment n c => b.putSegment n c
  | .place n c => b.putPlace n c
  | .slot sel c => b.putSlot sel c

/-- The bank as a job reads it in one lookup or resolution: what it has read there stands as it read it, and every other
entry as the bank holds it, also one that an earlier lookup or resolution has read (R47). -/
def Job.view (j : Job) (b : Bank) (reading : Nat) : Bank :=
  j.seen.foldl (fun b x => if x.reading = reading then b.withSeen x.entry else b) b

/-! ### Attention conditions (R115, R146, R172) -/

/-- The remaining count of the pool (R145). -/
def Pool.remaining (p : Pool) : Nat := (p.blocks.map fun b => b.last + 1 - b.next).sum

/-- The conditions of the three level causes as the blocks stand (R115, R146, R172). -/
def State.conditions (s : State) : Conditions where
  escalation := s.positions.toList.any Context.isEscalated
  poolLow := decide (s.pool.remaining < s.pool.threshold)
  held := s.table.records.cells.any fun c => c.2.body.isHeld

/-- The blocks report their conditions to the Attention Controller at the end of a step (R193, log entry 27). -/
def State.judge (s : State) : State := { s with attention := s.attention.judge s.conditions }

/-! ### Reports and damage (R17, R21, R37, R74, R178, R181) -/

/-- The Integrity Checker takes a report; entering ALERT raises the INTEGRITY event (R181). -/
def State.report (s : State) (subject : ReportSubject) (reader : Reader) : State :=
  let s' := { s with integrity := s.integrity.take subject reader s.hallTime }
  if s'.integrity.state = .alert then s'.raise .integrity else s'

/-- The unit whose running job concerns a handle. -/
def State.unitOn (s : State) (h : Handle) : Option UnitNo :=
  [0, 1, 2, 3].find? fun u => (s.unit u).any fun j => j.entry.handle == h

/-- End the running job on a record, if there is one (R74): its pin is released, the unit becomes IDLE, and the
requester is answered unless the job is discarded. -/
def State.endJobOn (s : State) (h : Handle) (a : Answer) : State :=
  match s.unitOn h with
  | none => s
  | some u =>
    match s.unit u with
    | none => s
    | some j =>
      let s' := (s.setUnit u none).releasePin j.bank
      if j.discarded then s' else s'.answerRequester j.entry.requester a

/-- A unit's own failing read of its record ends its job with the answer DAMAGED (R44, R72, R74), also where the record was
DAMAGED already, so that the read left it as it is (R17). -/
def State.endUnread (s : State) (h : Handle) (subject : ReportSubject) : State :=
  match s.unitOn h with
  | none => s
  | some _ => (s.endJobOn h (.damaged subject)).markBusy h.slot false

/-- Remove the queue entry on a record, if there is one, and answer its request (R5, R17, R77). The record's own mark
is the caller's to clear. -/
def State.dropEntryOn (s : State) (h : Handle) (a : Answer) : State :=
  match s.queue.find? (fun e => e.handle == h) with
  | none => s
  | some e => { s with queue := s.queue.filter fun x => x.handle != h }.answerRequester e.requester a

/-- Damage of a record (R17, R74, R77): it becomes DAMAGED, its pin is released, the running job on it ends and the queue
entry on it is removed, each with the answer DAMAGED and each found by the record's handle, not by its marks. A DAMAGED
record stays as it is. State, pin, owner and label are those the record had: a disturbance is modelled by its check bits
alone, the model's choice (log entries 3 and 32). -/
def State.damageRecord (s : State) (slot : Nat) (r : Rec) (subject : ReportSubject) : State :=
  match r.body with
  | .damaged _ => s
  | body =>
    let h := s.handleAt slot
    let s := s.putRecord slot r.damage
    let s := s.releaseBodyPin body
    (s.endJobOn h (.damaged subject)).dropEntryOn h (.damaged subject)

/-- What a lookup of a record finds. -/
inductive Lookup where
  | noRecord
  | damaged (subject : ReportSubject)
  | found (slot : Nat) (r : Rec)
  deriving DecidableEq, Repr

/-- Read the record in a slot with its check (R177): a failing read damages it and reports it. -/
def State.readAt (s : State) (reader : Reader) (slot : Nat) (r : Rec) : State × Lookup :=
  if r.sound then (s, .found slot r)
  else
    let subject := ReportSubject.record (s.handleAt slot)
    ((s.damageRecord slot r subject).report subject reader, .damaged subject)

/-- Resolve a handle (R4, R177). -/
def State.lookupHandle (s : State) (reader : Reader) (h : Handle) : State × Lookup :=
  match s.find h with
  | none => (s, .noRecord)
  | some r => s.readAt reader h.slot r

/-- A failing index entry (R21, R178): it is kept and marked failed, the record carrying the serial is damaged, and the
failure is reported. -/
def State.failIndexEntry (s : State) (reader : Reader) (serial : Nat) (e : IndexEntry) : State × ReportSubject :=
  let subject := ReportSubject.indexEntry serial ((s.carrier serial).map s.handleAt)
  let s1 := s.putIndex serial { e with failed := true }
  let s2 := match s.carrier serial with
    | none => s1
    | some slot =>
      match s1.record slot with
      | none => s1
      | some r => s1.damageRecord slot r subject
  (s2.report subject reader, subject)

/-- Resolve a serial through the label index (R20, R21, R177). An entry that leads to an empty slot, which R20 excludes, is
answered NO RECORD: the model's choice (log entry 18). -/
def State.lookupSerial (s : State) (reader : Reader) (serial : Nat) : State × Lookup :=
  match s.table.index.get serial with
  | none => (s, .noRecord)
  | some e =>
    if e.failed then (s, .damaged (.indexEntry serial ((s.carrier serial).map s.handleAt)))
    else if e.sound then
      match s.record e.slot with
      | none => (s, .noRecord)
      | some r => s.readAt reader e.slot r
    else
      let f := s.failIndexEntry reader serial e
      (f.1, .damaged f.2)

/-- Read the records of slots in turn with their checks, each failure damaged and reported on its own (R177). -/
def readEach (reader : Reader) : List Nat → State → State
  | [], s => s
  | slot :: rest, s =>
    match s.record slot with
    | none => readEach reader rest s
    | some r => readEach reader rest (s.readAt reader slot r).1

/-- Read every live record, lowest slot first (R177, log entry 9). -/
def State.readAll (s : State) (reader : Reader) : State :=
  readEach reader (s.table.records.cells.map (·.1)) s

/-! ### Retirement (R5) -/

/-- Retirement of a record (R5): its pin is released, its index entry removed, its queue entry removed with the answer
NO RECORD, its slot freed and the slot's generation advanced. -/
def State.retire (s : State) (slot : Nat) (r : Rec) : State :=
  let h := s.handleAt slot
  let s := s.releaseBodyPin r.body
  let s := match r.body.label with
    | some l => s.eraseIndex l.serial
    | none => s
  let s := s.dropEntryOn h .noRecord
  s.freeSlot slot

/-! ### Changes of a record by transition (R12 to R16) -/

/-- A RATED record returns to DRAFT with the entries it then has: quote removed, pin released, one change (R13). A DRAFT
record stays DRAFT, as one change. -/
def State.toDraft (s : State) (slot : Nat) (r : Rec) (e : Entered) : State :=
  (s.putRecord slot (r.change (.draft e))).releaseBodyPin r.body

/-- Whether the grace of a quote's bank has expired (R40). -/
def State.graceExpired (s : State) (l : BankLetter) : Bool :=
  match (s.bank l).state with
  | .retiring _ .expired => true
  | _ => false

/-- A PRINTING record leaves print unprinted (R15, R95, R96): to RATED, or to DRAFT where the grace of its bank has
expired; the label and its index entry go. -/
def State.unprint (s : State) (slot : Nat) (r : Rec) (e : Entered) (q : Quote) (l : Label) : State :=
  let s := s.eraseIndex l.serial
  if s.graceExpired q.bank then s.toDraft slot r e else s.putRecord slot (r.change (.rated e q))

/-! ### The queue (R67, R68) -/

/-- An entry joins at the tail and the record's queued mark is set (R68, R19). -/
def State.join (s : State) (e : QueueEntry) : State :=
  { s with queue := s.queue ++ [e] }.markQueued e.handle.slot true

/-- The queued entry of a requester. -/
def State.entryOf (s : State) (r : Requester) : Option QueueEntry := s.queue.find? fun e => e.requester == r

/-- Remove a requester's entry and clear its record's queued mark, answering nothing (R77). -/
def State.removeEntryOf (s : State) (r : Requester) : State :=
  match s.entryOf r with
  | none => s
  | some e => { s with queue := s.queue.filter fun x => x.requester != r }.markQueued e.handle.slot false

/-- All four units are IDLE (R75, R76). -/
def State.allIdle (s : State) : Bool := s.units.toList.all Option.isNone

/-- Whether a soft-reset drain is in progress. -/
def State.draining (s : State) : Bool := s.grantState == .draining

/-! ### Grace expiry and the switch (R154, R157) -/

/-- The slots of the RATED records whose quote names a bank. -/
def ratedOn (l : BankLetter) : List (Nat × Rec) → List Nat
  | [] => []
  | (slot, r) :: rest =>
    match r.body with
    | .rated _ q => if q.bank = l then slot :: ratedOn l rest else ratedOn l rest
    | _ => ratedOn l rest

/-- The RATED records of an expiring bank return to DRAFT one by one, each read with its check; the flag says whether
one returned (R157, R177). -/
def lapseEach : List Nat → State → State × Bool
  | [], s => (s, false)
  | slot :: rest, s =>
    match s.record slot with
    | none => lapseEach rest s
    | some r =>
      match s.readAt .graceExpiry slot r with
      | (s', .found _ r') =>
        match r'.body with
        | .rated e _ => ((lapseEach rest (s'.toDraft slot r' e)).1, true)
        | _ => lapseEach rest s'
      | (s', _) => lapseEach rest s'

/-- The grace expiry of a bank, as one step (R157). -/
def State.expireGrace (s : State) (l : BankLetter) : State :=
  let r := lapseEach (ratedOn l s.table.records.cells) s
  let s1 := r.1
  let s2 := match (s1.bank l).state with
    | .retiring ed _ => s1.setBank l { s1.bank l with state := .retiring ed .expired }
    | _ => s1
  if r.2 then s2.raise .quotesLapsed else s2

/-- The outgoing bank at a switch (R154, step 2): RETIRING with pins, else STALE; a bank in any other state stays. -/
def State.retireOutgoing (s : State) (l : BankLetter) (grace : Nat) : State :=
  let b := s.bank l
  match b.state with
  | .active ed =>
    if 0 < b.pins then s.setBank l { b with state := .retiring ed (.running grace) }
    else s.setBank l { b with state := .stale ed }
  | _ => s

/-- Whether a bank is RETIRING with its countdown at 0. -/
def Bank.graceDue (b : Bank) : Bool :=
  match b.state with
  | .retiring _ (.running 0) => true
  | _ => false

/-- Taking the switch to a SCHEDULED bank, as one step (R154). -/
def State.takeSwitch (s : State) (l : BankLetter) : State :=
  match (s.bank l).state with
  | .scheduled ed _ grace =>
    let wasActive := (s.bank (otherBank l)).state.isActive
    let s1 := s.setBank l { s.bank l with state := .active ed }
    let s2 := (s1.retireOutgoing (otherBank l) grace).raise .switchTaken
    if wasActive && (s2.bank (otherBank l)).graceDue then s2.expireGrace (otherBank l) else s2
  | _ => s

/-- A bank is SCHEDULED for an effective time at or below a hall time (R154). -/
def Bank.switchDue (b : Bank) (time : Nat) : Bool :=
  match b.state with
  | .scheduled _ effective _ => decide (effective ≤ time)
  | _ => false

/-- The SCHEDULED bank whose effective time is reached, if there is one. -/
def State.dueBank (s : State) : Option BankLetter :=
  if s.bankA.switchDue s.hallTime then some .a else if s.bankB.switchDue s.hallTime then some .b else none

/-! ### Disturbance from outside (log entry 3) -/

/-- The outside disturbs a stored record: its check bits no longer agree. What R17 goes by is what the record was before
(log entry 32). -/
def State.upsetRecord (s : State) (slot : Nat) : State :=
  match s.record slot with
  | some r => s.putRecord slot { r with sound := false }
  | none => s

/-- The outside disturbs an index entry. -/
def State.upsetIndex (s : State) (serial : Nat) : State :=
  match s.table.index.get serial with
  | some e => s.putIndex serial { e with sound := false }
  | none => s

end Sys2Proof.Machine
end

