-- ==== Sys2Proof/Machine/Requests.lean ====
section
/-! DEFINITION. The path every request takes: the link checks (R187), the HALTED answer (R183), the judgement of
Position Control (R117), the record a handle names (R80), EG (R45), reservations (R103) and escalation (R123). -/
namespace Sys2Proof.Machine

/-- Answer the outstanding request of a link and end the step. -/
def State.reply (s : State) (l : Link) (a : Answer) : Outcome := .next (s.answer l a)

/-- Answer, the level conditions judged afresh (R193), and end the step. -/
def State.finish (s : State) (l : Link) (a : Answer) : Outcome := .next (s.answer l a).judge

/-- The link checks 2 to 4 of R187; `accepted` says whether the items are as R189 requires. -/
def linkRefusal (s : State) (k : Kind) (l : Link) (accepted : Bool) : Option Answer :=
  if sortOf l ≠ linkSort k then some .notOnThisLink
  else if (s.link l).outstanding.isSome && k != .cancel then some .busy
  else if accepted then none
  else some .malformed

/-- A request frame (R187, R198): no frame is taken while the reset input is asserted; a failure of the link checks is
answered at once with the frame's own tag; a frame that passes becomes the link's outstanding request and is handed
on. -/
def request (k : Kind) (h : Header) (accepted : Bool) (s : State) (body : State → Outcome) : Outcome :=
  if s.resetAsserted then .next s
  else
    match linkRefusal s k h.link accepted with
    | some a => .next (s.send h.link h.tag k.code a)
    | none => body (s.hold h.link k h.tag)

/-- A dispatch or supervisor request that HALTED refuses (R183). -/
def haltedRequest (k : Kind) (h : Header) (accepted : Bool) (s : State) (body : State → Outcome) : Outcome :=
  request k h accepted s fun s => if s.halted then s.reply h.link .halted else body s

/-- A position request as Position Control judges it: HALTED, POSITION CLOSED, SUSPENDED (R117). The body gets the
position, its session and its live reservation. At a WORKING or ESCALATED position the link has answered BUSY before (R117);
where its link holds no request, which R116 excludes, the answer is BUSY too, the model's choice (log entry 18). -/
def positionRequest (k : Kind) (h : Header) (accepted : Bool) (s : State)
    (body : PositionNo → Session → Option Reservation → State → Outcome) : Outcome :=
  request k h accepted s fun s =>
    match h.link with
    | .position p =>
      if s.halted then s.reply h.link .halted
      else
        match s.ctx p with
        | .closed => s.reply h.link .positionClosed
        | .suspended .. => s.reply h.link .suspended
        | .opened session res => body p session res s
        | .working .. => s.reply h.link .busy
        | .escalated .. => s.reply h.link .busy
    | l => s.reply l .notOnThisLink

/-- The record a position request names by handle (R80, checks 5 to 7): NO RECORD, a failing read, RECORD BUSY on the
marks that refuse the request, DAMAGED. -/
def withRecord (p : PositionNo) (items : List Item) (s : State) (refusing : Rec → Bool)
    (body : Handle → Rec → State → Outcome) : Outcome :=
  match handleOf items with
  | none => s.reply (.position p) .malformed
  | some h =>
    match s.lookupHandle (.position p) h with
    | (s', .noRecord) => s'.reply (.position p) .noRecord
    | (s', .damaged subject) => s'.finish (.position p) (.damaged subject)
    | (s', .found _ r) =>
      if refusing r then s'.reply (.position p) .recordBusy
      else
        match r.body with
        | .damaged _ => s'.reply (.position p) (.damaged (.record h))
        | _ => body h r s'

/-- The busy mark refuses (R18). -/
def refusedBusy (r : Rec) : Bool := r.busy

/-- The busy mark or the queued mark refuses (R18, R19). -/
def refusedMarked (r : Rec) : Bool := r.busy || r.queued

/-- No mark refuses (R18: PRINTED and SPOILT, log entry 6). -/
def refusedNever (_ : Rec) : Bool := false

/-- The entries of a DRAFT or RATED record. -/
def RecordBody.openEntries : RecordBody → Option Entered
  | .draft e => some e
  | .rated e _ => some e
  | _ => none

/-- EG of a position request (R45, R121): the session grade, or the larger of it and the stated grade. -/
def effectiveGrade (session : Session) (stated : Option Nat) : Nat := max session.grade (stated.getD 0)

/-- A reservation presented is valid (R103): it names the handle, and the change count still equals the reserved
one. -/
def reservationValid (presented : Option Reservation) (h : Handle) (r : Rec) : Bool :=
  presented == some ⟨h, r.changeCount⟩

/-- The fault report of a FAULT GRADE that no job found (log entry 10). -/
def gradeRefusal (k : Kind) (needed eg : Nat) : FaultReport :=
  ⟨.grade, Config.gradeRefusalSubject k.code.toNat, some (needed, eg)⟩

/-- An escalation (R123, R132). With the enable clear the request is answered with the fault report. With the enable
set it is saved in the normal save slot with the timeout setting in force, a live reservation goes, and the position
becomes ESCALATED, or SUSPENDED where a suspension is pending. -/
def State.escalate (s : State) (p : PositionNo) (session : Session) (suspendPending : Bool) (request : HeldRequest)
    (needed : Nat) (report : FaultReport) : State :=
  if session.escalation then
    let slot : NormalSlot := ⟨request, needed, s.timers.escalationTimeout⟩
    s.setCtx p (if suspendPending then .suspended session (.escalated slot) else .escalated session slot)
  else s.answerPosition p (.fault report)

/-- Continue an outcome that is a next state. -/
def andThen (o : Outcome) (f : State → State) : Outcome :=
  match o with
  | .next s => .next (f s)
  | .fault r => .fault r
  | .refused r => .refused r

end Sys2Proof.Machine
end

