-- ==== Sys2Proof/Machine/LabelPool.lean ====
section
/-! DEFINITION. Label Numbers (08): issuing serials, the check character, and LOAD_BLOCK. -/
namespace Sys2Proof.Machine

/-- The weights of the nine digits (R143). -/
def checkWeights : List Nat := [3, 7, 1, 3, 7, 1, 3, 7, 1]

/-- The nine digits of a serial, leading zeros included, from the left (R143). -/
def serialDigits (n : Nat) : List Nat := [8, 7, 6, 5, 4, 3, 2, 1, 0].map fun i => n / 10 ^ i % 10

/-- The check character of a serial: 0 to 9, or 10 for X (R143). -/
def checkCharacter (n : Nat) : Nat := (List.zipWith (· * ·) checkWeights (serialDigits n)).sum % 11

/-- A check character as it is written: a digit, or the letter X for 10 (R143). -/
def checkByte (n : Nat) : Byte := if n < 10 then BitVec.ofNat 8 (0x30 + n) else 0x58

/-- The label number as twelve characters: the prefix, the nine digits with leading zeros, the check character (R144). -/
def Label.number (l : Label) : List Byte :=
  [BitVec.ofNat 8 l.letters.1, BitVec.ofNat 8 l.letters.2] ++
    (serialDigits l.serial).map (fun d => BitVec.ofNat 8 (0x30 + d)) ++ [checkByte l.check]

/-- Draw the next serial of the head block; the block its last serial is drawn from is removed (R141). -/
def Pool.draw (p : Pool) : Option (Nat × Pool) :=
  match p.blocks with
  | [] => none
  | b :: rest =>
    some (b.next, { p with blocks := if b.next = b.last then rest else { b with next := b.next + 1 } :: rest })

/-- Two ranges share a serial. -/
def sharesSerial (first last : Nat) (b : Block) : Bool := decide (first ≤ b.last) && decide (b.first ≤ last)

/-- What reading the label index for a range finds: a carried serial (check 6) or a failing read (check 7) of R138. -/
inductive IndexScan where
  | clear
  | carried
  | failing (serial : Nat) (e : IndexEntry)
  deriving DecidableEq, Repr

/-- An index entry that check 6 takes as naming a serial of the range: one that failed earlier counts without a read, any
other by a read that passes (R139, R177). -/
def IndexEntry.carries (e : IndexEntry) (serial first last : Nat) : Bool :=
  decide (first ≤ serial) && decide (serial ≤ last) && (e.failed || e.sound)

/-- An index entry whose read fails its check (R177). -/
def IndexEntry.fails (e : IndexEntry) : Bool := !e.failed && !e.sound

/-- Read the index for a range, in the order of R138's table: a carried serial of the range (check 6), else the lowest
entry whose read fails (check 7), which ends the reading (R177). That a carried serial ends the reading before any failing
read is met, and that the lowest failing entry is the first, is the model's choice (log entry 9). -/
def scanIndex (first last : Nat) (cells : List (Nat × IndexEntry)) : IndexScan :=
  if cells.any fun c => c.2.carries c.1 first last then .carried
  else
    match cells.find? fun c => c.2.fails with
    | some c => .failing c.1 c.2
    | none => .clear

/-- LOAD_BLOCK past its link checks and HALTED (R138 to R140). -/
def loadBlock (l : Link) (first count : Nat) (s : State) : Outcome :=
  let last := first + count - 1
  if Config.serialMax < last then s.reply l .malformed
  else if Config.blockLimit ≤ s.pool.blocks.length then s.reply l .limit
  else if s.pool.blocks.any (sharesSerial first last) then s.reply l .overlap
  else
    match scanIndex first last s.table.index.cells with
    | .carried => s.reply l .overlap
    | .failing n e =>
      let f := s.failIndexEntry .supervisor n e
      f.1.finish l (.damaged f.2)
    | .clear =>
      let pool := { s.pool with blocks := s.pool.blocks ++ [⟨first, last, first⟩] }
      { s with pool := pool }.finish l (.done (.pool pool.blocks.length pool.remaining))

/-- LOAD_BLOCK (R138). -/
def execLoadBlock (h : Header) (items : List Item) (s : State) : Outcome :=
  haltedRequest .loadBlock h (itemsAccepted .loadBlock items) s fun s =>
    match firstSerialOf items, countOf items with
    | some first, some count => loadBlock h.link first count s
    | _, _ => s.reply h.link .malformed

end Sys2Proof.Machine
end

