-- ==== Sys2Proof/Machine/Tariff.lean ====
section
/-! DEFINITION. Reading a bank: the catalogue lookup (R26), the zone lookup (R28), resolving a selector (R48), the
COMMIT recheck (R89). Each stops with the fault it finds, or at a read that fails its check. -/
namespace Sys2Proof.Machine

/-- Why a reading of a bank stops: a fault, or a read that fails its check with the fault it then gives. -/
inductive Stop where
  | fault (f : FaultReport)
  | badRead (e : BankEntry) (f : FaultReport)
  deriving DecidableEq, Repr

/-- A fault without grades. -/
def faultOf (k : FaultKind) (s : Subject) : FaultReport := ⟨k, s, none⟩

/-- The walk along the catalogue chain, at most `fuel` more segments (R26). A damaged segment has lost its content, so
its mark is looked at before whether it is used (log entry 28). -/
def walkCatalogue (b : Bank) (code : Nat) : Nat → Nat → Except Stop Selector
  | 0, _ => .error (.fault (faultOf .unknownService (.code code)))
  | fuel + 1, n =>
    let c := b.segmentCell n
    if c.damaged then .error (.fault (faultOf .damagedTariff (.code code)))
    else
      match c.content with
      | none => .error (.fault (faultOf .unknownService (.code code)))
      | some g =>
        if !c.sound then .error (.badRead (.segment n) (faultOf .damagedTariff (.code code)))
        else if g.first ≤ code ∧ code ≤ g.last then .ok ⟨g.base.table, g.base.index + (code - g.first)⟩
        else
          match g.next with
          | none => .error (.fault (faultOf .unknownService (.code code)))
          | some next => walkCatalogue b code fuel next

/-- A catalogue lookup (R26). -/
def lookupCode (b : Bank) (code : Nat) : Except Stop Selector := walkCatalogue b code Config.chainLimit 0

/-- The zone lookup over the used places in order (R28). -/
def scanZones (district : Nat) : List (Nat × Cell Zone) → Except Stop Zone
  | [] => .error (.fault (faultOf .noZone (.district district)))
  | (n, c) :: rest =>
    if c.damaged then .error (.fault (faultOf .damagedTariff (.district district)))
    else
      match c.content with
      | none => scanZones district rest
      | some z =>
        if !c.sound then .error (.badRead (.place n) (faultOf .damagedTariff (.district district)))
        else if z.high < district then scanZones district rest
        else if z.low ≤ district then .ok z
        else .error (.fault (faultOf .noZone (.district district)))

/-- A zone lookup (R28). -/
def lookupZone (b : Bank) (district : Nat) : Except Stop Zone := scanZones district b.zones.cells

/-- The kinds a resolution can accept. -/
inductive Wanted where
  | serviceOrRedirect
  | service
  | rate
  | surcharge
  deriving DecidableEq, Repr

/-- Whether a descriptor is of an accepted kind; an EMPTY slot is of no kind (R30, R48). -/
def Wanted.accepts : Wanted → Descriptor → Bool
  | .serviceOrRedirect, .service _ => true
  | .serviceOrRedirect, .redirect .. => true
  | .service, .service _ => true
  | .rate, .rate _ => true
  | .surcharge, .surcharge _ => true
  | _, _ => false

/-- The access grade of a descriptor that has one (R31 to R34). -/
def Descriptor.accessGrade : Descriptor → Option Nat
  | .service d => some d.grade
  | .redirect g _ => some g
  | .surcharge d => some d.grade
  | .empty => none
  | .rate _ => none

/-- Check 7 of R48, where a grade is checked. -/
def gradeFault (sel : Selector) (d : Descriptor) (checked : Option Nat) : Option FaultReport :=
  match checked, d.accessGrade with
  | some g, some needed => if needed < g then some ⟨.grade, .selector sel, some (needed, g)⟩ else none
  | _, _ => none

/-- Resolving a selector (R48), the seven checks in their order. -/
def resolve (b : Bank) (sel : Selector) (wanted : Wanted) (checked : Option Nat) : Except Stop Descriptor :=
  if sel = ⟨.n, 0⟩ then .error (.fault (faultOf .nullSelector (.selector sel)))
  else if sel.table = .h ∧ b.hLimit = 0 then .error (.fault (faultOf .noSupplement (.selector sel)))
  else if b.limit sel.table ≤ sel.index then .error (.fault (faultOf .beyondLimit (.selector sel)))
  else
    let c := b.slotCell sel
    if c.damaged then .error (.fault (faultOf .damagedTariff (.selector sel)))
    else if !c.sound then .error (.badRead (.slot sel) (faultOf .damagedTariff (.selector sel)))
    else if !wanted.accepts c.content then .error (.fault (faultOf .wrongKind (.selector sel)))
    else if !c.present then .error (.fault (faultOf .notPresent (.selector sel)))
    else
      match gradeFault sel c.content checked with
      | some f => .error (.fault f)
      | none => .ok c.content

/-! ### The withdrawn recheck of COMMIT (R89) -/

/-- Why the recheck fails: WITHDRAWN with its subject; where a read failed its check, the entry. -/
structure Withdrawn where
  subject : Subject
  failed : Option BankEntry
  deriving DecidableEq, Repr

/-- The present flag of a descriptor reached: found clear, or behind a damaged mark (R89, log entry 7), or its read
fails. -/
def recheckSlot (b : Bank) (sel : Selector) : Except Withdrawn Descriptor :=
  let c := b.slotCell sel
  if c.damaged then .error ⟨.selector sel, none⟩
  else if !c.sound then .error ⟨.selector sel, some (.slot sel)⟩
  else if !c.present then .error ⟨.selector sel, none⟩
  else .ok c.content

/-- The recheck: the service reached, a REDIRECT followed to its target (R89). Access grades are not read. -/
def recheck (b : Bank) (code : Nat) : Except Withdrawn Service :=
  match lookupCode b code with
  | .error (.fault f) => .error ⟨f.subject, none⟩
  | .error (.badRead e f) => .error ⟨f.subject, some e⟩
  | .ok sel =>
    match recheckSlot b sel with
    | .error w => .error w
    | .ok (.service d) => .ok d
    | .ok (.redirect _ target) =>
      match recheckSlot b target with
      | .error w => .error w
      | .ok (.service d) => .ok d
      | .ok _ => .error ⟨.selector target, none⟩
    | .ok _ => .error ⟨.selector sel, none⟩

end Sys2Proof.Machine
end

