-- ==== Sys2Proof/Machine/Rating.lean ====
section
/-! DEFINITION. The rating procedure: the eleven steps of the rating order (R50 to R59), and RATE OPTION (R60, R61).
A procedure reads one bank in lookups and resolutions, counted from 0 in the order of its steps, and yields a result or the
first fault met. Each of them reads the bank as it stands when its step comes (R47), so a procedure takes the bank of each;
on a bank that stands still it is the same bank for all. -/
namespace Sys2Proof.Machine

/-! ### Measures, conditions and amounts (R35, R36, R54) -/

/-- The longest of three sides. -/
def Sides.longest (s : Sides) : Nat := max s.a (max s.b s.c)

/-- The longest side plus twice the sum of the other two (R35). -/
def Sides.girth (s : Sides) : Nat := s.longest + 2 * (s.a + s.b + s.c - s.longest)

/-- The volumetric mass: the product of the sides divided by 5,000, rounded up, in grams (R54). -/
def Sides.volumetric (s : Sides) : Nat :=
  (s.a * s.b * s.c + (Config.volumetricDivisor - 1)) / Config.volumetricDivisor

/-- The values a surcharge condition is evaluated with (R35). -/
structure Measured where
  chargeable : Nat
  sides : Sides
  declared : Nat
  zone : Nat
  deriving DecidableEq, Repr

/-- The value compared (R35). -/
def Measured.value (m : Measured) : Measure → Nat
  | .chargeableMass => m.chargeable
  | .longestSide => m.sides.longest
  | .girth => m.sides.girth
  | .declaredValue => m.declared
  | .zone => m.zone

/-- A comparison holds (R35). -/
def Comparison.holds : Comparison → Nat → Nat → Bool
  | .always, _, _ => true
  | .above, v, t => decide (t < v)
  | .atLeast, v, t => decide (t ≤ v)
  | .below, v, t => decide (v < t)
  | .atMost, v, t => decide (v ≤ t)
  | .equal, v, t => decide (v = t)
  | .notEqual, v, t => decide (v ≠ t)

/-- A surcharge's condition holds (R35). -/
def Surcharge.holds (d : Surcharge) (m : Measured) : Bool := d.comparison.holds (m.value d.measure) d.threshold

/-- The amount of a surcharge whose condition holds (R36); none for a PER MILLE amount above 999,999. -/
def Surcharge.lineAmount (d : Surcharge) (base : Nat) : Option Int :=
  match d.amount with
  | .fixed n => some n
  | .perMille v => if base * v / 1000 ≤ Config.lineMax then some ((base * v / 1000 : Nat) : Int) else none

/-- Evaluate one resolved surcharge: no line, a line, or AMOUNT RANGE (R36). -/
def lineOf (sel : Selector) (d : Surcharge) (m : Measured) (base : Nat) : Except Stop (Option Line) :=
  if d.holds m then
    match d.lineAmount base with
    | some a => .ok (some ⟨sel, a⟩)
    | none => .error (.fault (faultOf .amountRange (.selector sel)))
  else .ok none

/-- Resolve a selector as a SURCHARGE at a grade and evaluate it (R56, R57, R60). -/
def surchargeLine (b : Bank) (sel : Selector) (grade : Nat) (m : Measured) (base : Nat) : Except Stop (Option Line) :=
  match resolve b sel .surcharge (some grade) with
  | .error e => .error e
  | .ok (.surcharge d) => lineOf sel d m base
  | .ok _ => .error (.fault (faultOf .wrongKind (.selector sel)))

/-- Where a procedure stops: the lookup or resolution, and why. -/
structure StopAt where
  reading : Nat
  stop : Stop
  deriving DecidableEq, Repr

/-- The outcome of one lookup or resolution, a stop with its number. -/
def atReading {α : Type} (n : Nat) : Except Stop α → Except StopAt α
  | .ok a => .ok a
  | .error e => .error ⟨n, e⟩

/-- The outcome without the number. -/
def onOneBank {α : Type} : Except StopAt α → Except Stop α
  | .ok a => .ok a
  | .error e => .error e.stop

/-- Step 9: the listed surcharges in stored order, the first of them resolution `n` (R56). -/
def listedLines (view : Nat → Bank) (ag : Nat) (m : Measured) (base : Nat) :
    Nat → List Selector → Except StopAt (List Line)
  | _, [] => .ok []
  | n, sel :: rest => do
    let l ← atReading n (surchargeLine (view n) sel ag m base)
    let more ← listedLines view ag m base (n + 1) rest
    pure (l.toList ++ more)

/-- Step 10: the option codes in list order, each looked up and resolved, the first lookup being `n` (R57). -/
def optionLines (view : Nat → Bank) (eg : Nat) (m : Measured) (base : Nat) :
    Nat → List Nat → Except StopAt (List Line)
  | _, [] => .ok []
  | n, code :: rest => do
    let sel ← atReading n (lookupCode (view n) code)
    let l ← atReading (n + 1) (surchargeLine (view (n + 1)) sel eg m base)
    let more ← optionLines view eg m base (n + 2) rest
    pure (l.toList ++ more)

/-! ### Steps 1 to 8 -/

/-- The values step 1 requires, found present (R51). -/
structure Required where
  mass : Nat
  sides : Sides
  destination : Nat
  serviceCode : Nat
  deriving DecidableEq, Repr

/-- Step 1: the first absent field, in the order MASS, SIDES, DESTINATION, SERVICE CODE (R51). -/
def requirePresent (v : ParcelValues) : Except Stop Required :=
  match v.mass, v.sides, v.destination, v.serviceCode with
  | none, _, _, _ => .error (.fault (faultOf .missingAttribute (.field .mass)))
  | some _, none, _, _ => .error (.fault (faultOf .missingAttribute (.field .sides)))
  | some _, some _, none, _ => .error (.fault (faultOf .missingAttribute (.field .destination)))
  | some _, some _, some _, none => .error (.fault (faultOf .missingAttribute (.field .serviceCode)))
  | some m, some s, some d, some c => .ok ⟨m, s, d, c⟩

/-- The service of a rating: its selector, its content, and AG (R46, R52). -/
structure ServiceFound where
  sel : Selector
  service : Service
  ag : Nat
  deriving DecidableEq, Repr

/-- Step 3: the service selector, resolution `n`, directly or through one redirect, the next resolution (R52, R46). -/
def findServiceAt (view : Nat → Bank) (n : Nat) (sel : Selector) (eg : Nat) : Except StopAt ServiceFound :=
  match resolve (view n) sel .serviceOrRedirect (some eg) with
  | .error e => .error ⟨n, e⟩
  | .ok (.service d) => .ok ⟨sel, d, eg⟩
  | .ok (.redirect _ target) =>
    match resolve (view (n + 1)) target .service none with
    | .error e => .error ⟨n + 1, e⟩
    | .ok (.service d) => .ok ⟨target, d, d.grade⟩
    | .ok _ => .error ⟨n + 1, .fault (faultOf .wrongKind (.selector target))⟩
  | .ok _ => .error ⟨n, .fault (faultOf .wrongKind (.selector sel))⟩

/-- Step 3 on a bank that stands still. -/
def findService (b : Bank) (sel : Selector) (eg : Nat) : Except Stop ServiceFound :=
  onOneBank (findServiceAt (fun _ => b) 0 sel eg)

/-- Step 4: a destination a scope does not carry to (R53). -/
def Scope.admitsDistrict (s : Scope) (district : Nat) : Bool :=
  match s with
  | .domestic => decide (district < Config.internationalFrom)
  | .international => decide (Config.internationalFrom ≤ district)
  | .both => true

/-- Step 5: the customs data a customs-flagged service needs (R53). -/
def customsMissing (service : Service) (v : ParcelValues) : Option ParcelField :=
  if service.customs then
    if v.declaredValue.isNone then some .declaredValue
    else if v.contentCategory.isNone then some .contentCategory
    else none
  else none

/-- Step 7: the chargeable mass (R54). -/
def chargeableMass (volumetric : Bool) (mass : Nat) (sides : Sides) : Nat :=
  if volumetric then max mass sides.volumetric else mass

/-- The first band at or above a mass, with its number counted from `n` (R33, R55). -/
def bandFor (mass : Nat) : Nat → List Band → Option (Nat × Band)
  | _, [] => none
  | n, band :: rest => if mass ≤ band.limit then some (n, band) else bandFor mass (n + 1) rest

/-- Step 8: band number and base (R55). -/
def findBase (b : Bank) (sel : Selector) (mass zone : Nat) : Except Stop (Nat × Nat) :=
  match resolve b sel .rate none with
  | .error e => .error e
  | .ok (.rate bands) =>
    match bandFor mass 1 bands with
    | some (n, band) => .ok (n, band.prices.getD (zone - 1) 0)
    | none => .error (.fault (faultOf .overMassLimit (.selector sel)))
  | .ok _ => .error (.fault (faultOf .wrongKind (.selector sel)))

/-- Step 11: the total, judged once at the end (R58). -/
def totalOf (base : Nat) (lines : List Line) : Except Stop Nat :=
  let t : Int := (base : Int) + (lines.map (·.amount)).sum
  if t < 0 ∨ (Config.totalMax : Int) < t then .error (.fault (faultOf .amountRange (.field .total)))
  else .ok t.toNat

/-- The rating order, steps 1 to 11, at a grade (R50), composing the quote of R59. Its lookups and resolutions in their
order: the service code, its selector, a redirect's target, the zone, the rate, the listed surcharges, the options. -/
def rateParcelAt (view : Nat → Bank) (letter : BankLetter) (edition : Nat) (v : ParcelValues) (eg : Nat) :
    Except StopAt Quote := do
  let p ← atReading 0 (requirePresent v)
  let sel ← atReading 0 (lookupCode (view 0) p.serviceCode)
  let f ← findServiceAt view 1 sel eg
  if !f.service.scope.admitsDistrict p.destination then
    throw ⟨2, .fault (faultOf .scopeMismatch (.selector f.sel))⟩
  match customsMissing f.service v with
  | some missing => throw ⟨2, .fault (faultOf .customsDataMissing (.field missing))⟩
  | none =>
    let z ← atReading 3 (lookupZone (view 3) p.destination)
    let mass := chargeableMass f.service.volumetric p.mass p.sides
    let band ← atReading 4 (findBase (view 4) f.service.rate mass z.zone)
    let m : Measured := ⟨mass, p.sides, v.declaredValue.getD 0, z.zone⟩
    let listed ← listedLines view f.ag m band.2 5 f.service.surcharges
    let last := 5 + f.service.surcharges.length
    let added ← optionLines view eg m band.2 last v.options
    let total ← atReading (last + 2 * v.options.length) (totalOf band.2 (listed ++ added))
    pure ⟨letter, edition, z.zone, mass, band.1, band.2, listed ++ added, total⟩

/-- The rating order on a bank that stands still. -/
def rateParcel (b : Bank) (letter : BankLetter) (edition : Nat) (v : ParcelValues) (eg : Nat) : Except Stop Quote :=
  onOneBank (rateParcelAt (fun _ => b) letter edition v eg)

/-- R61: an added line that is negative, or takes the total or the adjustment out of range, faults. -/
def checkAddedLine (sel : Selector) (v : OptionValues) : Option Line → Except Stop (Option Line)
  | none => .ok none
  | some l =>
    if l.amount < 0 ∨ (Config.totalMax : Int) < v.total + l.amount ∨
        (Config.totalMax : Int) < v.adjustment + l.amount then
      .error (.fault (faultOf .amountRange (.selector sel)))
    else .ok (some l)

/-- RATE OPTION: one option code, lookup 0 and resolution 1, priced against a paid quote (R60), the line checked by
R61. -/
def rateAddedOptionAt (view : Nat → Bank) (v : OptionValues) (eg : Nat) : Except StopAt (Option Line) := do
  let sel ← atReading 0 (lookupCode (view 0) v.code)
  let line ← atReading 1
    (surchargeLine (view 1) sel eg ⟨v.chargeable, v.sides, v.declaredValue.getD 0, v.zone⟩ v.base)
  atReading 1 (checkAddedLine sel v line)

/-- RATE OPTION on a bank that stands still. -/
def rateAddedOption (b : Bank) (v : OptionValues) (eg : Nat) : Except Stop (Option Line) :=
  onOneBank (rateAddedOptionAt (fun _ => b) v eg)

/-! ### What a job hands on -/

/-- A job's result (R63). -/
inductive JobResult where
  | quote (q : Quote)
  | option (l : Option Line)
  | fault (f : FaultReport)
  deriving DecidableEq, Repr

/-- A job's procedure on its bank as it reads it (R44, R47, R50, R60). -/
def Job.procedureAt (j : Job) (b : Bank) : Except StopAt JobResult :=
  match j.values with
  | .parcel v => (rateParcelAt (j.view b) j.bank j.edition v j.entry.eg).map JobResult.quote
  | .option v => (rateAddedOptionAt (j.view b) v j.entry.eg).map JobResult.option

/-- Its result, or why it stops. -/
def Job.procedure (j : Job) (b : Bank) : Except Stop JobResult := onOneBank (j.procedureAt b)

end Sys2Proof.Machine
end

