-- ==== Sys2Proof/Machine/Reads.lean ====
section
/-! DEFINITION. The reads of running jobs (R47): which reads of its bank a job has made when an entry is disturbed or
marked damaged, and the failing read of a bank entry. A job reads each entry when its step comes, and anew in each lookup
and resolution (log entry 4). -/
namespace Sys2Proof.Machine

/-- A segment that no job has read yet: the read of it is where a procedure stops. -/
def Cell.unreadSegment : Cell Segment := ⟨some ⟨0, 0, ⟨.n, 0⟩, none⟩, false, false⟩

/-- A place that no job has read yet. -/
def Cell.unreadPlace : Cell Zone := ⟨some ⟨0, 0, 0, 0⟩, false, false⟩

/-- A descriptor slot that no job has read yet. -/
def SlotCell.unread (c : SlotCell) : SlotCell := { c with damaged := false, sound := false }

/-- One entry hidden from a procedure until it is read. -/
def Bank.hide (b : Bank) : BankEntry → Bank
  | .segment n => b.putSegment n .unreadSegment
  | .place n => b.putPlace n .unreadPlace
  | .slot sel => b.putSlot sel (b.slotCell sel).unread

/-- A bank as a job that has read nothing stands before it: every listed entry hidden, and the entry `e`. -/
def Bank.unread (b : Bank) (e : BankEntry) : Bank :=
  Bank.hide { b with
    segments := b.segments.mapValues fun _ => .unreadSegment
    zones := b.zones.mapValues fun _ => .unreadPlace
    nSlots := b.nSlots.mapValues SlotCell.unread
    hSlots := b.hSlots.mapValues SlotCell.unread } e

/-- A job passes an entry as it reads it: the entry carries no damaged mark, and its check bits agree or it is unused and
so not read (R26, R28, R48). -/
def Bank.passes (b : Bank) : BankEntry → Bool
  | .segment n => !(b.segmentCell n).damaged && ((b.segmentCell n).sound || (b.segmentCell n).content.isNone)
  | .place n => !(b.placeCell n).damaged && ((b.placeCell n).sound || (b.placeCell n).content.isNone)
  | .slot sel => !(b.slotCell sel).damaged && (b.slotCell sel).sound

/-- The reads a job has made after at most `n` more, in the order of its steps (R47): on the bank `hidden`, in which every
entry is hidden that the lookup or resolution has not read, it finds its next read, and makes it where the entry passes. -/
def Job.readOn (j : Job) (b hidden : Bank) : Nat → List JobRead → List JobRead
  | 0, seen => seen
  | n + 1, seen =>
    match { j with seen := seen }.procedureAt hidden with
    | .error ⟨reading, .badRead e _⟩ =>
      if b.passes e then j.readOn b hidden n (⟨reading, b.seenEntry e⟩ :: seen) else seen
    | _ => seen

/-- One unit's job reads on in a bank, by a number of reads that is a free value (log entry 4), before the entry `e` is
disturbed or marked; not the reading unit's own job, nor one that has found its fault. -/
def readAhead (l : BankLetter) (e : BankEntry) (own : Option UnitNo) (s : State) (u : UnitNo) : State :=
  match s.unit u with
  | none => s
  | some j =>
    if j.bank = l && own != some u && j.found.isNone then
      { s.setUnit u (some { j with
          seen := j.readOn (s.bank l) ((s.bank l).unread e) (Config.readsMade s.freeCount) j.seen }) with
        freeCount := s.freeCount + 1 }
    else s

/-- The running jobs on a bank read on, each by its own number of reads. -/
def State.jobsReadOn (s : State) (l : BankLetter) (e : BankEntry) (own : Option UnitNo) : State :=
  [0, 1, 2, 3].foldl (readAhead l e own) s

/-- A reader finds a bank entry's check failing (R37, R178): the entry is marked damaged and the failure reported. A
running job meets the mark at each lookup or resolution that reads the entry after it (R47). -/
def State.failBankEntry (s : State) (l : BankLetter) (e : BankEntry) (reader : Reader) (own : Option UnitNo) : State :=
  let s1 := s.jobsReadOn l e own
  (s1.setBank l ((s1.bank l).damage e)).report (.bankEntry l e) reader

/-- The outside disturbs a bank entry (log entry 3); a running job keeps the reads it has made by then. -/
def State.upsetEntry (s : State) (l : BankLetter) (e : BankEntry) : State :=
  let s1 := s.jobsReadOn l e none
  s1.setBank l ((s1.bank l).unsound e)

end Sys2Proof.Machine
end

