-- ==== Sys2Proof/Machine/Acceptance.lean ====
section
/-! DEFINITION. Acceptance at the Counter (05): NEW_PARCEL, SET_ATTRIBUTES, RATE, COMMIT, PRINTED, SPOILT and the print
deadline expiry. -/
namespace Sys2Proof.Machine

/-- The entries of a record as NEW PARCEL leaves them (R3). -/
def Entered.fresh (time : Nat) : Entered := ⟨time, none, none, none, none, none, none, []⟩

/-- A new DRAFT record (R3). -/
def Rec.fresh (owner : PositionNo) (time : Nat) : Rec := ⟨owner, 0, false, false, true, .draft (.fresh time)⟩

/-- NEW_PARCEL (R82, R3, R22): every live record is read for the counts, then LIMIT, TABLE FULL, or a DRAFT record in the
lowest free slot. -/
def execNewParcel (h : Header) (items : List Item) (s : State) : Outcome :=
  positionRequest .newParcel h (itemsAccepted .newParcel items) s fun p _ _ s =>
    let s := s.readAll (.position p)
    if Config.ownedLimit ≤ s.ownedInHand p then s.finish h.link .limit
    else
      match s.table.records.lowestFree Config.slotCount 0 with
      | none => s.finish h.link .tableFull
      | some slot => (s.putRecord slot (.fresh p s.hallTime)).finish h.link (.done (.parcel (s.handleAt slot)))

/-- SET_ATTRIBUTES (R83 to R85). -/
def execSetAttributes (h : Header) (items : List Item) (s : State) : Outcome :=
  positionRequest .setAttributes h (itemsAccepted .setAttributes items) s fun p _ _ s =>
    withRecord p items s refusedBusy fun hd r s =>
      if r.owner ≠ p then s.reply h.link .notOwner
      else
        match r.body.openEntries with
        | none => s.reply h.link .wrongState
        | some e =>
          if !attributeItemsOk items then s.reply h.link .malformed
          else if hasRepeat (candidateOptions items e.options) then s.reply h.link .optionPresent
          else if Config.optionLimit < (candidateOptions items e.options).length then s.reply h.link .limit
          else
            (s.toDraft hd.slot r (writeAttributes items e)).finish h.link
              (.done (.changed hd .draft ((r.changeCount + 1) % 65536)))

/-- A RATE at an EG, from a position or re-executed at a GRANT (R80 checks 5 to 9, R86). -/
def rateRequest (p : PositionNo) (session : Session) (res : Option Reservation) (eg : Nat) (tag : Tag)
    (items : List Item) (s : State) : Outcome :=
  withRecord p items s refusedMarked fun hd r s =>
    if r.owner ≠ p then s.reply (.position p) .notOwner
    else
      match r.body.openEntries with
      | none => s.reply (.position p) .wrongState
      | some e =>
        if s.activeBank.isNone then s.reply (.position p) .noEdition
        else if s.draining then s.reply (.position p) .reset
        else
          let s := if r.body.pin.isSome then s.toDraft hd.slot r e else s
          let s := s.join ⟨.rate, hd, .position p, eg⟩
          .next (s.setCtx p (.working session false res ⟨.rate, tag, items, none⟩)).judge

/-- RATE (R86). -/
def execRate (h : Header) (items : List Item) (s : State) : Outcome :=
  positionRequest .rate h (itemsAccepted .rate items) s fun p session res s =>
    rateRequest p session res (effectiveGrade session (statedGradeOf items)) h.tag items s

/-- The place at which a damaged mark stops a zone lookup (R91, R179). -/
def damagedPlaceFor (district : Nat) : List (Nat × Cell Zone) → Option Nat
  | [] => none
  | (n, c) :: rest =>
    if c.damaged then some n
    else
      match c.content with
      | none => damagedPlaceFor district rest
      | some z => if z.high < district then damagedPlaceFor district rest else none

/-- The label a COMMIT builds (R91, R8). -/
def labelFor (service : Service) (z : Zone) (serial time : Nat) : Label :=
  ⟨service.letters, serial, checkCharacter serial, z.sortCode, time⟩

/-- The LABEL answer (R92, R144). -/
def labelAnswer (p : PositionNo) (e : Entered) (q : Quote) (l : Label) : LabelAnswer :=
  ⟨l.number, e.serviceCode, q.zone, l.sortCode, q.chargeable, q.total, q.edition, p, l.commitTime⟩

/-- The single step in which a record becomes PRINTING (R91, R14, R141): the pool gives a serial, the index gains an
entry, the print deadline starts at the setting in force. -/
def issueLabel (p : PositionNo) (hd : Handle) (r : Rec) (e : Entered) (q : Quote) (serial : Nat) (pool : Pool)
    (service : Service) (z : Zone) (s : State) : Outcome :=
  let l := labelFor service z serial s.hallTime
  let s := { s with pool := pool }.putIndex serial ⟨hd.slot, false, true⟩
  let s := s.putRecord hd.slot (r.change (.printing e q l s.timers.printDeadline))
  s.finish (.position p) (.label (labelAnswer p e q l))

/-- Customs clearance is needed at an EG above 1 (R90). -/
def needsClearance (service : Service) (threshold declared eg : Nat) : Bool :=
  service.customs && decide (threshold ≤ declared) && decide (1 < eg)

/-- A COMMIT at an EG, from a position or re-executed at a GRANT (R80 checks 5 to 9, R88 to R92). A zone lookup that fails
without damage is excluded by R91; the model's choice there is FAULT with the lookup's report (log entry 18). -/
def commitRequest (p : PositionNo) (session : Session) (eg : Nat) (tag : Tag) (items : List Item) (s : State) :
    Outcome :=
  withRecord p items s refusedBusy fun hd r s =>
    if r.owner ≠ p then s.reply (.position p) .notOwner
    else
      match r.body with
      | .rated e q =>
        let b := s.bank q.bank
        match recheck b (e.serviceCode.getD 0) with
        | .error w =>
          let s := match w.failed with
            | some entry => s.failBankEntry q.bank entry (.position p) none
            | none => s
          (s.toDraft hd.slot r e).finish (.position p) (.withdrawn w.subject)
        | .ok service =>
          if needsClearance service b.parameters.customsThreshold (e.declaredValue.getD 0) eg then
            .next (s.escalate p session false ⟨.commit, tag, items, none⟩ 1 (gradeRefusal .commit 1 eg)).judge
          else
            match s.pool.draw with
            | none => s.reply (.position p) .noNumbers
            | some (serial, pool) =>
              match lookupZone b (e.destination.getD 0) with
              | .ok z => issueLabel p hd r e q serial pool service z s
              | .error (.badRead entry _) =>
                (s.failBankEntry q.bank entry (.position p) none).finish (.position p)
                  (.damaged (.bankEntry q.bank entry))
              | .error (.fault f) =>
                match damagedPlaceFor (e.destination.getD 0) b.zones.cells with
                | some n => s.reply (.position p) (.damaged (.bankEntry q.bank (.place n)))
                | none => s.reply (.position p) (.fault f)
      | _ => s.reply (.position p) .wrongState

/-- COMMIT (R88). -/
def execCommit (h : Header) (items : List Item) (s : State) : Outcome :=
  positionRequest .commit h (itemsAccepted .commit items) s fun p session _ s =>
    commitRequest p session (effectiveGrade session (statedGradeOf items)) h.tag items s

/-- PRINTED (R94, R15). The handle alone resolves the record (R4, R20), and the serial carried is compared with its label: the
label index entry of the serial, through which R144 resolves a serial, is not read, so a failing or failed one is not met here.
DESIGN CHOICE, log entry 34, unsafe. -/
def execPrinted (h : Header) (items : List Item) (s : State) : Outcome :=
  positionRequest .printed h (itemsAccepted .printed items) s fun p _ _ s =>
    withRecord p items s refusedNever fun hd r s =>
      if r.owner ≠ p then s.reply h.link .notOwner
      else
        match r.body with
        | .printing e q l _ =>
          if serialOf items = some l.serial then
            ((s.putRecord hd.slot (r.change (.labelled e q l 0 none))).releasePin q.bank).finish h.link (.done .plain)
          else s.reply h.link .tooLate
        | _ => s.reply h.link .tooLate

/-- The state a PRINTING record returns to unprinted (R15, R95). -/
def unprintedState (s : State) (q : Quote) : RecordState := if s.graceExpired q.bank then .draft else .rated

/-- SPOILT (R95, R15). As in PRINTED the label index entry of the serial carried is not read: DESIGN CHOICE, log entry 34,
unsafe. -/
def execSpoilt (h : Header) (items : List Item) (s : State) : Outcome :=
  positionRequest .spoilt h (itemsAccepted .spoilt items) s fun p _ _ s =>
    withRecord p items s refusedNever fun hd r s =>
      if r.owner ≠ p then s.reply h.link .notOwner
      else
        match r.body with
        | .printing e q l _ =>
          if serialOf items = some l.serial then
            (s.unprint hd.slot r e q l).finish h.link (.done (.state (unprintedState s q)))
          else s.reply h.link .tooLate
        | _ => s.reply h.link .tooLate

/-- PRINT_DEADLINE_EXPIRY (R96, R15): taken where the slot's record is PRINTING with its countdown at 0, outside
HALTED; else it does not come about (log entry 2). The record is read with its check (R177). -/
def execPrintDeadlineExpiry (slot : Nat) (s : State) : Outcome :=
  if s.resetAsserted || s.halted then .next s
  else
    match s.record slot with
    | none => .next s
    | some r =>
      match r.body with
      | .printing _ _ _ 0 =>
        match s.readAt .printDeadline slot r with
        | (s', .found _ r') =>
          match r'.body with
          | .printing e q l _ => .next (s'.unprint slot r' e q l).judge
          | _ => .next s'
        | (s', _) => .next s'.judge
      | _ => .next s

end Sys2Proof.Machine
end

