-- ==== Sys2Proof/Machine/Shared.lean ====
section
/-! DEFINITION. Shared Records (06): QUERY, AMEND_ADD_OPTION, TAKE_OVER, VOID, and the supervisor's QUERY and VOID. -/
namespace Sys2Proof.Machine

/-- Look a record up by the handle or serial a request carries (R99, R112, R173). -/
def State.lookupItems (s : State) (reader : Reader) (items : List Item) : State × Lookup :=
  match handleOf items with
  | some h => s.lookupHandle reader h
  | none =>
    match serialOf items with
    | some n => s.lookupSerial reader n
    | none => (s, .noRecord)

/-- A record as RECORD reports it (R100). -/
def viewOf (h : Handle) (r : Rec) : RecordView := ⟨h, r.owner, r.changeCount, r.busy, r.queued, r.body⟩

/-- QUERY from a position (R99 to R101). -/
def execQuery (h : Header) (items : List Item) (s : State) : Outcome :=
  positionRequest .query h (itemsAccepted .query items) s fun p session _ s =>
    match s.lookupItems (.position p) items with
    | (s', .noRecord) => s'.reply h.link .noRecord
    | (s', .damaged subject) => s'.finish h.link (.damaged subject)
    | (s', .found slot r) =>
      let hd := s'.handleAt slot
      let s' := if reserves items then s'.setCtx p (.opened session (some ⟨hd, r.changeCount⟩)) else s'
      s'.reply h.link (.record (viewOf hd r) (reserves items))

/-- QUERY from the supervisor (R99). -/
def execQuerySupervisor (h : Header) (items : List Item) (s : State) : Outcome :=
  haltedRequest .querySupervisor h (itemsAccepted .querySupervisor items) s fun s =>
    match s.lookupItems .supervisor items with
    | (s', .noRecord) => s'.reply h.link .noRecord
    | (s', .damaged subject) => s'.finish h.link (.damaged subject)
    | (s', .found slot r) => s'.reply h.link (.record (viewOf (s'.handleAt slot) r) false)

/-- An AMEND ADD OPTION at an EG with the reservation presented, from a position or re-executed at a GRANT (R104 checks
2 to 9, R105, R107). -/
def amendRequest (p : PositionNo) (session : Session) (presented : Option Reservation) (eg : Nat) (tag : Tag)
    (items : List Item) (s : State) : Outcome :=
  withRecord p items s refusedMarked fun hd r s =>
    let s := s.setCtx p (.opened session none)
    if !reservationValid presented hd r then s.reply (.position p) .reservationLost
    else
      match r.body with
      | .labelled e _ _ _ _ =>
        match optionCodeOf items with
        | none => s.reply (.position p) .malformed
        | some code =>
          if e.options.contains code then s.reply (.position p) .optionPresent
          else if Config.optionLimit ≤ e.options.length then s.reply (.position p) .limit
          else if 2 < eg then
            .next (s.escalate p session false ⟨.amend, tag, items, presented⟩ 2 (gradeRefusal .amend 2 eg)).judge
          else if s.draining then s.reply (.position p) .reset
          else
            let s := s.join ⟨.rateOption code, hd, .position p, eg⟩
            .next (s.setCtx p (.working session false none ⟨.amend, tag, items, presented⟩)).judge
      | _ => s.reply (.position p) .wrongState

/-- AMEND_ADD_OPTION (R104). -/
def execAmendAddOption (h : Header) (items : List Item) (s : State) : Outcome :=
  positionRequest .amend h (itemsAccepted .amend items) s fun p session res s =>
    amendRequest p session res (effectiveGrade session (statedGradeOf items)) h.tag items s

/-- TAKE_OVER (R108): the count of check 8 reads every live record (R177). -/
def execTakeOver (h : Header) (items : List Item) (s : State) : Outcome :=
  positionRequest .takeOver h (itemsAccepted .takeOver items) s fun p session res s =>
    withRecord p items s refusedBusy fun hd r s =>
      let s := s.setCtx p (.opened session none)
      if !reservationValid res hd r then s.reply h.link .reservationLost
      else if !r.body.isOpen then s.reply h.link .wrongState
      else if !(s.ctx r.owner).isClosed then s.reply h.link .notOwner
      else
        let s := s.readAll (.position p)
        if Config.ownedLimit ≤ s.ownedInHand p then s.finish h.link .limit
        else
          let r' := { r.change r.body with owner := p }
          (s.putRecord hd.slot r').finish h.link (.done (.takenOver hd p r.body.name r'.changeCount))

/-- A VOID at an EG with the reservation presented, from a position or re-executed at a GRANT (R110, R111). R111 says of a
LABELLED record only that the VOID is answered DONE: that this DONE carries the retired handle, as R110's and R112's do, is the
model's choice. DESIGN CHOICE, log entry 35, safe. -/
def voidRequest (p : PositionNo) (session : Session) (presented : Option Reservation) (eg : Nat) (tag : Tag)
    (items : List Item) (s : State) : Outcome :=
  withRecord p items s refusedBusy fun hd r s =>
    match r.body with
    | .labelled .. =>
      let s := s.setCtx p (.opened session none)
      if !reservationValid presented hd r then s.reply (.position p) .reservationLost
      else if 1 < eg then
        .next (s.escalate p session false ⟨.void, tag, items, presented⟩ 1 (gradeRefusal .void 1 eg)).judge
      else (s.retire hd.slot r).finish (.position p) (.done (.parcel hd))
    | .held .. => s.reply (.position p) .wrongState
    | _ =>
      if r.owner ≠ p then s.reply (.position p) .notOwner
      else (s.retire hd.slot r).finish (.position p) (.done (.parcel hd))

/-- VOID from a position (R110). -/
def execVoid (h : Header) (items : List Item) (s : State) : Outcome :=
  positionRequest .void h (itemsAccepted .void items) s fun p session res s =>
    voidRequest p session res (effectiveGrade session (statedGradeOf items)) h.tag items s

/-- VOID from the supervisor (R112). -/
def execVoidSupervisor (h : Header) (items : List Item) (s : State) : Outcome :=
  haltedRequest .voidSupervisor h (itemsAccepted .voidSupervisor items) s fun s =>
    match s.lookupItems .supervisor items with
    | (s', .noRecord) => s'.reply h.link .noRecord
    | (s', .damaged subject) => s'.finish h.link (.damaged subject)
    | (s', .found slot r) =>
      if r.busy then s'.reply h.link .recordBusy
      else (s'.retire slot r).finish h.link (.done (.parcel (s'.handleAt slot)))

end Sys2Proof.Machine
end

