-- ==== Sys2Proof/Machine/DispatchLine.lean ====
section
/-! DEFINITION. The Dispatch Line (10): REWEIGH, HANDOVER, SETTLE_ACCEPT and SETTLE_VOID. -/
namespace Sys2Proof.Machine

/-- A record the dispatch link names by serial (R165, checks 3 to 9), past the marks that refuse the request. The body
gets its slot and the parts of a LABELLED record. A serial whose index entry leads to a DRAFT or RATED record, which R11 and
R20 exclude, has no answer in R165: NO RECORD is the model's choice (log entry 18). -/
def labelledBySerial (l : Link) (serial : Nat) (refusing : Rec → Bool) (s : State)
    (body : Nat → Rec → Entered → Quote → Label → Nat → Option ReweighPart → State → Outcome) : Outcome :=
  match s.lookupSerial .dispatch serial with
  | (s', .noRecord) => s'.reply l .noRecord
  | (s', .damaged subject) => s'.finish l (.damaged subject)
  | (s', .found slot r) =>
    if refusing r then s'.reply l .recordBusy
    else
      match r.body with
      | .damaged _ => s'.reply l (.damaged (.record (s'.handleAt slot)))
      | .printing .. => s'.reply l .notReady
      | .held .. => s'.reply l .hold
      | .labelled e q lab adj rw => body slot r e q lab adj rw s'
      | .draft _ => s'.reply l .noRecord
      | .rated _ _ => s'.reply l .noRecord

/-- The tolerance of a REWEIGH (R166). -/
def toleranceOf (p : Parameters) (chargeable : Nat) : Nat := p.grams + chargeable * p.perMille / 1000

/-- The recorded volumetric flag (R166). -/
def recordedVolumetric (e : Entered) (q : Quote) : Bool := decide (e.mass.getD 0 < q.chargeable)

/-- REWEIGH of a LABELLED record (R166 to R168). -/
def reweighLabelled (l : Link) (serial mass : Nat) (sides : Sides) (bank : BankLetter) (slot : Nat) (r : Rec)
    (e : Entered) (q : Quote) (lab : Label) (adj : Nat) (s : State) : Outcome :=
  let hd := s.handleAt slot
  let measured := chargeableMass (recordedVolumetric e q) mass sides
  let limit := q.chargeable + toleranceOf (s.bank bank).parameters q.chargeable
  if measured ≤ limit then
    let r' := r.change (.labelled e q lab adj (some ⟨mass, sides, .agreed, none⟩))
    (s.putRecord slot r').finish l (.clear ⟨hd, serial, .agreed, measured, limit, none, r'.changeCount⟩)
  else if s.draining then s.reply l .reset
  else
    .next ({ s with pendingReweigh := some ⟨hd, serial, mass, sides, measured, limit⟩ }.join
      ⟨.rerateReweigh mass sides, hd, .dispatch, 0⟩).judge

/-- REWEIGH (R165). -/
def execReweigh (h : Header) (items : List Item) (s : State) : Outcome :=
  haltedRequest .reweigh h (itemsAccepted .reweigh items) s fun s =>
    match serialOf items, massOf items, sidesOf items with
    | some serial, some mass, some sides =>
      match s.activeBank with
      | none => s.reply h.link .noEdition
      | some bank =>
        labelledBySerial h.link serial refusedMarked s fun slot r e q lab adj _ s =>
          reweighLabelled h.link serial mass sides bank slot r e q lab adj s
    | _, _, _ => s.reply h.link .malformed

/-- HANDOVER (R165, R175). -/
def execHandover (h : Header) (items : List Item) (s : State) : Outcome :=
  haltedRequest .handover h (itemsAccepted .handover items) s fun s =>
    match serialOf items with
    | none => s.reply h.link .malformed
    | some serial =>
      labelledBySerial h.link serial refusedBusy s fun slot r _ _ _ _ rw s =>
        (s.retire slot r).finish h.link (.done (.handedOver (s.handleAt slot) serial (rw.map (·.verdict))))

/-- A HELD record the supervisor settles (R173, checks 2 to 5). -/
def heldRecord (l : Link) (items : List Item) (s : State)
    (body : Nat → Rec → Entered → Quote → Label → Nat → ReweighPart → State → Outcome) : Outcome :=
  match s.lookupItems .supervisor items with
  | (s', .noRecord) => s'.reply l .noRecord
  | (s', .damaged subject) => s'.finish l (.damaged subject)
  | (s', .found slot r) =>
    if r.busy then s'.reply l .recordBusy
    else
      match r.body with
      | .damaged _ => s'.reply l (.damaged (.record (s'.handleAt slot)))
      | .held e q lab adj rw _ => body slot r e q lab adj rw s'
      | _ => s'.reply l .wrongState

/-- The items of a SETTLE row: those of R189 with the form of the row (log entry 23). -/
def settleAccepted (form : Nat) (items : List Item) : Bool :=
  itemsAccepted .settle items && settleFormOf items == some form

/-- SETTLE_ACCEPT (R173): the shortfall is added to the adjustment, the verdict becomes SETTLED, the record LABELLED. -/
def execSettleAccept (h : Header) (items : List Item) (s : State) : Outcome :=
  haltedRequest .settle h (settleAccepted 1 items) s fun s =>
    heldRecord h.link items s fun slot r e q lab adj rw s =>
      let adj' := adj + rw.shortfall.getD 0
      let r' := r.change (.labelled e q lab adj' (some { rw with verdict := .settled }))
      (s.putRecord slot r').finish h.link (.done (.settled (s.handleAt slot) .settled adj' r'.changeCount))

/-- SETTLE_VOID (R174): the HELD record is retired. -/
def execSettleVoid (h : Header) (items : List Item) (s : State) : Outcome :=
  haltedRequest .settle h (settleAccepted 2 items) s fun s =>
    heldRecord h.link items s fun slot r _ _ _ _ _ s =>
      (s.retire slot r).finish h.link (.done (.parcel (s.handleAt slot)))

end Sys2Proof.Machine
end

