-- ==== Sys2Proof/Machine/Edition.lean ====
section
/-! DEFINITION. Changing the Tariff (09): the requests on a bank, BANK_VERIFY's examination, the switch, the grace expiry
and the patches. -/
namespace Sys2Proof.Machine

/-! ### Requests on a bank (R147) -/

/-- The states of a bank in which a request is taken (R147). -/
def takenIn : Kind → BankStateName → Bool
  | .bankClear, st => st == .empty || st == .loading || st == .verified || st == .stale
  | .bankWrite, st => st == .empty || st == .loading || st == .verified
  | .bankCopy, st => st == .empty || st == .loading || st == .verified || st == .stale
  | .bankVerify, st => st == .loading
  | .scheduleSwitch, st => st == .verified
  | .unschedule, st => st == .scheduled
  | .patch, st => st == .active || st == .retiring
  | _, _ => false

/-- A bank request past its link checks, HALTED and the state check of the bank it names (R147). -/
def bankRequest (k : Kind) (h : Header) (items : List Item) (s : State) (body : BankLetter → State → Outcome) :
    Outcome :=
  haltedRequest k h (itemsAccepted k items) s fun s =>
    match bankOf items with
    | none => s.reply h.link .malformed
    | some l =>
      if takenIn k (s.bank l).state.name then body l s
      else s.reply h.link (.bankState l (s.bank l).state.name)

/-- BANK_CLEAR (R148): the cleared content of R23 as one change. -/
def execBankClear (h : Header) (items : List Item) (s : State) : Outcome :=
  bankRequest .bankClear h items s fun l s => (s.setBank l .cleared).finish h.link (.done .plain)

/-- The entry a write names, for the writes that name a checked entry (R37, R149). -/
def BankWrite.entry : BankWrite → Option BankEntry
  | .parameters _ => none
  | .segment n _ => some (.segment n)
  | .place n _ => some (.place n)
  | .limit .. => none
  | .slot sel .. => some (.slot sel)

/-- One write: the entry named is replaced whole with fresh check bits and no damaged mark (R149). -/
def Bank.write (b : Bank) : BankWrite → Bank
  | .parameters p => { b with parameters := p }
  | .segment n c => b.putSegment n ⟨c, false, true⟩
  | .place n c => b.putPlace n ⟨c, false, true⟩
  | .limit .n n => { b with nLimit := n }
  | .limit .h n => { b with hLimit := n }
  | .slot sel c present => b.putSlot sel ⟨c, present, false, true⟩

/-- A write taken: LOADING, the damaged-entry count one lower where the entry carried a damaged mark (R149, R38). -/
def Bank.takeWrite (b : Bank) (w : BankWrite) : Bank :=
  { b.write w with
    state := .loading
    damagedCount := if w.entry.any b.isDamaged then b.damagedCount - 1 else b.damagedCount }

/-- BANK_WRITE (R149). -/
def execBankWrite (h : Header) (items : List Item) (s : State) : Outcome :=
  bankRequest .bankWrite h items s fun l s =>
    match bankWriteOf items with
    | none => s.reply h.link .malformed
    | some w =>
      let b := (s.bank l).takeWrite w
      (s.setBank l b).finish h.link (.done (.bankWritten b.state.name b.damagedCount))

/-! ### BANK_COPY (R150) -/

/-- A stored segment or place whose read fails its check: no damaged mark, check bits that disagree. -/
def Cell.fails {α : Type} (c : Cell α) : Bool := !c.damaged && !c.sound

/-- A descriptor slot whose read fails its check. -/
def SlotCell.fails (c : SlotCell) : Bool := !c.damaged && !c.sound

/-- The first read of a BANK COPY that fails its check, in the order of R150. -/
def Bank.firstFailing (b : Bank) : Option BankEntry :=
  match b.segments.cells.find? fun c => c.2.fails with
  | some c => some (.segment c.1)
  | none =>
    match b.zones.cells.find? fun c => c.2.fails with
    | some c => some (.place c.1)
    | none =>
      match b.nSlots.cells.find? fun c => c.1 != 0 && c.2.fails with
      | some c => some (.slot ⟨.n, c.1⟩)
      | none => (b.hSlots.cells.find? fun c => c.2.fails).map fun c => .slot ⟨.h, c.1⟩

/-- The target of a BANK COPY whose every read passes: damaged entries come across unused or EMPTY (R150, R38). -/
def Bank.copyOf (b : Bank) : Bank where
  state := .loading
  parameters := b.parameters
  segments := ⟨b.segments.cells.filter fun c => !c.2.damaged⟩
  zones := ⟨b.zones.cells.filter fun c => !c.2.damaged⟩
  nLimit := b.nLimit
  nSlots := ⟨b.nSlots.cells.filter fun c => c.1 != 0 && !c.2.damaged⟩
  hLimit := b.hLimit
  hSlots := ⟨b.hSlots.cells.filter fun c => !c.2.damaged⟩
  pins := 0
  damagedCount := 0

/-- BANK_COPY (R150). -/
def execBankCopy (h : Header) (items : List Item) (s : State) : Outcome :=
  bankRequest .bankCopy h items s fun l s =>
    match s.activeBank with
    | none => s.reply h.link .noEdition
    | some source =>
      match (s.bank source).firstFailing with
      | some e => (s.failBankEntry source e .supervisor none).finish h.link (.damaged (.bankEntry source e))
      | none =>
        (s.setBank l (s.bank source).copyOf).finish h.link
          (.done (.edition ((s.bank source).state.edition.getD 0)))

/-! ### BANK_VERIFY (R151, R152) -/

/-- What BANK VERIFY finds. -/
inductive Finding where
  | marked (e : BankEntry)
  | badRead (e : BankEntry)
  | malformed (reason : EditionReason) (entry : EditionEntry)
  deriving DecidableEq, Repr

/-- Form of a used segment (R25, R152). -/
def Segment.inForm (g : Segment) : Bool := within 1 999 g.first && within 1 999 g.last && decide (g.first ≤ g.last)

/-- Step 2: the segments in order. -/
def verifySegments : List (Nat × Cell Segment) → Option Finding
  | [] => none
  | (n, c) :: rest =>
    if c.damaged then some (.marked (.segment n))
    else if !c.sound then some (.badRead (.segment n))
    else
      match c.content with
      | none => verifySegments rest
      | some g =>
        if g.inForm then verifySegments rest else some (.malformed .segmentForm (.entry (.segment n)))

/-- Step 3: the chain from a segment, with those already reached (R25). -/
def verifyChain (b : Bank) : Nat → List Nat → Nat → Option Finding
  | 0, _, _ => none
  | fuel + 1, reached, n =>
    if reached.contains n then some (.malformed .chain (.entry (.segment n)))
    else
      match (b.segmentCell n).content with
      | none => none
      | some g =>
        match g.next with
        | none => none
        | some next => verifyChain b fuel (n :: reached) next

/-- Form of a used place (R27, R152). -/
def Zone.inForm (z : Zone) : Bool :=
  within 0 10999 z.low && within 0 10999 z.high && decide (z.low ≤ z.high) && within 1 12 z.zone &&
    within 0 999 z.sortCode

/-- Step 4: the places in order; `before` is the high district of the used place before. -/
def verifyPlaces : Option Nat → List (Nat × Cell Zone) → Option Finding
  | _, [] => none
  | before, (n, c) :: rest =>
    if c.damaged then some (.marked (.place n))
    else if !c.sound then some (.badRead (.place n))
    else
      match c.content with
      | none => verifyPlaces before rest
      | some z =>
        if !z.inForm then some (.malformed .zoneForm (.entry (.place n)))
        else if before.any fun h => decide (z.low ≤ h) then some (.malformed .zoneOrder (.entry (.place n)))
        else verifyPlaces (some z.high) rest

/-- Upper limits strictly rising (R33). -/
def risingLimits : List Band → Bool
  | [] => true
  | band :: rest => (rest.head?.all fun next => decide (band.limit < next.limit)) && risingLimits rest

/-- Form of an amount (R34). -/
def Amount.inForm : Amount → Bool
  | .fixed n => decide (-999999 ≤ n) && decide (n ≤ 999999)
  | .perMille n => decide (n ≤ 1000)

/-- The reason a slot's content is out of the form of its kind, if it is (R152). -/
def Descriptor.outOfForm : Descriptor → Option EditionReason
  | .empty => none
  | .service d =>
    if decide (d.grade ≤ 3) && within 65 90 d.letters.1 && within 65 90 d.letters.2
        && decide (d.surcharges.length ≤ 6) then none
    else some .serviceForm
  | .redirect g _ => if g ≤ 3 then none else some .redirectForm
  | .rate bands =>
    if within 1 8 bands.length && bands.all (fun band => within 1 40000 band.limit)
        && risingLimits bands && bands.all (fun band => band.prices.all (within 0 9999999)) then none
    else some .rateForm
  | .surcharge d =>
    if decide (d.grade ≤ 3) && within 0 99999999 d.threshold && d.amount.inForm then none else some .surchargeForm

/-- Step 5: the slots of one table in order, from `first` up to one below `limit`. -/
def verifySlots (t : TableLetter) (first limit : Nat) : List (Nat × SlotCell) → Option Finding
  | [] => none
  | (n, c) :: rest =>
    if first ≤ n ∧ n < limit then
      if c.damaged then some (.marked (.slot ⟨t, n⟩))
      else if !c.sound then some (.badRead (.slot ⟨t, n⟩))
      else
        match c.content.outOfForm with
        | some reason => some (.malformed reason (.entry (.slot ⟨t, n⟩)))
        | none => verifySlots t first limit rest
    else verifySlots t first limit rest

/-- Steps 2 to 5 of R151. -/
def Bank.examine (b : Bank) : Option Finding :=
  (verifySegments b.segments.cells).or <|
    (verifyChain b (Config.chainLimit + 1) [] 0).or <|
      (verifyPlaces none b.zones.cells).or <|
        (verifySlots .n 1 b.nLimit b.nSlots.cells).or (verifySlots .h 0 b.hLimit b.hSlots.cells)

/-- BANK_VERIFY past its state check (R151). -/
def verifyBank (link : Link) (l : BankLetter) (number : Nat) (s : State) : Outcome :=
  if (s.bank (otherBank l)).state.edition = some number then
    s.reply link (.malformedEdition .editionNumber (.bank (otherBank l)))
  else
    match (s.bank l).examine with
    | some (.marked e) => s.reply link (.damaged (.bankEntry l e))
    | some (.badRead e) => (s.failBankEntry l e .supervisor none).finish link (.damaged (.bankEntry l e))
    | some (.malformed reason e) => s.reply link (.malformedEdition reason e)
    | none => (s.setBank l { s.bank l with state := .verified number }).finish link (.done (.edition number))

/-- BANK_VERIFY (R151). -/
def execBankVerify (h : Header) (items : List Item) (s : State) : Outcome :=
  bankRequest .bankVerify h items s fun l s =>
    match editionNumberOf items with
    | none => s.reply h.link .malformed
    | some number => verifyBank h.link l number s

/-! ### Scheduling, the switch and the grace expiry (R153, R154, R157) -/

/-- Whether a bank is SCHEDULED. -/
def BankState.isScheduled : BankState → Bool
  | .scheduled .. => true
  | _ => false

/-- SCHEDULE_SWITCH past its state check (R153): an effective time already reached takes the switch in the same
step, and DONE reports ACTIVE. For an effective time that lies ahead R153 lists no content of DONE; that it reports SCHEDULED
is the model's choice (log entry 33). -/
def scheduleSwitch (link : Link) (l : BankLetter) (effective grace : Nat) (s : State) : Outcome :=
  if (s.bank (otherBank l)).state.isScheduled then s.reply link (.bankState (otherBank l) .scheduled)
  else
    let b := s.bank l
    let s1 := s.setBank l { b with state := .scheduled (b.state.edition.getD 0) effective grace }
    let s2 := if effective ≤ s1.hallTime then s1.takeSwitch l else s1
    s2.finish link (.done (.bank (s2.bank l).state.name))

/-- SCHEDULE_SWITCH (R153). -/
def execScheduleSwitch (h : Header) (items : List Item) (s : State) : Outcome :=
  bankRequest .scheduleSwitch h items s fun l s =>
    match hallTimeOf items, graceOf items with
    | some effective, some grace => scheduleSwitch h.link l effective grace s
    | _, _ => s.reply h.link .malformed

/-- A SCHEDULED bank returns to VERIFIED, its schedule part removed (R153, R43); any other stays. -/
def Bank.unscheduled (b : Bank) : Bank :=
  match b.state with
  | .scheduled ed _ _ => { b with state := .verified ed }
  | _ => b

/-- UNSCHEDULE (R153). -/
def execUnschedule (h : Header) (items : List Item) (s : State) : Outcome :=
  bankRequest .unschedule h items s fun l s =>
    (s.setBank l (s.bank l).unscheduled).finish h.link (.done .plain)

/-- SWITCH (R154): taken where hall time has reached the effective time of the SCHEDULED bank, outside HALTED; else it
does not come about (log entry 2). -/
def execSwitch (s : State) : Outcome :=
  if s.resetAsserted || s.halted then .next s
  else
    match s.dueBank with
    | some l => .next (s.takeSwitch l).judge
    | none => .next s

/-- GRACE_EXPIRY (R157): taken where the bank is RETIRING with its countdown at 0, outside HALTED; else it does not come
about (log entry 2). -/
def execGraceExpiry (l : BankLetter) (s : State) : Outcome :=
  if s.resetAsserted || s.halted then .next s
  else if (s.bank l).graceDue then .next (s.expireGrace l).judge
  else .next s

/-! ### Patches (R159, R160) -/

/-- A descriptor with its access grade replaced (R160). -/
def Descriptor.regrade (d : Descriptor) (g : Nat) : Descriptor :=
  match d with
  | .service x => .service { x with grade := g }
  | .redirect _ target => .redirect g target
  | .surcharge x => .surcharge { x with grade := g }
  | .rate bands => .rate bands
  | .empty => .empty

/-- Whether a descriptor carries an access grade. -/
def Descriptor.graded : Descriptor → Bool
  | .service _ => true
  | .redirect .. => true
  | .surcharge _ => true
  | .rate _ => false
  | .empty => false

/-- A change to a slot read without damage: none where the answer is MALFORMED (R160). -/
def SlotCell.patched (c : SlotCell) (change : PatchChange) : Option SlotCell :=
  if c.content = .empty then none
  else
    match change with
    | .withdraw => some { c with present := false }
    | .restore => some { c with present := true }
    | .regrade g => if c.content.graded then some { c with content := c.content.regrade g } else none

/-- The Edition Store applies a patch to the bank it named, as that bank stands (R160): a slot that is changed is written
whole with fresh check bits. For WITHDRAW of a damaged slot whose flag an earlier RESTORE set, the manual says only "DONE;
the flag is already clear"; the model's choice is DONE with the slot left as it stands (log entry 30). -/
def State.patchSlot (s : State) (p : Patch) : State × Answer :=
  let b := s.bank p.bank
  let c := b.slotCell p.sel
  if !takenIn .patch b.state.name then (s, .bankState p.bank b.state.name)
  else if c.damaged then
    match p.change with
    | .withdraw => (s, .done .plain)
    | .restore => (s.setBank p.bank (b.putSlot p.sel { c with present := true, sound := true }), .done .plain)
    | .regrade _ => (s, .damaged (.bankEntry p.bank (.slot p.sel)))
  else if !c.sound then
    (s.failBankEntry p.bank (.slot p.sel) .supervisor none, .damaged (.bankEntry p.bank (.slot p.sel)))
  else
    match c.patched p.change with
    | none => (s, .malformed)
    | some c' => (s.setBank p.bank (b.putSlot p.sel c'), .done .plain)

/-- The end of a patch wait (R75, R160): the patch is applied, its request answered, the grant state GRANTING. -/
def State.applyPatch (s : State) (p : Patch) : State :=
  let r := s.patchSlot p
  ({ r.1 with grantState := .granting }.answer .supervisor r.2).judge

/-- A PATCH past its link checks (R159): its own checks, then PATCH WAIT; with every unit idle the patch is applied in
the same step (R75, log entry 2). -/
def patchRequest (change : PatchChange) (h : Header) (items : List Item) (s : State) : Outcome :=
  match bankOf items, selectorOf items with
  | some l, some sel =>
    if !writableSlot sel then s.reply h.link .malformed
    else if !takenIn .patch (s.bank l).state.name then s.reply h.link (.bankState l (s.bank l).state.name)
    else if (s.bank l).limit sel.table ≤ sel.index then s.reply h.link .malformed
    else if s.allIdle then .next ({ s with grantState := .patchWait ⟨l, sel, change⟩ }.applyPatch ⟨l, sel, change⟩)
    else .next { s with grantState := .patchWait ⟨l, sel, change⟩ }
  | _, _ => s.reply h.link .malformed

/-- The items of a PATCH row: those of R189 with the change of the row (log entry 23). -/
def patchAccepted (code : Nat) (items : List Item) : Bool :=
  itemsAccepted .patch items && patchChangeOf items == some code

/-- PATCH_WITHDRAW (R159). -/
def execPatchWithdraw (h : Header) (items : List Item) (s : State) : Outcome :=
  haltedRequest .patch h (patchAccepted 1 items) s (patchRequest .withdraw h items)

/-- PATCH_RESTORE (R159). -/
def execPatchRestore (h : Header) (items : List Item) (s : State) : Outcome :=
  haltedRequest .patch h (patchAccepted 2 items) s (patchRequest .restore h items)

/-- PATCH_REGRADE (R159). -/
def execPatchRegrade (h : Header) (items : List Item) (s : State) : Outcome :=
  haltedRequest .patch h (patchAccepted 3 items) s (patchRequest (.regrade ((patchGradeOf items).getD 0)) h items)

/-- PATCH_APPLIED (R75, R160): taken where a patch waits and every unit is idle, outside HALTED; else it does not come
about (log entry 2). -/
def execPatchApplied (s : State) : Outcome :=
  if s.resetAsserted || s.halted then .next s
  else
    match s.grantState with
    | .patchWait p => if s.allIdle then .next (s.applyPatch p) else .next s
    | _ => .next s

end Sys2Proof.Machine
end

