-- ==== Sys2Proof/Machine/Positions.lean ====
section
/-! DEFINITION. Positions, Grades and Interventions (07): OPEN_POSITION, CLOSE_POSITION, RESET_POSITION, GRANT, DENY,
CANCEL, SUSPEND, RESUME and the escalation timeout. -/
namespace Sys2Proof.Machine

/-- A supervisor request that names a position, past its link checks and HALTED (R136). -/
def atPosition (k : Kind) (h : Header) (items : List Item) (s : State) (body : PositionNo → State → Outcome) :
    Outcome :=
  haltedRequest k h (itemsAccepted k items) s fun s =>
    match positionOf items with
    | none => s.reply h.link .malformed
    | some p => body p s

/-- OPEN_POSITION (R118). -/
def execOpenPosition (h : Header) (items : List Item) (s : State) : Outcome :=
  atPosition .openPosition h items s fun p s =>
    match gradeOf items, escalationEnableOf items with
    | some g, some e =>
      match s.ctx p with
      | .closed => (s.setCtx p (.opened ⟨g, e⟩ none)).finish h.link (.done .plain)
      | _ => s.reply h.link .wrongState
    | _, _ => s.reply h.link .malformed

/-- CLOSE_POSITION (R119): at an OPEN position every live record is read for its owner and state. -/
def execClosePosition (h : Header) (items : List Item) (s : State) : Outcome :=
  atPosition .closePosition h items s fun p s =>
    match s.ctx p with
    | .closed => s.reply h.link .wrongState
    | .opened .. =>
      let s := s.readAll .supervisor
      if 0 < s.owned p RecordBody.isPrinting then s.finish h.link .notIdle
      else (s.setCtx p .closed).finish h.link (.done .plain)
    | _ => s.reply h.link .notIdle

/-- The unit running a requester's job, one that is not discarded (R73, R78). -/
def State.runningOf (s : State) (r : Requester) : Option UnitNo :=
  [0, 1, 2, 3].find? fun u => (s.unit u).any fun j => j.entry.requester == r && !j.discarded

/-- Set the discarded field of a requester's running job, if there is one (R73). -/
def State.discardJobOf (s : State) (r : Requester) : State :=
  match s.runningOf r with
  | none => s
  | some u => s.setUnit u ((s.unit u).map fun j => { j with discarded := true })

/-- RESET_POSITION (R120): at a CLOSED position nothing; at any other, one step. -/
def execResetPosition (h : Header) (items : List Item) (s : State) : Outcome :=
  atPosition .resetPosition h items s fun p s =>
    match s.ctx p with
    | .closed => s.reply h.link (.done .plain)
    | _ =>
      let s := (s.removeEntryOf (.position p)).discardJobOf (.position p)
      ((s.answer (.position p) .reset).setCtx p .closed).finish h.link (.done .plain)

/-- Re-execution of a saved request at a GRANT at EG g (R127): a new taking with its tag, its items and its saved
copy. -/
def reexecute (p : PositionNo) (session : Session) (g : Nat) (request : HeldRequest) (s : State) : Outcome :=
  match request.kind with
  | .rate => rateRequest p session none g request.tag request.items s
  | .commit => commitRequest p session g request.tag request.items s
  | .amend => amendRequest p session request.copy g request.tag request.items s
  | .void => voidRequest p session request.copy g request.tag request.items s

/-- GRANT (R126, R127). -/
def execGrant (h : Header) (items : List Item) (s : State) : Outcome :=
  atPosition .grant h items s fun p s =>
    match gradeOf items with
    | none => s.reply h.link .malformed
    | some g =>
      match s.ctx p with
      | .suspended .. => s.reply h.link .suspended
      | .escalated session slot =>
        if slot.needed < g then s.reply h.link .malformed
        else
          andThen (reexecute p session g slot.request (s.setCtx p (.opened session none)))
            fun s => (s.answer h.link (.done .plain)).judge
      | _ => s.reply h.link .wrongState

/-- An escalation ends unanswered by a re-execution (R125, R128, R129): the saved request is answered, the normal slot
emptied with its saved reservation, the position OPEN. -/
def State.endEscalation (s : State) (p : PositionNo) (session : Session) (a : Answer) : State :=
  (s.answer (.position p) a).setCtx p (.opened session none)

/-- DENY (R128). -/
def execDeny (h : Header) (items : List Item) (s : State) : Outcome :=
  atPosition .deny h items s fun p s =>
    match s.ctx p with
    | .suspended .. => s.reply h.link .suspended
    | .escalated session _ => (s.endEscalation p session .denied).finish h.link (.done .plain)
    | _ => s.reply h.link .wrongState

/-- CANCEL at a position that passes R117 (R129). CANCEL is answered with its own tag and never becomes the outstanding
request. Where a step sends two answers on the link, R129 does not say which leaves first: the request's CANCELLED before
CANCEL's DONE is the model's choice (log entry 15). -/
def cancelAt (h : Header) (p : PositionNo) (s : State) : Outcome :=
  let cancel (s : State) (a : Answer) : State := s.send h.link h.tag Kind.cancel.code a
  match s.ctx p with
  | .closed => .next (cancel s .positionClosed)
  | .suspended .. => .next (cancel s .suspended)
  | .opened .. => .next (cancel s .wrongState)
  | .escalated session _ => .next (cancel (s.endEscalation p session .cancelled) (.done .plain)).judge
  | .working .. =>
    match s.entryOf (.position p) with
    | none => .next (cancel s .busy)
    | some _ =>
      .next (cancel ((s.removeEntryOf (.position p)).answerPosition p .cancelled) (.done .plain)).judge

/-- CANCEL (R129, R187). -/
def execCancel (h : Header) (items : List Item) (s : State) : Outcome :=
  if s.resetAsserted then .next s
  else
    match linkRefusal s .cancel h.link (itemsAccepted .cancel items) with
    | some a => .next (s.send h.link h.tag Kind.cancel.code a)
    | none =>
      if s.halted then .next (s.send h.link h.tag Kind.cancel.code .halted)
      else
        match h.link with
        | .position p => cancelAt h p s
        | l => .next (s.send l h.tag Kind.cancel.code .notOnThisLink)

/-- SUSPEND (R131). A countdown that has run out with its timeout still owed stops with 1 s left (R125, log entry
12). -/
def execSuspend (h : Header) (items : List Item) (s : State) : Outcome :=
  atPosition .suspend h items s fun p s =>
    match s.ctx p with
    | .opened session _ => (s.setCtx p (.suspended session .opened)).finish h.link (.done .suspended)
    | .escalated session slot =>
      (s.setCtx p (.suspended session (.escalated { slot with remaining := max 1 slot.remaining }))).finish h.link
        (.done .suspended)
    | .working session _ res request =>
      (s.setCtx p (.working session true res request)).finish h.link (.done .suspendPending)
    | .suspended .. => s.reply h.link .wrongState
    | .closed => s.reply h.link .wrongState

/-- RESUME (R134). -/
def execResume (h : Header) (items : List Item) (s : State) : Outcome :=
  atPosition .resume h items s fun p s =>
    match s.ctx p with
    | .suspended session .opened => (s.setCtx p (.opened session none)).finish h.link (.done .plain)
    | .suspended session (.escalated slot) => (s.setCtx p (.escalated session slot)).finish h.link (.done .plain)
    | .working session true res request =>
      (s.setCtx p (.working session false res request)).finish h.link (.done .plain)
    | _ => s.reply h.link .wrongState

/-- ESCALATION_TIMEOUT (R125): taken at an ESCALATED position whose countdown is at 0, outside HALTED (R136); else it
does not come about (log entry 2). -/
def execEscalationTimeout (p : PositionNo) (s : State) : Outcome :=
  if s.resetAsserted || s.halted then .next s
  else
    match s.ctx p with
    | .escalated session slot =>
      if slot.remaining = 0 then .next (s.endEscalation p session .timedOut).judge else .next s
    | _ => .next s

end Sys2Proof.Machine
end

