-- ==== Sys2Proof/Machine/Hall.lean ====
section
/-! DEFINITION. Station Links, Attention and Hall Time (12): SET_TIME, SET_TIMERS, SET_ENABLES, ACKNOWLEDGE, STATUS,
SOFT_RESET, DRAIN_END, HALL_TIME_TICK, the resets, FRAME_DISCARDED, UNKNOWN_REQUEST, and the receivers. -/
namespace Sys2Proof.Machine

/-! ### Hall time and settings (R191, R192) -/

/-- A switch that hall time has reached, taken (R154). -/
def State.switchIfDue (s : State) : State :=
  match s.dueBank with
  | some l => s.takeSwitch l
  | none => s

/-- SET_TIME (R191): a switch whose effective time the new value reaches is taken in the same step. -/
def execSetTime (h : Header) (items : List Item) (s : State) : Outcome :=
  haltedRequest .setTime h (itemsAccepted .setTime items) s fun s =>
    match hallTimeOf items with
    | none => s.reply h.link .malformed
    | some t => { s with hallTime := t }.switchIfDue.finish h.link (.done (.hallTime t))

/-- SET_TIMERS (R192): the settings carried are written, running countdowns keep their time. -/
def execSetTimers (h : Header) (items : List Item) (s : State) : Outcome :=
  haltedRequest .setTimers h (itemsAccepted .setTimers items) s fun s =>
    let deadline := (printDeadlineOf items).getD s.timers.printDeadline
    let timeout := (escalationTimeoutOf items).getD s.timers.escalationTimeout
    let threshold := (lowStockOf items).getD s.pool.threshold
    { s with timers := ⟨deadline, timeout⟩, pool := { s.pool with threshold := threshold } }.finish h.link
      (.done (.timers deadline timeout threshold))

/-- A record a second later: the print deadline of a PRINTING record falls by one; neither a change of the record nor
fresh check bits (R10, R14, R192, log entry 16). -/
def Rec.tick (r : Rec) : Rec :=
  match r.body with
  | .printing e q l d => { r with body := .printing e q l (d - 1) }
  | _ => r

/-- A context a second later: the countdown of an ESCALATED position falls by one (R125, R192). -/
def Context.tick : Context → Context
  | .escalated session slot => .escalated session { slot with remaining := slot.remaining - 1 }
  | c => c

/-- A bank a second later: a running grace countdown falls by one (R40, R192). -/
def Bank.tick (b : Bank) : Bank :=
  match b.state with
  | .retiring ed (.running n) => { b with state := .retiring ed (.running (n - 1)) }
  | _ => b

/-- The countdowns of one second (R192); none counts in HALTED (R183). -/
def State.countDown (s : State) : State :=
  if s.halted then s
  else
    { s with
      table := { s.table with records := s.table.records.mapValues Rec.tick }
      positions := s.positions.map Context.tick
      bankA := s.bankA.tick
      bankB := s.bankB.tick }

/-- HALL_TIME_TICK (R191, R192): hall time counts in every integrity state, up to its greatest value. Expiries and the
switch are commands of their own (log entry 2). -/
def execHallTimeTick (s : State) : Outcome :=
  if s.resetAsserted then .next s
  else .next { s with hallTime := min Config.hallTimeMax (s.hallTime + 1) }.countDown

/-! ### Attention (R194) -/

/-- SET_ENABLES (R194, R180). -/
def execSetEnables (h : Header) (items : List Item) (s : State) : Outcome :=
  haltedRequest .setEnables h (itemsAccepted .setEnables items) s fun s =>
    match enablesOf items with
    | none => s.reply h.link .malformed
    | some n =>
      let attention := s.attention.enable (Causes.ofByte n)
      let alert := bitOf n 7
      { s with attention := attention, integrity := { s.integrity with alertEnable := alert } }.finish h.link
        (.done (.enables attention.enabled alert attention.pending))

/-- ACKNOWLEDGE of INTEGRITY returns ALERT to NORMAL (R182, R194). -/
def IntegrityState.acknowledged (i : IntegrityState) (integrityNamed : Bool) : IntegrityState :=
  if integrityNamed && i == .alert then .normal else i

/-- ACKNOWLEDGE (R194). -/
def execAcknowledge (h : Header) (items : List Item) (s : State) : Outcome :=
  haltedRequest .acknowledge h (itemsAccepted .acknowledge items) s fun s =>
    match causesOf items with
    | none => s.reply h.link .malformed
    | some n =>
      let named := Causes.ofByte n
      let attention := s.attention.acknowledge named
      { s with
        attention := attention
        integrity := { s.integrity with state := s.integrity.state.acknowledged named.integrity } }.finish h.link
        (.done (.flags attention.pending))

/-! ### STATUS (R196) -/

/-- A bank as STATUS reports it (R39). -/
def Bank.status (b : Bank) : BankStatus := ⟨b.state, b.pins, b.damagedCount⟩

/-- The kind of a job by name. -/
def JobKind.name : JobKind → JobKindName
  | .rate => .rate
  | .rerateReweigh .. => .rerateReweigh
  | .rateOption _ => .rateOption

/-- A job as STATUS reports it (R66). -/
def Job.status (j : Job) : UnitStatus := ⟨j.entry.kind.name, j.entry.handle, j.bank, j.entry.requester⟩

/-- The grant state by name (R69). -/
def GrantState.name : GrantState → GrantStateName
  | .granting => .granting
  | .patchWait _ => .patchWait
  | .draining => .draining

/-- A normal save slot as STATUS reports it (R115). -/
def NormalSlot.status (n : NormalSlot) : SlotStatus := ⟨n.request.kind, n.request.tag, n.needed, n.remaining⟩

/-- A position as STATUS reports it (R115). -/
def Context.status : Context → PositionStatus
  | .closed => ⟨.closed, none, false, false, none, none⟩
  | .opened session res => ⟨.opened, some session, false, res.isSome, none, none⟩
  | .working session pend res _ => ⟨.working, some session, pend, res.isSome, none, none⟩
  | .escalated session slot => ⟨.escalated, some session, false, false, some slot.status, none⟩
  | .suspended session .opened => ⟨.suspended, some session, false, false, none, some .opened⟩
  | .suspended session (.escalated slot) =>
    ⟨.suspended, some session, false, false, some slot.status, some .escalated⟩

/-- The part STATUS reports, by its number in the order of the table of R196. -/
def State.statusPart (s : State) : Nat → StatusContent
  | 1 => .hall s.hallTime s.timers.printDeadline s.timers.escalationTimeout s.pool.threshold s.attention.pending
      s.attention.enabled s.line s.integrity.state s.integrity.alertEnable s.integrity.reportCount
  | 2 => .banks s.bankA.status s.bankB.status
  | 3 => .rating (s.units.toList.map fun u => u.map Job.status) s.queue s.grantState.name
  | 4 => .positions (s.positions.toList.map Context.status)
  | 5 => .pool s.pool.blocks s.pool.remaining s.pool.threshold
  | 6 => .dispatch (s.pendingReweigh.map fun p => (p.handle, p.serial, p.chargeable))
      (s.table.records.cells.countP fun c => c.2.body.isHeld)
  | _ => .log s.integrity.log

/-- STATUS (R196): answered in every integrity state; it changes nothing else. -/
def execStatus (h : Header) (items : List Item) (s : State) : Outcome :=
  request .status h (itemsAccepted .status items) s fun s =>
    match statusPartOf items with
    | none => s.reply h.link .malformed
    | some n => s.reply h.link (.status (s.statusPart n))

/-! ### The soft reset (R76, R135, R43, R164, R197) -/

/-- A position under SOFT RESET (R135); a queued request is answered RESET by R76. -/
def State.softResetPosition (s : State) (p : PositionNo) : State :=
  match s.ctx p with
  | .closed => s
  | .opened session _ => s.setCtx p (.opened session none)
  | .working session _ _ request =>
    if (s.entryOf (.position p)).isSome then (s.answer (.position p) .reset).setCtx p (.opened session none)
    else s.setCtx p (.working session false none request)
  | .escalated session _ => s.endEscalation p session .reset
  | .suspended session .opened => s.setCtx p (.opened session none)
  | .suspended session (.escalated _) => s.endEscalation p session .reset

/-- The dispatch line under SOFT RESET: a queued re-rating is answered RESET and its pending reweigh emptied (R76,
R164). -/
def State.softResetDispatch (s : State) : State :=
  if (s.entryOf .dispatch).isSome then { s.answer .dispatch .reset with pendingReweigh := none } else s

/-- The queue under SOFT RESET: every entry removed, its record's queued mark cleared (R76). -/
def State.softResetQueue (s : State) : State :=
  { s.queue.foldl (fun t e => t.markQueued e.handle.slot false) s with queue := [] }

/-- What a SOFT RESET does when it is taken (R197). -/
def State.beginDrain (s : State) : State :=
  let s := (List.finRange 24).foldl State.softResetPosition s
  let s := s.softResetDispatch.softResetQueue
  { s with grantState := .draining, bankA := s.bankA.unscheduled, bankB := s.bankB.unscheduled }

/-- The end of the drain (R76, R197). -/
def State.endDrain (s : State) : State :=
  let s := ({ s with grantState := .granting }.answer .supervisor (.done .plain)).judge
  { s with attention := s.attention.drainEnded }

/-- SOFT_RESET (R197): with every unit idle the drain ends in the same step (R76, log entry 2). -/
def execSoftReset (h : Header) (items : List Item) (s : State) : Outcome :=
  haltedRequest .softReset h (itemsAccepted .softReset items) s fun s =>
    let s := s.beginDrain
    if s.allIdle then .next s.endDrain else .next s.judge

/-- DRAIN_END (R76, R197): taken where a drain is in progress and every unit is idle, outside HALTED; else it does not
come about (log entry 2). -/
def execDrainEnd (s : State) : Outcome :=
  if s.resetAsserted || s.halted then .next s
  else if s.draining && s.allIdle then .next s.endDrain
  else .next s

/-! ### Hard reset (R198) -/

/-- The values of hard reset, with the model's own fields kept (log entry 17). -/
def State.hardResetValues (s : State) (asserted : Bool) : State :=
  { State.reset with resetAsserted := asserted, answers := s.answers, freeCount := s.freeCount, pending := s.pending }

/-- HARD_RESET (R198): the reset input is asserted, or power comes on. -/
def execHardReset (s : State) : Outcome := .next (s.hardResetValues true)

/-- RESET_RELEASE (R198): the reset input is released. -/
def execResetRelease (s : State) : Outcome :=
  if s.resetAsserted then .next (s.hardResetValues false) else .next s

/-! ### Frames (R186, R187) -/

/-- FRAME_DISCARDED (R186): a discarded frame changes no state and is not answered. -/
def execFrameDiscarded (_link : Link) (_bytes : List Byte) (s : State) : Outcome := .next s

/-- UNKNOWN_REQUEST (R187, check 1). -/
def execUnknownRequest (h : Header) (kind : Byte) (s : State) : Outcome :=
  if s.resetAsserted then .next s else .next (s.send h.link h.tag kind .unknownRequest)

/-- The outside sends bytes on a link (R186): the receiver goes on with what it has assembled, and the commands its
frames spell join the waiting commands. While the reset input is asserted the bytes are lost (R198, log entry 21). -/
def State.receive (s : State) (l : Link) (bytes : List Byte) : State :=
  if s.resetAsserted then s
  else
    let all := (s.link l).received ++ bytes
    let r := scanBytes l all.length all
    { s.setLink l { s.link l with received := r.2 } with pending := s.pending ++ r.1 }

end Sys2Proof.Machine
end

