-- ==== Sys2Proof/Machine/Jobs.lean ====
section
/-! DEFINITION. Rating Units and the Grant Order (04): GRANT_OF_JOB, the completions, the discarded completion and
JOB_READ_FAILS_CHECK. -/
namespace Sys2Proof.Machine

/-! ### The grant (R69 to R71) -/

/-- The values a job reads of its record at its grant (R44); none where the record is not in the state the job needs
(R12, R16). -/
def JobKind.valuesOf : JobKind → RecordBody → Option JobValues
  | .rate, .draft e =>
    some (.parcel ⟨e.mass, e.sides, e.destination, e.serviceCode, e.declaredValue, e.contentCategory, e.options⟩)
  | .rerateReweigh mass sides, .labelled e _ _ _ _ =>
    some (.parcel
      ⟨some mass, some sides, e.destination, e.serviceCode, e.declaredValue, e.contentCategory, e.options⟩)
  | .rateOption code, .labelled e q _ adj _ =>
    some (.option
      ⟨code, e.sides.getD ⟨0, 0, 0⟩, e.declaredValue, q.chargeable, q.zone, q.base, q.total, adj⟩)
  | _, _ => none

/-- The lowest-numbered IDLE unit (R70). -/
def State.idleUnit (s : State) : Option UnitNo := [0, 1, 2, 3].find? fun u => (s.unit u).isNone

/-- The entry granted next (R70): the dispatch entry, else the oldest. -/
def State.nextEntry (s : State) : Option QueueEntry :=
  match s.queue.find? fun e => e.requester == .dispatch with
  | some e => some e
  | none => s.queue.head?

/-- Values that are never used: those of a job whose read of its record fails at the grant. -/
def JobValues.absent : JobValues := .parcel ⟨none, none, none, none, none, none, []⟩

/-- The grant of an entry to a unit against a bank (R71): steps 1 to 4, then the read of the record, whose failure ends
the job. The values count only where the read passes. -/
def grantEntry (e : QueueEntry) (u : UnitNo) (l : BankLetter) (edition : Nat) (values : JobValues) (r : Rec)
    (s : State) : State :=
  let s := { s with queue := s.queue.filter fun x => x.requester != e.requester }
  let s := s.setUnit u (some ⟨e, l, edition, false, values, [], none⟩)
  let r' := { r with queued := false, busy := true }
  let s := (s.putRecord e.handle.slot r').takePin l
  match s.readAt (.unit u) e.handle.slot r' with
  | (s', .damaged subject) => (s'.endUnread e.handle subject).judge
  | (s', _) => s'.judge

/-- What is answered for an entry or job whose record is not one it can work on, which R12, R16, R18 and R19 exclude:
DAMAGED of a DAMAGED record as R17 answers it, else WRONG STATE, the model's choice (log entry 18). -/
def misfit (h : Handle) (r : Rec) : Answer :=
  match r.body with
  | .damaged _ => .damaged (.record h)
  | _ => .wrongState

/-- An entry that cannot be granted goes with its record's mark, and its request is answered. -/
def dropEntry (e : QueueEntry) (a : Answer) (s : State) : State :=
  ((s.removeEntryOf e.requester).answerRequester e.requester a).judge

/-- GRANT_OF_JOB (R69 to R71): taken where the grant condition holds; else it does not come about (log entry 2). An entry
without an ACTIVE bank, without a record, or whose record does not fit its job is excluded by R68, R5 and R19; the model's
choice there is log entry 18. -/
def execGrantOfJob (s : State) : Outcome :=
  if s.resetAsserted || s.halted || s.grantState != .granting then .next s
  else
    match s.idleUnit, s.nextEntry with
    | some u, some e =>
      match s.activeBank with
      | none => .next s
      | some l =>
        match s.find e.handle with
        | none => .next (dropEntry e .noRecord s)
        | some r =>
          if r.sound && (e.kind.valuesOf r.body).isNone then .next (dropEntry e (misfit e.handle r) s)
          else .next (grantEntry e u l ((s.bank l).state.edition.getD 0) ((e.kind.valuesOf r.body).getD .absent) r s)
    | _, _ => .next s

/-! ### The end of a procedure (R37, R47, R65) -/

/-- A running job's own failing read (R37, R47): the entry is marked damaged and reported, and the job has found its
fault. -/
def State.jobReadFails (s : State) (u : UnitNo) (j : Job) (e : BankEntry) (f : FaultReport) : State :=
  (s.failBankEntry j.bank e (.unit u) (some u)).setUnit u (some { j with found := some f })

/-- A job's procedure run to its end: the state its reads leave and its result; none where a report takes the part to
HALTED, which freezes the job (R47, R65). -/
def State.runJob (s : State) (u : UnitNo) (j : Job) : State × Option JobResult :=
  match j.found with
  | some f => (s, some (.fault f))
  | none =>
    match j.procedure (s.bank j.bank) with
    | .ok r => (s, some r)
    | .error (.fault f) => (s, some (.fault f))
    | .error (.badRead e f) =>
      let s' := s.jobReadFails u j e f
      (s', if s'.halted then none else some (.fault f))

/-- Steps 2 to 4 of a completion (R72, R73): the job's pin released, the busy mark cleared, the unit IDLE. -/
def State.endJob (s : State) (u : UnitNo) (j : Job) : State :=
  ((s.releasePin j.bank).markBusy j.entry.handle.slot false).setUnit u none

/-- A job ends and its requester is answered (R72). -/
def State.finishJob (s : State) (u : UnitNo) (j : Job) (a : Answer) : Outcome :=
  .next ((s.endJob u j).answerRequester j.entry.requester a).judge

/-- A job runs in a unit whose kind a completion row concerns and which is not discarded: the procedure is run, the
record read with its check, the result handed on (R72). Where no such job runs the completion does not come about (log
entry 2). A job without its record is excluded by R18; its requester is then answered NO RECORD (log entry 18). -/
def completion (u : UnitNo) (kind : JobKind → Bool) (s : State) (apply : Job → Rec → JobResult → State → Outcome) :
    Outcome :=
  if s.resetAsserted || s.halted then .next s
  else
    match s.unit u with
    | none => .next s
    | some j =>
      if j.discarded || !kind j.entry.kind then .next s
      else
        match s.runJob u j with
        | (s', none) => .next s'.judge
        | (s', some result) =>
          match s'.find j.entry.handle with
          | none => s'.finishJob u j .noRecord
          | some r =>
            match s'.readAt (.unit u) j.entry.handle.slot r with
            | (s'', .found _ r') => apply j r' result s''
            | (s'', .damaged subject) => .next (s''.endUnread j.entry.handle subject).judge
            | (s'', .noRecord) => .next s''.judge

/-- A position's job that ends in a fault (R63, R72): a GRADE fault of a WORKING position escalates, or is answered RESET
where it would escalate during a drain; any other is answered FAULT. -/
def positionFault (u : UnitNo) (j : Job) (f : FaultReport) (s : State) : Outcome :=
  match j.entry.requester with
  | .dispatch => s.finishJob u j (.fault f)
  | .position p =>
    match s.ctx p with
    | .working session pend _ request =>
      if f.kind ≠ .grade then s.finishJob u j (.fault f)
      else if session.escalation && s.draining then s.finishJob u j .reset
      else .next ((s.endJob u j).escalate p session pend request ((f.grades.map (·.1)).getD 0) f).judge
    | _ => s.finishJob u j (.fault f)

/-! ### RATE (R12, R63, R158) -/

/-- Whether a job is a RATE. -/
def JobKind.isRate : JobKind → Bool
  | .rate => true
  | _ => false

/-- A RATE job's quote stored with its pin, or, where its bank's grace has expired, not (R12, R158). -/
def storeQuote (u : UnitNo) (j : Job) (r : Rec) (e : Entered) (q : Quote) (s : State) : State :=
  let slot := j.entry.handle.slot
  if s.graceExpired j.bank then
    let s := ((s.putRecord slot (r.change (.draft e))).endJob u j).raise .quotesLapsed
    (s.answerRequester j.entry.requester (.quote j.entry.handle .draft q)).judge
  else
    let s := ((s.putRecord slot (r.change (.rated e q))).takePin q.bank).endJob u j
    (s.answerRequester j.entry.requester (.quote j.entry.handle .rated q)).judge

/-- RATE_JOB_COMPLETION (R72, R63). -/
def execRateJobCompletion (u : UnitNo) (s : State) : Outcome :=
  completion u JobKind.isRate s fun j r result s =>
    match result, r.body with
    | .quote q, .draft e => .next (storeQuote u j r e q s)
    | .fault f, _ => positionFault u j f s
    | _, _ => s.finishJob u j (misfit j.entry.handle r)

/-! ### RATE OPTION (R16, R106) -/

/-- Whether a job is a RATE OPTION. -/
def JobKind.isRateOption : JobKind → Bool
  | .rateOption _ => true
  | _ => false

/-- The option code of a RATE OPTION job. -/
def JobKind.optionCode : JobKind → Nat
  | .rateOption code => code
  | _ => 0

/-- An option added to a LABELLED record (R16, R106). -/
def addOption (u : UnitNo) (j : Job) (r : Rec) (e : Entered) (q : Quote) (l : Label) (adj : Nat)
    (rw : Option ReweighPart) (line : Option Line) (s : State) : State :=
  let code := j.entry.kind.optionCode
  let amount := (line.map fun x => x.amount.toNat).getD 0
  let e' := { e with options := e.options ++ [code] }
  let q' := { q with lines := q.lines ++ line.toList, total := q.total + amount }
  let r' := r.change (.labelled e' q' l (adj + amount) rw)
  let s := (s.putRecord j.entry.handle.slot r').endJob u j
  (s.answerRequester j.entry.requester
    (.done (.amended j.entry.handle code line q'.total (adj + amount) r'.changeCount))).judge

/-- RATE_OPTION_COMPLETION (R72, R106). -/
def execRateOptionCompletion (u : UnitNo) (s : State) : Outcome :=
  completion u JobKind.isRateOption s fun j r result s =>
    match result, r.body with
    | .option line, .labelled e q l adj rw => .next (addOption u j r e q l adj rw line s)
    | .fault f, _ => positionFault u j f s
    | _, _ => s.finishJob u j (misfit j.entry.handle r)

/-! ### RERATE REWEIGH (R170) -/

/-- Whether a job is a RERATE REWEIGH. -/
def JobKind.isRerate : JobKind → Bool
  | .rerateReweigh .. => true
  | _ => false

/-- The record and the answer a re-rating leaves (R170), from its result, the pending reweigh and the LABELLED record. -/
def reweighVerdict (pr : PendingReweigh) (r : Rec) (e : Entered) (q : Quote) (l : Label) (adj : Nat)
    (result : JobResult) : Option (Rec × Answer) :=
  match result with
  | .quote fresh =>
    if q.total + adj < fresh.total then
      let shortfall := fresh.total - (q.total + adj)
      let r' := r.change (.held e q l adj ⟨pr.mass, pr.sides, .held, some shortfall⟩ .underpaid)
      some (r', .divert ⟨pr.handle, pr.serial, .underpaid fresh.total shortfall, pr.chargeable, r'.changeCount⟩)
    else
      let r' := r.change (.labelled e q l adj (some ⟨pr.mass, pr.sides, .agreed, none⟩))
      some (r', .clear ⟨pr.handle, pr.serial, .agreed, pr.chargeable, pr.limit, some fresh.total, r'.changeCount⟩)
  | .fault f =>
    let r' := r.change (.held e q l adj ⟨pr.mass, pr.sides, .held, none⟩ (.rerateFault f.kind))
    some (r', .divert ⟨pr.handle, pr.serial, .rerateFault f, pr.chargeable, r'.changeCount⟩)
  | .option _ => none

/-- RERATE_REWEIGH_COMPLETION (R72, R170). -/
def execRerateReweighCompletion (u : UnitNo) (s : State) : Outcome :=
  completion u JobKind.isRerate s fun j r result s =>
    match s.pendingReweigh, r.body with
    | some pr, .labelled e q l adj _ =>
      match reweighVerdict pr r e q l adj result with
      | some (r', a) => (s.putRecord j.entry.handle.slot r').finishJob u j a
      | none => s.finishJob u j (misfit j.entry.handle r)
    | _, _ => s.finishJob u j (misfit j.entry.handle r)

/-! ### Discarded jobs and failing reads (R65, R73) -/

/-- DISCARDED_JOB_COMPLETION (R73): the result is dropped and nothing answered; a damaged mark its reads set stands
(R65). -/
def execDiscardedJobCompletion (u : UnitNo) (s : State) : Outcome :=
  if s.resetAsserted || s.halted then .next s
  else
    match s.unit u with
    | none => .next s
    | some j =>
      if !j.discarded then .next s
      else
        match s.runJob u j with
        | (s', none) => .next s'.judge
        | (s', some _) => .next (s'.endJob u j).judge

/-- JOB_READ_FAILS_CHECK (R37, R47, log entry 4): a running job's read of an entry fails. It comes about where the job
has found no fault and its procedure comes to read that entry; else nothing happens. -/
def execJobReadFailsCheck (u : UnitNo) (entry : BankEntry) (s : State) : Outcome :=
  if s.resetAsserted || s.halted then .next s
  else
    match s.unit u with
    | none => .next s
    | some j =>
      if j.found.isSome then .next s
      else
        match j.procedure ((s.bank j.bank).unsound entry) with
        | .error (.badRead e f) => if e = entry then .next (s.jobReadFails u j e f).judge else .next s
        | _ => .next s

end Sys2Proof.Machine
end

