-- ==== Sys2Proof/Machine/Dispatch.lean ====
section
/-! DEFINITION. One arm per command: each calls the meaning of its row. -/
namespace Sys2Proof.Machine

def exec (i : Instr) (s : State) : Host.Outcome State Fault Refusal :=
  match i with
  | .newParcel h items => Sys2Proof.Machine.execNewParcel h items s
  | .setAttributes h items => Sys2Proof.Machine.execSetAttributes h items s
  | .rate h items => Sys2Proof.Machine.execRate h items s
  | .commit h items => Sys2Proof.Machine.execCommit h items s
  | .printed h items => Sys2Proof.Machine.execPrinted h items s
  | .spoilt h items => Sys2Proof.Machine.execSpoilt h items s
  | .query h items => Sys2Proof.Machine.execQuery h items s
  | .amendAddOption h items => Sys2Proof.Machine.execAmendAddOption h items s
  | .takeOver h items => Sys2Proof.Machine.execTakeOver h items s
  | .void h items => Sys2Proof.Machine.execVoid h items s
  | .cancel h items => Sys2Proof.Machine.execCancel h items s
  | .reweigh h items => Sys2Proof.Machine.execReweigh h items s
  | .handover h items => Sys2Proof.Machine.execHandover h items s
  | .setTime h items => Sys2Proof.Machine.execSetTime h items s
  | .setTimers h items => Sys2Proof.Machine.execSetTimers h items s
  | .setEnables h items => Sys2Proof.Machine.execSetEnables h items s
  | .acknowledge h items => Sys2Proof.Machine.execAcknowledge h items s
  | .status h items => Sys2Proof.Machine.execStatus h items s
  | .openPosition h items => Sys2Proof.Machine.execOpenPosition h items s
  | .closePosition h items => Sys2Proof.Machine.execClosePosition h items s
  | .resetPosition h items => Sys2Proof.Machine.execResetPosition h items s
  | .suspend h items => Sys2Proof.Machine.execSuspend h items s
  | .resume h items => Sys2Proof.Machine.execResume h items s
  | .grant h items => Sys2Proof.Machine.execGrant h items s
  | .deny h items => Sys2Proof.Machine.execDeny h items s
  | .loadBlock h items => Sys2Proof.Machine.execLoadBlock h items s
  | .bankClear h items => Sys2Proof.Machine.execBankClear h items s
  | .bankWrite h items => Sys2Proof.Machine.execBankWrite h items s
  | .bankCopy h items => Sys2Proof.Machine.execBankCopy h items s
  | .bankVerify h items => Sys2Proof.Machine.execBankVerify h items s
  | .scheduleSwitch h items => Sys2Proof.Machine.execScheduleSwitch h items s
  | .unschedule h items => Sys2Proof.Machine.execUnschedule h items s
  | .patchWithdraw h items => Sys2Proof.Machine.execPatchWithdraw h items s
  | .patchRestore h items => Sys2Proof.Machine.execPatchRestore h items s
  | .patchRegrade h items => Sys2Proof.Machine.execPatchRegrade h items s
  | .patchApplied => Sys2Proof.Machine.execPatchApplied s
  | .settleAccept h items => Sys2Proof.Machine.execSettleAccept h items s
  | .settleVoid h items => Sys2Proof.Machine.execSettleVoid h items s
  | .querySupervisor h items => Sys2Proof.Machine.execQuerySupervisor h items s
  | .voidSupervisor h items => Sys2Proof.Machine.execVoidSupervisor h items s
  | .softReset h items => Sys2Proof.Machine.execSoftReset h items s
  | .drainEnd => Sys2Proof.Machine.execDrainEnd s
  | .frameDiscarded link bytes => Sys2Proof.Machine.execFrameDiscarded link bytes s
  | .unknownRequest h kind => Sys2Proof.Machine.execUnknownRequest h kind s
  | .hardReset => Sys2Proof.Machine.execHardReset s
  | .resetRelease => Sys2Proof.Machine.execResetRelease s
  | .hallTimeTick => Sys2Proof.Machine.execHallTimeTick s
  | .printDeadlineExpiry slot => Sys2Proof.Machine.execPrintDeadlineExpiry slot s
  | .escalationTimeout p => Sys2Proof.Machine.execEscalationTimeout p s
  | .graceExpiry bank => Sys2Proof.Machine.execGraceExpiry bank s
  | .switch => Sys2Proof.Machine.execSwitch s
  | .grantOfJob => Sys2Proof.Machine.execGrantOfJob s
  | .rateJobCompletion u => Sys2Proof.Machine.execRateJobCompletion u s
  | .rateOptionCompletion u => Sys2Proof.Machine.execRateOptionCompletion u s
  | .rerateReweighCompletion u => Sys2Proof.Machine.execRerateReweighCompletion u s
  | .discardedJobCompletion u => Sys2Proof.Machine.execDiscardedJobCompletion u s
  | .jobReadFailsCheck u entry => Sys2Proof.Machine.execJobReadFailsCheck u entry s

end Sys2Proof.Machine
end

