-- ==== Sys2Proof/Machine/Answers.lean ====
section
/-! DEFINITION. Answers as frames: the outcome numbers (R190), the enumeration codes, and the items and bytes of an
answer (R199). Item codes the manual does not give are free values; log entry 33 names the choices. -/
namespace Sys2Proof.Machine

/-! ### Outcome numbers (R190) -/

/-- The number the outcome item carries. -/
def Answer.outcome : Answer → Nat
  | .done _ => 1
  | .quote .. => 2
  | .label _ => 3
  | .record .. => 4
  | .status _ => 5
  | .clear _ => 6
  | .divert _ => 7
  | .busy => 16
  | .unknownRequest => 17
  | .malformed => 18
  | .notOnThisLink => 19
  | .positionClosed => 20
  | .suspended => 21
  | .halted => 22
  | .reset => 23
  | .noRecord => 24
  | .wrongState => 25
  | .notOwner => 26
  | .recordBusy => 27
  | .limit => 28
  | .tableFull => 29
  | .reservationLost => 30
  | .fault _ => 31
  | .denied => 32
  | .timedOut => 33
  | .cancelled => 34
  | .withdrawn _ => 35
  | .noNumbers => 36
  | .noEdition => 37
  | .tooLate => 38
  | .hold => 39
  | .notReady => 40
  | .damaged _ => 41
  | .bankState .. => 42
  | .overlap => 43
  | .malformedEdition .. => 44
  | .notIdle => 45
  | .optionPresent => 46

/-! ### Enumeration codes (R199) -/

def FaultKind.code : FaultKind → Nat
  | .missingAttribute => 1
  | .unknownService => 2
  | .nullSelector => 3
  | .noSupplement => 4
  | .beyondLimit => 5
  | .damagedTariff => 6
  | .wrongKind => 7
  | .notPresent => 8
  | .grade => 9
  | .scopeMismatch => 10
  | .customsDataMissing => 11
  | .noZone => 12
  | .overMassLimit => 13
  | .amountRange => 14

def fieldCode : ParcelField → Nat
  | .mass => 1
  | .sides => 2
  | .destination => 3
  | .serviceCode => 4
  | .declaredValue => 5
  | .contentCategory => 6
  | .total => 7

def RecordState.code : RecordState → Nat
  | .draft => 1
  | .rated => 2
  | .printing => 3
  | .labelled => 4
  | .held => 5
  | .damaged => 6

def BankStateName.code : BankStateName → Nat
  | .empty => 0
  | .loading => 1
  | .verified => 2
  | .scheduled => 3
  | .active => 4
  | .retiring => 5
  | .stale => 6

def PositionState.code : PositionState → Nat
  | .closed => 0
  | .opened => 1
  | .working => 2
  | .escalated => 3
  | .suspended => 4

def IntegrityState.code : IntegrityState → Nat
  | .normal => 0
  | .alert => 1
  | .halted => 2

def GrantStateName.code : GrantStateName → Nat
  | .granting => 0
  | .patchWait => 1
  | .draining => 2

def JobKindName.code : JobKindName → Nat
  | .rate => 1
  | .rerateReweigh => 2
  | .rateOption => 3

def Requester.code : Requester → Nat
  | .position p => p.val + 1
  | .dispatch => 25

def Reader.code : Reader → Nat
  | .position p => p.val + 1
  | .dispatch => 25
  | .supervisor => 26
  | .unit u => 31 + u.val
  | .printDeadline => 40
  | .graceExpiry => 41

def ReportSubject.code : ReportSubject → Nat
  | .record _ => 1
  | .indexEntry .. => 2
  | .bankEntry .. => 3

def Verdict.code : Verdict → Nat
  | .agreed => 1
  | .held => 2
  | .settled => 3

def HoldReason.code : HoldReason → Nat
  | .underpaid => 1
  | .rerateFault _ => 2

def EditionReason.code : EditionReason → Nat
  | .editionNumber => 1
  | .segmentForm => 2
  | .chain => 3
  | .zoneForm => 4
  | .zoneOrder => 5
  | .serviceForm => 6
  | .redirectForm => 7
  | .rateForm => 8
  | .surchargeForm => 9

/-- The kind number of a held request (R199). -/
def HeldKind.code : HeldKind → Nat
  | .rate => 0x03
  | .commit => 0x04
  | .amend => 0x08
  | .void => 0x0A

/-! ### Fields in bytes (R199) -/

/-- One byte. -/
def byte1 (n : Nat) : List Byte := bytesOfNat 1 n

/-- A flag: 0 for clear and 1 for set. -/
def flagBytes (b : Bool) : List Byte := byte1 (if b then 1 else 0)

/-- A field to which no table gives a width. -/
def wide (n : Nat) : List Byte := bytesOfNat 4 n

/-- A signed amount: four bytes in two's complement. -/
def signedBytes (n : Int) : List Byte := bytesOfNat 4 (n % 4294967296).toNat

/-- A field where it is present; an absent one is left out (log entry 33). -/
def present {α : Type} (f : α → List Byte) (x : Option α) : List Byte := (x.map f).getD []

def letterBytes : BankLetter → List Byte
  | .a => byte1 0x41
  | .b => byte1 0x42

def selectorBytes (sel : Selector) : List Byte :=
  byte1 (match sel.table with | .n => 0x4E | .h => 0x48) ++ bytesOfNat 2 sel.index

def handleBytes (h : Handle) : List Byte := bytesOfNat 2 h.slot ++ byte1 h.gen

def sidesBytes (s : Sides) : List Byte := bytesOfNat 2 s.a ++ bytesOfNat 2 s.b ++ bytesOfNat 2 s.c

def positionBytes (p : PositionNo) : List Byte := byte1 (p.val + 1)

/-- One bit per cause, bit 0 to bit 6 in the order of the table of R193 (item 15). -/
def causesByte (c : Causes) : Nat :=
  ([c.escalation, c.integrity, c.poolLow, c.held, c.switchTaken, c.bankRetired, c.quotesLapsed].zipIdx.map
    fun x => if x.1 then 2 ^ x.2 else 0).sum

/-- A fault's subject in four bytes. -/
def subjectBytes : Subject → List Byte
  | .selector sel => selectorBytes sel ++ byte1 0
  | .code n => wide n
  | .district n => wide n
  | .field f => wide (fieldCode f)

/-- A subject's form. -/
def subjectForm : Subject → Nat
  | .selector _ => 1
  | .code _ => 2
  | .district _ => 3
  | .field _ => 4

/-- The eight bytes of a fault report (item 41): the grades 255 where the kind is not GRADE. -/
def FaultReport.bytes (f : FaultReport) : List Byte :=
  byte1 f.kind.code ++ byte1 (subjectForm f.subject) ++ subjectBytes f.subject ++
    (match f.grades with
      | some (needed, checked) => byte1 needed ++ byte1 checked
      | none => byte1 255 ++ byte1 255)

/-- A checked entry of a bank: a segment or place number, or a selector. -/
def entryBytes : BankEntry → List Byte
  | .segment n => byte1 n
  | .place n => byte1 n
  | .slot sel => selectorBytes sel

/-- A report's kind and subject (R178). -/
def ReportSubject.bytes : ReportSubject → List Byte
  | .record h => byte1 1 ++ handleBytes h
  | .indexEntry serial h => byte1 2 ++ bytesOfNat 4 serial ++ present handleBytes h
  | .bankEntry l e => byte1 3 ++ letterBytes l ++ entryBytes e

/-! ### Items of answer content -/

/-- An item of an answer: code and value bytes (R199). -/
structure AnswerItem where
  code : Byte
  value : List Byte
  deriving DecidableEq, Repr

/-- The item as it is sent: code, length, value. -/
def AnswerItem.bytes (i : AnswerItem) : List Byte := i.code :: BitVec.ofNat 8 i.value.length :: i.value

/-- A request item carrying a field that the answer shares with it. -/
def shared (i : Item) : AnswerItem := ⟨BitVec.ofNat 8 i.code, i.value⟩

/-- An item of content that shares no field with a request item: its code is a free value. -/
def own (c : AnswerContent) (value : List Byte) : AnswerItem := ⟨Config.contentCode c, value⟩

def handleItem (h : Handle) : AnswerItem := shared (.handle h.slot h.gen)

def letterItem (l : BankLetter) : AnswerItem := ⟨0x19, letterBytes l⟩

def selectorItem (sel : Selector) : AnswerItem := ⟨0x1C, selectorBytes sel⟩

def reportItem (f : FaultReport) : AnswerItem := ⟨0x41, f.bytes⟩

def stateItem (st : RecordState) : AnswerItem := own .recordState (byte1 st.code)

def countItem (n : Nat) : AnswerItem := own .changeCount (wide n)

def totalItem (n : Nat) : AnswerItem := own .total (wide n)

def chargeableItem (n : Nat) : AnswerItem := own .chargeableMass (wide n)

def verdictItem (v : Verdict) : AnswerItem := own .verdict (byte1 v.code)

def bankStateItem (st : BankStateName) : AnswerItem := own .bankState (byte1 st.code)

/-- A quote line: a selector followed by a signed amount. -/
def lineBytes (l : Line) : List Byte := selectorBytes l.sel ++ signedBytes l.amount

/-- A quote, in the order of R7. -/
def quoteItem (q : Quote) : AnswerItem :=
  own .quote (letterBytes q.bank ++ bytesOfNat 2 q.edition ++ byte1 q.zone ++ wide q.chargeable ++ wide q.band ++
    wide q.base ++ q.lines.flatMap lineBytes ++ wide q.total)

/-- A label as QUERY reports it, in the order of R100: prefix, serial, check character, sort code, commit time. -/
def labelItem (l : Label) : AnswerItem :=
  own .label (byte1 l.letters.1 ++ byte1 l.letters.2 ++ bytesOfNat 4 l.serial ++
    wide (if l.check < 10 then 0x30 + l.check else 0x58) ++ bytesOfNat 2 l.sortCode ++ bytesOfNat 4 l.commitTime)

/-- A reweigh part, in the order of R9. -/
def reweighItem (r : ReweighPart) : AnswerItem :=
  own .reweighPart (bytesOfNat 2 r.mass ++ sidesBytes r.sides ++ byte1 r.verdict.code ++ present wide r.shortfall)

/-- The entered fields of a record, in the order of R100. -/
def Entered.bytes (e : Entered) : List Byte :=
  bytesOfNat 4 e.openedAt ++ present (bytesOfNat 2) e.serviceCode ++ present (bytesOfNat 2) e.destination ++
    present (bytesOfNat 2) e.mass ++ present sidesBytes e.sides ++ present (bytesOfNat 4) e.declaredValue ++
    present byte1 e.contentCategory ++ e.options.flatMap (bytesOfNat 2)

/-- A hold reason: its code, and the fault kind of a RERATE FAULT. -/
def HoldReason.bytes : HoldReason → List Byte
  | .underpaid => byte1 1
  | .rerateFault k => byte1 2 ++ byte1 k.code

/-- The fields of a record past its marks: those its own entry holds, and the entries that follow it (R100). The print
deadline remaining has the two bytes of its setting's item (code 12), the model's choice (log entry 33). -/
def RecordBody.parts : RecordBody → List Byte × List AnswerItem
  | .draft e => (e.bytes, [])
  | .rated e q => (e.bytes, [quoteItem q])
  | .printing e q l d => (e.bytes ++ bytesOfNat 2 d, [quoteItem q, labelItem l])
  | .labelled e q l adj rw =>
    (e.bytes ++ wide adj, quoteItem q :: labelItem l :: (rw.map reweighItem).toList)
  | .held e q l adj rw reason =>
    (e.bytes ++ wide adj ++ reason.bytes, [quoteItem q, labelItem l, reweighItem rw])
  | .damaged l => ([], (l.map labelItem).toList)

/-- The items of RECORD (R100): the flag "reservation taken" stands only where a position's QUERY carried the reserve
item. -/
def recordItems (v : RecordView) (reserved : Bool) : List AnswerItem :=
  own .record (handleBytes v.handle ++ byte1 v.body.name.code ++ positionBytes v.owner ++ wide v.changeCount ++
    flagBytes v.busy ++ flagBytes v.queued ++ v.body.parts.1 ++
    if reserved then flagBytes true else []) :: v.body.parts.2

/-- The items of DONE, as each request's rule lists its content. R131 has SUSPEND's DONE carry SUSPENDED or PENDING and lays
out neither; the model's choice is the position state SUSPENDED, and the suspend-pending flag set (log entry 33).
R106 has AMEND's DONE carry an indication that no line was added, for which R199 lays out no form; the model's choice is an
item of its own whose code is a free value and whose value is empty (log entry 33). -/
def Done.items : Done → List AnswerItem
  | .plain => []
  | .parcel h => [handleItem h]
  | .changed h st n => [handleItem h, stateItem st, countItem n]
  | .state st => [stateItem st]
  | .amended h code line total adj n =>
    [handleItem h, shared (.optionCode code),
      match line with
      | some l => own .quoteLine (lineBytes l)
      | none => own .noLine [],
      totalItem total, own .adjustment (wide adj), countItem n]
  | .takenOver h p st n => [handleItem h, shared (.position (p.val + 1)), stateItem st, countItem n]
  | .handedOver h serial v => [handleItem h, shared (.serial serial)] ++ (v.map verdictItem).toList
  | .settled h v adj n => [handleItem h, verdictItem v, own .adjustment (wide adj), countItem n]
  | .hallTime t => [shared (.hallTime t)]
  | .timers d e n => [shared (.printDeadline d), shared (.escalationTimeout e), shared (.lowStock n)]
  | .flags c => [shared (.causes (causesByte c))]
  | .enables e alert c =>
    [shared (.enables (causesByte e + if alert then 128 else 0)), shared (.causes (causesByte c))]
  | .suspended => [own .positionState (byte1 PositionState.suspended.code)]
  | .suspendPending => [own .suspendPending (flagBytes true)]
  | .pool blocks remaining => [own .blockCount (wide blocks), own .remainingCount (wide remaining)]
  | .bankWritten st n => [bankStateItem st, own .damagedCount (wide n)]
  | .edition n => [shared (.editionNumber n)]
  | .bank st => [bankStateItem st]

/-- The items of DAMAGED (R178, R179). -/
def ReportSubject.items (r : ReportSubject) : List AnswerItem :=
  own .reportKind (byte1 r.code) ::
    match r with
    | .record h => [handleItem h]
    | .indexEntry serial h => shared (.serial serial) :: (h.map handleItem).toList
    | .bankEntry l (.segment n) => [letterItem l, own .segmentNumber (byte1 n)]
    | .bankEntry l (.place n) => [letterItem l, own .placeNumber (byte1 n)]
    | .bankEntry l (.slot sel) => [letterItem l, selectorItem sel]

/-- The entry a MALFORMED EDITION names (R152). -/
def EditionEntry.item : EditionEntry → AnswerItem
  | .bank l => letterItem l
  | .entry (.segment n) => own .segmentNumber (byte1 n)
  | .entry (.place n) => own .placeNumber (byte1 n)
  | .entry (.slot sel) => selectorItem sel

/-- The subject of WITHDRAWN (R89): a selector or the service code; the other forms do not come about. -/
def subjectItem : Subject → AnswerItem
  | .selector sel => selectorItem sel
  | .code n => shared (.serviceCode n)
  | .district n => shared (.destination n)
  | .field f => own .attributeName (byte1 (fieldCode f))

/-- The items of LABEL, one entry with the contents of R92 in their order. -/
def LabelAnswer.item (l : LabelAnswer) : AnswerItem :=
  own .label (l.number ++ present (bytesOfNat 2) l.serviceCode ++ byte1 l.zone ++ bytesOfNat 2 l.sortCode ++
    wide l.chargeable ++ wide l.total ++ bytesOfNat 2 l.edition ++ positionBytes l.position ++
    bytesOfNat 4 l.commitTime)

/-- The items of CLEAR (R167, R170). -/
def ClearAnswer.items (c : ClearAnswer) : List AnswerItem :=
  [handleItem c.handle, shared (.serial c.serial), verdictItem c.verdict, chargeableItem c.chargeable,
    own .toleranceLimit (wide c.limit)] ++ (c.total.map totalItem).toList ++ [countItem c.count]

/-- The hold reason of a DIVERT, and what it carries with it (R170). For RERATE FAULT the hold reason is its code alone and
the fault kind stands in the fault report, where the record's hold reason (`HoldReason.bytes`) holds the kind beside the
code: the spec leaves open whether DIVERT's item carries the kind too. DESIGN CHOICE, log entry 33, safe. -/
def DivertReason.parts : DivertReason → List Byte × List AnswerItem
  | .underpaid total shortfall => (byte1 1, [totalItem total, own .shortfall (wide shortfall)])
  | .rerateFault report => (byte1 2, [reportItem report])

/-- The items of DIVERT (R170). -/
def DivertAnswer.items (d : DivertAnswer) : List AnswerItem :=
  [handleItem d.handle, shared (.serial d.serial), own .holdReason d.reason.parts.1, chargeableItem d.chargeable,
    countItem d.count] ++ d.reason.parts.2

/-! ### STATUS entries (R196) -/

/-- A bank, in the order of R39. -/
def BankStatus.item (b : BankStatus) : AnswerItem :=
  own .bank (byte1 b.state.name.code ++ present (bytesOfNat 2) b.state.edition ++ wide b.pins ++
    (match b.state with
      | .scheduled _ effective grace => bytesOfNat 4 effective ++ bytesOfNat 2 grace
      | .retiring _ (.running n) => bytesOfNat 2 n
      | .retiring _ .expired => flagBytes true
      | _ => []) ++ wide b.damagedCount)

/-- A unit, in the order of R66. -/
def unitItem : Option UnitStatus → AnswerItem
  | none => own .unit (byte1 0)
  | some u => own .unit (byte1 1 ++ byte1 u.kind.code ++ handleBytes u.handle ++ letterBytes u.bank ++
      byte1 u.requester.code)

/-- A job kind with its carried values (R66). -/
def JobKind.carried : JobKind → Nat × List Byte
  | .rate => (1, [])
  | .rerateReweigh mass sides => (2, bytesOfNat 2 mass ++ sidesBytes sides)
  | .rateOption code => (3, bytesOfNat 2 code)

/-- A queue entry, in the order of R67. EG, to which no table of R199 gives a width, is sent in four bytes. -/
def QueueEntry.item (e : QueueEntry) : AnswerItem :=
  own .queueEntry (byte1 e.kind.carried.1 ++ handleBytes e.handle ++ byte1 e.requester.code ++ wide e.eg ++
    e.kind.carried.2)

/-- A filled normal save slot, in the order of R115. The remaining escalation time, to which no table of R199 gives a width,
is sent in four bytes. -/
def SlotStatus.bytes (n : SlotStatus) : List Byte :=
  byte1 n.kind.code ++ bytesOfNat 2 n.tag.toNat ++ byte1 n.needed ++ wide n.remaining

/-- A position, in the order of R115. -/
def PositionStatus.item (p : PositionStatus) : AnswerItem :=
  own .position (byte1 p.state.code ++ present (fun s => byte1 s.grade ++ flagBytes s.escalation) p.session ++
    flagBytes p.suspendPending ++ flagBytes p.reserved ++
    present SlotStatus.bytes p.normal ++
    present (fun c => byte1 c.code) p.critical)

/-- A logged report, in the order of R178 and R179. -/
def LogEntry.item (e : LogEntry) : AnswerItem :=
  own .logEntry (e.subject.bytes ++ byte1 e.reader.code ++ bytesOfNat 4 e.hallTime ++ wide e.sequence ++
    byte1 e.left.code)

/-- The items of STATUS (R196). -/
def StatusContent.items : StatusContent → List AnswerItem
  | .hall t d e n pending enabled line state alert count =>
    [own .hall (bytesOfNat 4 t ++ bytesOfNat 2 d ++ bytesOfNat 2 e ++ bytesOfNat 4 n ++ byte1 (causesByte pending) ++
      byte1 (causesByte enabled) ++ flagBytes line ++ byte1 state.code ++ flagBytes alert ++ wide count)]
  | .banks a b => [a.item, b.item]
  | .rating units queue grant => units.map unitItem ++ queue.map QueueEntry.item ++ [own .grantState (byte1 grant.code)]
  | .positions contexts => contexts.map PositionStatus.item
  | .pool blocks remaining threshold =>
    blocks.map (fun b => own .block (bytesOfNat 4 b.first ++ bytesOfNat 4 b.last ++ bytesOfNat 4 b.next)) ++
      [own .remainingCount (wide remaining), shared (.lowStock threshold)]
  | .dispatch pending held =>
    (pending.map fun p => own .pendingReweigh (handleBytes p.1 ++ bytesOfNat 4 p.2.1 ++ wide p.2.2)).toList ++
      [own .heldRecords (wide held)]
  | .log entries => entries.map LogEntry.item

/-! ### The answer frame (R190, R199) -/

/-- The content items of an answer; a refusal without content has none. -/
def Answer.content : Answer → List AnswerItem
  | .done d => d.items
  | .quote h st q => [handleItem h, stateItem st, quoteItem q]
  | .label l => [l.item]
  | .record v reserved => recordItems v reserved
  | .status c => c.items
  | .clear c => c.items
  | .divert d => d.items
  | .fault report => [reportItem report]
  | .withdrawn subject => [subjectItem subject]
  | .damaged subject => subject.items
  | .bankState l st => [letterItem l, bankStateItem st]
  | .malformedEdition reason entry => [own .editionReason (byte1 reason.code), entry.item]
  | _ => []

/-- The items of an answer: the outcome item, then the content (R190). -/
def Answer.items (a : Answer) : List AnswerItem := ⟨0x40, byte1 a.outcome⟩ :: a.content

/-- The bytes of an answer frame: laid out as a request frame is, with the tag of its request (R190, R199). -/
def AnswerFrame.bytes (f : AnswerFrame) : List Byte :=
  frameBytes f.kind f.tag (f.answer.items.flatMap AnswerItem.bytes)

end Sys2Proof.Machine
end

