-- ==== Sys2Proof/Safety.lean ====
section
/-! DEFINITION. What counts as a safe run, in the terms statements use: when a request is admitted and served, what
HALTED keeps, and the laws every step keeps. -/
namespace Sys2Proof.Machine

/-! ### Requests that are taken -/

/-- A request frame passes the link checks (R187). -/
abbrev State.Admits (s : State) (k : Kind) (l : Link) (items : List Item) : Prop :=
  s.resetAsserted = false ∧ sortOf l = linkSort k ∧ (s.link l).outstanding = none ∧ itemsAccepted k items = true

/-- It passes the link checks and the part is not HALTED (R183). -/
abbrev State.Serves (s : State) (k : Kind) (l : Link) (items : List Item) : Prop :=
  s.Admits k l items ∧ s.halted = false

/-- A position request that passes the judgement of Position Control at an OPEN position (R117). -/
abbrev State.ServesAt (s : State) (k : Kind) (p : PositionNo) (items : List Item) (session : Session)
    (res : Option Reservation) : Prop :=
  s.Serves k (.position p) items ∧ s.ctx p = .opened session res

/-- A handle finds a record whose read passes its check (R4, R177). -/
abbrev State.Finds (s : State) (h : Handle) (r : Rec) : Prop := s.find h = some r ∧ r.sound = true

/-- A serial finds a record, the entry and the record passing their checks (R20, R177). -/
abbrev State.FindsSerial (s : State) (serial slot : Nat) (r : Rec) : Prop :=
  s.table.index.get serial = some ⟨slot, false, true⟩ ∧ s.record slot = some r ∧ r.sound = true

/-- The handle or the serial a request carries finds a record in a slot, the reads passing their checks. -/
abbrev State.FindsNamed (s : State) (items : List Item) (slot : Nat) (r : Rec) : Prop :=
  (∃ h, handleOf items = some h ∧ h.slot = slot ∧ s.Finds h r) ∨
    (handleOf items = none ∧ ∃ n, serialOf items = some n ∧ s.FindsSerial n slot r)

/-- The handle or the serial a request carries finds no record: no live record for the handle, or no index entry for the
serial (R4, R20). -/
abbrev State.FindsNone (s : State) (items : List Item) : Prop :=
  (∃ h, handleOf items = some h ∧ s.find h = none) ∨
    (handleOf items = none ∧ ∃ n, serialOf items = some n ∧ s.table.index.get n = none)

/-- The reader that a request of a link is reported as (R178). -/
def linkReader : Link → Reader
  | .position p => .position p
  | .dispatch => .dispatch
  | .supervisor => .supervisor

/-- A request that looks a record up by handle comes to its lookup: from a position those of R80, R99, R104, R108 and R110,
from the supervisor those of R99, R112 and R173. -/
abbrev State.AsksByHandle (s : State) (k : Kind) (l : Link) (items : List Item) (hd : Handle) : Prop :=
  handleOf items = some hd ∧
    ((k ∈ [.setAttributes, .rate, .commit, .printed, .spoilt, .query, .amend, .takeOver, .void] ∧
        ∃ p session res, l = .position p ∧ s.ServesAt k p items session res) ∨
      (k ∈ [.querySupervisor, .voidSupervisor, .settle] ∧ l = .supervisor ∧ s.Serves k .supervisor items))

/-- A request that looks a record up by label serial comes to its lookup: a position's QUERY (R99), the supervisor's requests
(R99, R112, R173), REWEIGH with a bank ACTIVE and HANDOVER (R165). -/
abbrev State.AsksBySerial (s : State) (k : Kind) (l : Link) (items : List Item) (serial : Nat) : Prop :=
  handleOf items = none ∧ serialOf items = some serial ∧
    ((k = .query ∧ ∃ p session res, l = .position p ∧ s.ServesAt k p items session res) ∨
      (k ∈ [.querySupervisor, .voidSupervisor, .settle] ∧ l = .supervisor ∧ s.Serves k .supervisor items) ∨
      (k ∈ [.reweigh, .handover] ∧ l = .dispatch ∧ s.Serves k .dispatch items ∧
        (k = .reweigh → s.activeBank ≠ none)))

/-- How many RATED records hold a quote of a bank. -/
def State.ratedCount (s : State) (l : BankLetter) : Nat :=
  s.table.records.cells.countP fun c => match c.2.body with
    | .rated _ q => q.bank == l
    | _ => false

/-- Every live record passes its check. -/
abbrev State.RecordsSound (s : State) : Prop := ∀ c ∈ s.table.records.cells, c.2.sound = true

/-- Events are taken: the reset input is released and the part is not HALTED (R183, R198). -/
abbrev State.Live (s : State) : Prop := s.resetAsserted = false ∧ s.halted = false

/-! ### What a SOFT RESET does (R197) -/

/-- Whether a SOFT RESET answers the request a position holds: queued, escalated, or escalated under a suspension (R76,
R135). -/
def State.softResetEnds (s : State) (p : PositionNo) : Bool :=
  match s.ctx p with
  | .working .. => s.queue.any fun e => e.requester == .position p
  | .escalated .. => true
  | .suspended _ (.escalated _) => true
  | _ => false

/-- The RESET answer to a link's outstanding request. -/
def State.resetAnswer (s : State) (l : Link) : List AnswerFrame :=
  (s.link l).outstanding.toList.map fun o => ⟨l, o.tag, answerKind o.kind.code, .reset⟩

/-- The answers a SOFT RESET sends (R76, R135, R164). -/
def State.softResetAnswers (s : State) : List AnswerFrame :=
  ((List.finRange 24).flatMap fun p => if s.softResetEnds p then s.resetAnswer (.position p) else []) ++
    if s.queue.any fun e => e.requester == .dispatch then s.resetAnswer .dispatch else []

/-- What a SOFT RESET leaves of every block but the grant state, the supervisor link, the answers and the pending flags
(R197, R76, R135, R43, R164). -/
abbrev State.SoftResetOf (s t : State) : Prop :=
  t.queue = [] ∧ t.units = s.units ∧ t.pool = s.pool ∧ t.hallTime = s.hallTime ∧ t.timers = s.timers ∧
  t.integrity = s.integrity ∧ t.attention.enabled = s.attention.enabled ∧ t.table.index = s.table.index ∧
  t.table.generations = s.table.generations ∧ (∀ n, s.record n = none → t.record n = none) ∧
  (∀ n r, s.record n = some r → t.record n = some { r with
    queued := r.queued && !s.queue.any fun x => x.handle.slot == n }) ∧
  t.pendingReweigh = (if s.queue.any (fun x => x.requester == .dispatch) then none else s.pendingReweigh) ∧
  t.links.dispatch.outstanding =
    (if s.queue.any (fun x => x.requester == .dispatch) then none else s.links.dispatch.outstanding) ∧
  (∀ l edition effective grace, (s.bank l).state = .scheduled edition effective grace →
    t.bank l = { s.bank l with state := .verified edition }) ∧
  (∀ l, (s.bank l).state.name ≠ .scheduled → t.bank l = s.bank l) ∧
  (∀ p, s.ctx p = .closed → t.ctx p = .closed) ∧
  (∀ p session res, s.ctx p = .opened session res → t.ctx p = .opened session none) ∧
  (∀ p session slot, s.ctx p = .escalated session slot → t.ctx p = .opened session none) ∧
  (∀ p session saved, s.ctx p = .suspended session saved → t.ctx p = .opened session none) ∧
  (∀ p session pend res request, s.ctx p = .working session pend res request →
    t.ctx p = if s.softResetEnds p then .opened session none else .working session false none request) ∧
  ∀ p, (t.link (.position p)).outstanding =
    if s.softResetEnds p then none else (s.link (.position p)).outstanding

/-! ### What HALTED keeps (R183) -/

/-- Every block but the links, the hall time and the transcript of answers stands as it did. -/
abbrev State.FrozenAs (s t : State) : Prop :=
  t.table = s.table ∧ t.bankA = s.bankA ∧ t.bankB = s.bankB ∧ t.pool = s.pool ∧ t.positions = s.positions ∧
    t.units = s.units ∧ t.queue = s.queue ∧ t.grantState = s.grantState ∧ t.pendingReweigh = s.pendingReweigh ∧
    t.integrity = s.integrity ∧ t.attention = s.attention ∧ t.timers = s.timers ∧ t.links = s.links ∧
    t.line = s.line

/-- Whether a command is one of the two reset events. -/
def isReset : Instr → Bool
  | .hardReset => true
  | .resetRelease => true
  | _ => false

/-! ### Laws that every step keeps -/

/-- A bank is RETIRING only with pins (R154). -/
def Bank.retiringPinned (b : Bank) : Bool :=
  match b.state with
  | .retiring .. => decide (0 < b.pins)
  | _ => true

/-- The law of the banks (R154): at most one ACTIVE, and none RETIRING without pins. -/
def State.tariffLaw (s : State) : Bool :=
  !(s.bankA.state.isActive && s.bankB.state.isActive) && s.bankA.retiringPinned && s.bankB.retiringPinned

/-- A store is in canonical form: keys strictly rising, nothing listed that an unlisted key holds. -/
def Table.canonical {α : Type} (t : Table α) (isDefault : α → Bool) : Bool :=
  risingKeys t.cells && t.cells.all fun c => !isDefault c.2

/-- A bank's stores are in canonical form. -/
def Bank.canonical (b : Bank) : Bool :=
  b.segments.canonical (· == .unused) && b.zones.canonical (· == .unused) && b.nSlots.canonical (· == .empty) &&
    b.hSlots.canonical (· == .empty)

/-- Every store of the part is in canonical form. -/
def State.canonical (s : State) : Bool :=
  s.table.records.canonical (fun _ => false) && s.table.generations.canonical (· == 1) &&
    s.table.index.canonical (fun _ => false) && s.bankA.canonical && s.bankB.canonical

/-- A block of the pool is well formed (R137). -/
def Block.ok (b : Block) : Bool :=
  decide (b.first ≤ b.next) && decide (b.next ≤ b.last) && decide (b.last ≤ Config.serialMax)

/-- No two blocks share a serial (R139). -/
def blocksApart : List Block → Bool
  | [] => true
  | b :: rest => rest.all (fun c => !sharesSerial b.first b.last c) && blocksApart rest

/-- A block still holds a serial (R139, R145). -/
def Block.holds (b : Block) (serial : Nat) : Bool := decide (b.next ≤ serial) && decide (serial ≤ b.last)

/-- The law of the pool (R137, R139): at most 32 blocks, well formed and apart, and no serial they still hold has an
entry in the label index. -/
def State.poolLaw (s : State) : Bool :=
  decide (s.pool.blocks.length ≤ Config.blockLimit) && s.pool.blocks.all Block.ok && blocksApart s.pool.blocks &&
    s.table.index.cells.all fun c => !s.pool.blocks.any fun b => b.holds c.1

/-- Whether a bank state may carry pins (R39, R155). -/
def BankState.carriesPins : BankState → Bool
  | .active _ => true
  | .retiring .. => true
  | _ => false

/-- The records and units that pin a bank (R155): the RATED and PRINTING records whose quote names it, and the units
running on it. -/
def State.pinners (s : State) (l : BankLetter) : Nat :=
  s.table.records.cells.countP (fun c => c.2.body.pin == some l) +
    s.units.toList.countP fun u => u.any fun j => j.bank == l

/-- The law of the pins of one bank (R155, R39): the pin count is the number of its pinners, and a bank with pins is ACTIVE
or RETIRING. -/
def State.pinnedBy (s : State) (l : BankLetter) : Bool :=
  (s.bank l).pins == s.pinners l && ((s.bank l).pins == 0 || (s.bank l).state.carriesPins)

/-- The law of the pins (R155). -/
def State.pinLaw (s : State) : Bool := s.pinnedBy .a && s.pinnedBy .b

/-- The two banks never carry the same edition number (R151). -/
def State.editionsApart (s : State) : Bool :=
  match s.bankA.state.edition with
  | some n => s.bankB.state.edition != some n
  | none => true

/-- The label index in step with the records (R20, R21): each label's serial has an entry leading to its record, and each
entry leads to a record whose label carries its serial. -/
def State.indexLaw (s : State) : Bool :=
  (s.table.records.cells.all fun c =>
    c.2.body.label.all fun l => (s.table.index.get l.serial).any fun e => e.slot == c.1) &&
    s.table.index.cells.all fun c => (s.record c.2.slot).any fun r => r.body.label.any fun l => l.serial == c.1

/-- No position owns more than eight records in DRAFT, RATED and PRINTING (R22). -/
def State.handLaw (s : State) : Bool := (List.finRange 24).all fun p => decide (s.ownedInHand p ≤ Config.ownedLimit)

/-- The running jobs. -/
def State.jobs (s : State) : List Job := s.units.toList.filterMap id

/-- The requesters that wait for a rating: those with an entry, and those with a running job that is not discarded. -/
def State.waiting (s : State) : List Requester :=
  s.queue.map (·.requester) ++ (s.jobs.filter fun j => !j.discarded).map (·.entry.requester)

/-- The queue and the marks (R67, R18, R19): no record under two entries or jobs, each entry and job on a live record, and a
record queued exactly with an entry and busy exactly with a job. -/
def State.marksLaw (s : State) : Bool :=
  decide (s.queue.map (·.handle) ++ s.jobs.map (·.entry.handle)).Nodup &&
    (s.queue.map (·.handle) ++ s.jobs.map (·.entry.handle)).all (fun h => (s.find h).isSome) &&
    s.table.records.cells.all fun c =>
      (c.2.queued == s.queue.any fun e => e.handle == s.handleAt c.1) &&
        (c.2.busy == s.jobs.any fun j => j.entry.handle == s.handleAt c.1)

/-- Whether a position is WORKING. -/
def Context.isWorking : Context → Bool
  | .working .. => true
  | _ => false

/-- Whether a position's link holds a request in this state (R116). -/
def Context.holdsRequest : Context → Bool
  | .working .. => true
  | .escalated .. => true
  | .suspended _ (.escalated _) => true
  | _ => false

/-- The requests of the links (R67, R116, R164): no requester waits twice, a position waits exactly while it is WORKING and
its link holds a request exactly in the states of R116, and the dispatch link holds one exactly while dispatch waits,
which is while there is a pending reweigh. -/
def State.requestLaw (s : State) : Bool :=
  decide s.waiting.Nodup &&
    (List.finRange 24).all (fun p => (s.waiting.contains (.position p) == (s.ctx p).isWorking) &&
      ((s.link (.position p)).outstanding.isSome == (s.ctx p).holdsRequest)) &&
    (s.waiting.contains .dispatch == s.links.dispatch.outstanding.isSome) &&
    (s.pendingReweigh.isSome == s.links.dispatch.outstanding.isSome)

/-- A descriptor's access grade, where it has one, is 0 to 3 (R31 to R34). -/
def Descriptor.gradeOk : Descriptor → Bool
  | .service d => decide (d.grade ≤ 3)
  | .redirect g _ => decide (g ≤ 3)
  | .surcharge d => decide (d.grade ≤ 3)
  | .rate _ => true
  | .empty => true

/-- A bank past LOADING holds, in the slots below its limits, only access grades from 0 to 3 (R151). -/
def Bank.gradesOk (b : Bank) : Bool :=
  b.state.edition.isNone ||
    (b.nSlots.cells.all (fun c => c.1 == 0 || decide (b.nLimit ≤ c.1) || c.2.content.gradeOk) &&
      b.hSlots.cells.all fun c => decide (b.hLimit ≤ c.1) || c.2.content.gradeOk)

/-- A job's grades (R66, R45, R62): EG, the needed grade of a fault found, and the grades of the slots it has read. -/
def Job.gradesOk (j : Job) : Bool :=
  decide (j.entry.eg ≤ 3) && j.found.all (fun f => f.grades.all fun g => decide (g.1 ≤ 3)) &&
    j.seen.all fun x => match x.entry with
      | .slot _ c => c.content.gradeOk
      | _ => true

/-- A patch that waits gives a grade from 0 to 3 (R159). -/
def GrantState.gradesOk : GrantState → Bool
  | .patchWait ⟨_, _, .regrade g⟩ => decide (g ≤ 3)
  | _ => true

/-- A save slot (R124, R123): the needed grade is 0 to 3 and the time left at most the greatest timeout. -/
def NormalSlot.inRange (n : NormalSlot) : Bool := decide (n.needed ≤ 3) && decide (n.remaining ≤ 1800)

/-- A context (R115, R124, R125): the session grade is 1 to 3, and a suspended countdown has 1 s or more left. -/
def Context.inRange : Context → Bool
  | .closed => true
  | .opened session _ => decide (1 ≤ session.grade) && decide (session.grade ≤ 3)
  | .working session .. => decide (1 ≤ session.grade) && decide (session.grade ≤ 3)
  | .escalated session slot => decide (1 ≤ session.grade) && decide (session.grade ≤ 3) && slot.inRange
  | .suspended session saved =>
    decide (1 ≤ session.grade) && decide (session.grade ≤ 3) &&
      match saved with
      | .opened => true
      | .escalated slot => slot.inRange && decide (1 ≤ slot.remaining)

/-- The settings (R192). -/
def Timers.inRange (t : Timers) : Bool :=
  decide (10 ≤ t.printDeadline) && decide (t.printDeadline ≤ 600) && decide (30 ≤ t.escalationTimeout) &&
    decide (t.escalationTimeout ≤ 1800)

/-- A print deadline is at most 600 s (R6). -/
def RecordBody.deadlineOk : RecordBody → Bool
  | .printing _ _ _ d => decide (d ≤ 600)
  | _ => true

/-- The law of the grades and the times (R115, R124, R45, R192, R6). -/
def State.rangeLaw (s : State) : Bool :=
  (List.finRange 24).all (fun p => (s.ctx p).inRange) && s.queue.all (fun e => decide (e.eg ≤ 3)) &&
    s.jobs.all Job.gradesOk && s.bankA.gradesOk && s.bankB.gradesOk && s.grantState.gradesOk && s.timers.inRange &&
    s.table.records.cells.all fun c => c.2.body.deadlineOk

/-- The conditions remembered are those the blocks report (R193). -/
abbrev State.Judged (s : State) : Prop := s.attention.conditions = s.conditions

/-! ### Safe runs -/

/-- A run of `n` steps that never stops. -/
def SafeRun : Nat → State → Prop
  | 0, _ => True
  | n + 1, s => ∃ t, step s = .next t ∧ SafeRun n t

end Sys2Proof.Machine
end

