-- ==== Sys2Proof/WellFormed.lean ====
section
/-! DEFINITION. Well-formed commands: those a frame or an event of the part can be. An item's values fit their fields
(R199), a body is at most 1,024 bytes (R186), a row is the row its frame belongs to, an event names a thing the part
has. -/
namespace Sys2Proof

/-- Two bytes hold a number. -/
def fits2 (n : Nat) : Bool := decide (n < 65536)

/-- One byte holds a number. -/
def fits1 (n : Nat) : Bool := decide (n < 256)

/-- Four bytes hold a number. -/
def fits4 (n : Nat) : Bool := decide (n < 4294967296)

/-- The bytes at the end of a body that are too few for the item they begin. -/
def cutBytes : List Byte → Bool
  | [] => false
  | [_] => true
  | _ :: l :: rest => decide (rest.length < l.toNat)

/-- An item's values fit the fields of the item table (R199). A `raw` item is one that the table does not read. -/
def Item.fits : Item → Bool
  | .handle s g => fits2 s && fits1 g
  | .serial n => fits4 n
  | .statedGrade g => fits1 g
  | .reserve => true
  | .serviceCode n => fits2 n
  | .destination n => fits2 n
  | .mass n => fits2 n
  | .sides a b c => fits2 a && fits2 b && fits2 c
  | .declaredValue n => fits4 n
  | .contentCategory n => fits1 n
  | .addOption n => fits2 n
  | .clearOptions => true
  | .optionCode n => fits2 n
  | .position n => fits1 n
  | .grade n => fits1 n
  | .escalationEnable n => fits1 n
  | .hallTime n => fits4 n
  | .printDeadline n => fits2 n
  | .escalationTimeout n => fits2 n
  | .lowStock n => fits4 n
  | .enables n => fits1 n
  | .causes n => fits1 n
  | .firstSerial n => fits4 n
  | .count n => fits4 n
  | .bankLetter n => fits1 n
  | .editionNumber n => fits2 n
  | .grace n => fits2 n
  | .selector l i => fits1 l && fits2 i
  | .patchChange c g => fits1 c && fits1 g
  | .settleForm n => fits1 n
  | .statusPart n => fits1 n
  | .parameters g m t => fits2 g && fits1 m && fits4 t
  | .segment n u f l bl bi x => fits1 n && fits1 u && fits2 f && fits2 l && fits1 bl && fits2 bi && fits1 x
  | .zonePlace n u l h z c => fits1 n && fits1 u && fits2 l && fits2 h && fits1 z && fits2 c
  | .tableLimit l n => fits1 l && fits2 n
  | .descriptorHead l i k rest =>
    fits1 l && fits2 i && fits1 k && decide (rest.length ≤ 13)
      && ((headLength k).getD (rest.length + 4) == rest.length + 4)
  | .listSelector l i => fits1 l && fits2 i
  | .listBand m ps => fits2 m && ps.length == 12 && ps.all fits4
  | .raw c v => fits1 c && decide (v.length ≤ 255) && Item.read c v == .raw c v
  | .cut bs => cutBytes bs

/-- Only the last item is cut short. -/
def cutLast : List Item → Bool
  | [] => true
  | .cut _ :: rest => rest.isEmpty
  | _ :: rest => cutLast rest

/-- The items are those of some body (R186, R199). -/
def itemsWf (items : List Item) : Bool :=
  items.all Item.fits && cutLast items && decide ((bodyOf items).length ≤ bodyMax)

/-- A bank entry the part has (R25, R27, R29). -/
def BankEntry.exists : BankEntry → Bool
  | .segment n => decide (n < 32)
  | .place n => decide (n < 256)
  | .slot ⟨.n, i⟩ => decide (i < 1024)
  | .slot ⟨.h, i⟩ => decide (i < 256)

/-- Bytes from a start byte that a receiver discards (R186). -/
def discardedFrame : List Byte → Bool
  | [] => false
  | b :: rest => b == startByte && readFrame rest == .discarded

/-- A command is well formed. -/
def Instr.wf : Instr → Bool
  | .newParcel _ is | .setAttributes _ is | .rate _ is | .commit _ is | .printed _ is | .spoilt _ is | .query _ is
  | .amendAddOption _ is | .takeOver _ is | .void _ is | .cancel _ is | .reweigh _ is | .handover _ is | .setTime _ is
  | .setTimers _ is | .setEnables _ is | .acknowledge _ is | .status _ is | .openPosition _ is | .closePosition _ is
  | .resetPosition _ is | .suspend _ is | .resume _ is | .grant _ is | .deny _ is | .loadBlock _ is | .bankClear _ is
  | .bankWrite _ is | .bankCopy _ is | .bankVerify _ is | .scheduleSwitch _ is | .unschedule _ is
  | .querySupervisor _ is | .voidSupervisor _ is | .softReset _ is => itemsWf is
  | .patchWithdraw h is => itemsWf is && requestCommand .patch h is == .patchWithdraw h is
  | .patchRestore h is => itemsWf is && requestCommand .patch h is == .patchRestore h is
  | .patchRegrade h is => itemsWf is && requestCommand .patch h is == .patchRegrade h is
  | .settleAccept h is => itemsWf is && requestCommand .settle h is == .settleAccept h is
  | .settleVoid h is => itemsWf is && requestCommand .settle h is == .settleVoid h is
  | .frameDiscarded _ bytes => discardedFrame bytes
  | .unknownRequest _ kind => (Kind.ofCode kind).isNone
  | .printDeadlineExpiry slot => decide (slot < Config.slotCount)
  | .jobReadFailsCheck _ entry => entry.exists
  | .patchApplied | .drainEnd | .hardReset | .resetRelease | .hallTimeTick | .escalationTimeout _ | .graceExpiry _
  | .switch | .grantOfJob | .rateJobCompletion _ | .rateOptionCompletion _ | .rerateReweighCompletion _
  | .discardedJobCompletion _ => true

end Sys2Proof
end

