-- ==== Sys2Proof/Certificates/Slice0/Obligations.lean ====
section
/-! DEFINITION. The statements for the provers. Each docstring names the rule of spec/ it formalises, or says that it is
the model's own choice and names the log entry. -/

open Sys2Proof Sys2Proof.Machine

/-! ### The machine -/

/-- The model's own step (log entry 1): the command at the front of the queue is executed on the queue's rest, and an
empty queue idles. -/
def Obligations.StepExecutesFrontCommand : Prop :=
  (∀ (c : Instr) (rest : List Instr) (s : State), s.pending = c :: rest → step s = exec c { s with pending := rest }) ∧
    ∀ s : State, s.pending = [] → step s = .next s

/-- The model's own totality (log entry 18): every command answers a next state in every state. -/
def Obligations.CommandsGoOn : Prop := ∀ (c : Instr) (s : State), ∃ t, exec c s = .next t

/-- R198: while the reset input is asserted no frame is taken, no answer is sent, the line is deasserted and the
receivers hold no byte; at its release every block holds its values for hard reset and frames are taken. The transcript
`answers` is the model's own field (log entry 17). -/
def Obligations.HardResetAndRelease : Prop :=
  (∀ s : State, ∃ t, exec .hardReset s = .next t ∧ t.resetAsserted = true ∧ t.answers = s.answers ∧
    ∀ l : Link, t.link l = ⟨none, []⟩) ∧
  (∀ s : State, s.resetAsserted = true →
    (∀ (k : Kind) (h : Header) (items : List Item), exec (requestCommand k h items) s = .next s) ∧
    (∀ (h : Header) (kind : Byte), exec (.unknownRequest h kind) s = .next s) ∧
    (∀ (l : Link) (bytes : List Byte), s.receive l bytes = s) ∧ s.line = false ∧
    ∀ (c : Instr) (t : State), exec c s = .next t → t.answers = s.answers) ∧
  ∀ s : State, s.resetAsserted = true →
    ∃ t, exec .resetRelease s = .next t ∧ t.resetAsserted = false ∧ t.answers = s.answers ∧
      t.table.records.cells = [] ∧ t.table.index.cells = [] ∧ (∀ slot, t.generation slot = 1) ∧
      (∀ l, t.bank l = ⟨.empty, ⟨0, 0, 0⟩, ⟨[]⟩, ⟨[]⟩, 1, ⟨[]⟩, 0, ⟨[]⟩, 0, 0⟩) ∧
      (∀ u, t.unit u = none) ∧ t.queue = [] ∧ t.grantState = .granting ∧ t.pendingReweigh = none ∧
      (∀ p, t.ctx p = .closed) ∧ t.pool = ⟨[], 500⟩ ∧ t.integrity = ⟨.normal, false, 0, []⟩ ∧ t.hallTime = 0 ∧
      t.timers = ⟨90, 300⟩ ∧ t.attention.pending = .none ∧ t.attention.enabled = .none ∧ t.line = false ∧
      ∀ l : Link, t.link l = ⟨none, []⟩

/-- The state at reset meets the laws the invariants keep (R154, R139, R193, R155, R151, R20, R22, R18, R19, R67, R116,
R124; the stores' form is the model's own). -/
def Obligations.ResetStateMeetsLaws : Prop :=
  State.reset.tariffLaw = true ∧ State.reset.canonical = true ∧ State.reset.poolLaw = true ∧ State.reset.Judged ∧
    State.reset.attention.conditions = ⟨false, true, false⟩ ∧ State.reset.pinLaw = true ∧
    State.reset.editionsApart = true ∧ State.reset.indexLaw = true ∧ State.reset.handLaw = true ∧
    State.reset.marksLaw = true ∧ State.reset.requestLaw = true ∧ State.reset.rangeLaw = true

/-! ### Links and frames -/

/-- R187, checks 2 to 4: NOT ON THIS LINK, BUSY, MALFORMED, in this order, each with the failing frame's tag and
nothing else changed; a CANCEL is not refused BUSY. R187, check 1: a kind the part does not have is answered UNKNOWN
REQUEST and nothing else changes. R188: the link of each kind. R189, R199: the items the link accepts: every item permitted
on the kind, in its range and of its length (an item of another length or of an unlisted code is `raw`), but for the
attribute items of SET ATTRIBUTES; none twice but list entries on BANK WRITE and those attribute items; every required item
present, exactly one of a "one of" group and at least one of a "one or more of" group; the items of each kind and the range
of each item. That list entries must fit the head's kind is the model's choice (log entry 13), that it is the link that
refuses a causes item naming none (R194) its inference (log entry 14), and that the link also refuses a body cut short inside an item, on SET ATTRIBUTES too,
its choice (log entry 31). -/
def Obligations.LinkRefusesFrames : Prop :=
  (∀ (k : Kind) (h : Header) (items : List Item) (s : State), s.resetAsserted = false →
     (sortOf h.link ≠ linkSort k →
       exec (requestCommand k h items) s = .next (s.send h.link h.tag k.code .notOnThisLink)) ∧
     (sortOf h.link = linkSort k → (s.link h.link).outstanding ≠ none → k ≠ .cancel →
       exec (requestCommand k h items) s = .next (s.send h.link h.tag k.code .busy)) ∧
     (sortOf h.link = linkSort k → (s.link h.link).outstanding = none ∨ k = .cancel → itemsAccepted k items = false →
       exec (requestCommand k h items) s = .next (s.send h.link h.tag k.code .malformed))) ∧
  ((∀ (link : Link) (kind : Byte) (tag : Tag) (body : List Byte), (∀ k : Kind, k.code ≠ kind) →
     frameCommand link kind tag body = .unknownRequest ⟨link, tag⟩ kind) ∧
   ∀ (h : Header) (kind : Byte) (s : State), s.resetAsserted = false →
     exec (.unknownRequest h kind) s =
       .next { s with answers := s.answers ++ [⟨h.link, h.tag, answerKind kind, .unknownRequest⟩] }) ∧
  (∀ k : Kind,
    (linkSort k = .position ↔ k ∈ [.newParcel, .setAttributes, .rate, .commit, .printed, .spoilt, .query, .amend,
      .takeOver, .void, .cancel]) ∧
    (linkSort k = .dispatch ↔ k ∈ [.reweigh, .handover]) ∧
    ∀ p : PositionNo, sortOf (.position p) = .position ∧ sortOf .dispatch = .dispatch ∧
      sortOf .supervisor = .supervisor) ∧
  (∀ (k : Kind) (items : List Item), itemsAccepted k items = true ↔
    (∀ i ∈ items, i.code ∈ (itemRule k).required ++ (itemRule k).optional ++ (itemRule k).oneOf ++
      (itemRule k).someOf) ∧
    (∀ i ∈ items, (k = .setAttributes ∧ 0x05 ≤ i.code ∧ i.code ≤ 0x0C) ∨ itemInRange k i = true) ∧
    (∀ i ∈ items, (k = .bankWrite ∧ i.code = 0x25) ∨ (k = .setAttributes ∧ 0x05 ≤ i.code ∧ i.code ≤ 0x0C) ∨
      items.countP (fun x => x.code == i.code) = 1) ∧
    (∀ c ∈ (itemRule k).required, ∃ i ∈ items, i.code = c) ∧
    ((itemRule k).oneOf ≠ [] → items.countP (fun x => (itemRule k).oneOf.contains x.code) = 1) ∧
    ((itemRule k).someOf ≠ [] → ∃ i ∈ items, i.code ∈ (itemRule k).someOf) ∧
    (∀ l n, .listSelector l n ∈ items → ∃ hl hn fields, .descriptorHead hl hn 1 fields ∈ items) ∧
    ∀ m ps, .listBand m ps ∈ items → ∃ hl hn fields, .descriptorHead hl hn 3 fields ∈ items) ∧
  ((∀ k ∈ [Kind.newParcel, .cancel, .softReset], itemRule k = ⟨[], [], [], []⟩) ∧
    itemRule .setAttributes = ⟨[0x01], [0x05, 0x06, 0x07, 0x08, 0x09, 0x0A, 0x0B, 0x0C], [], []⟩ ∧
    (∀ k ∈ [Kind.rate, .commit, .void], itemRule k = ⟨[0x01], [0x03], [], []⟩) ∧
    (∀ k ∈ [Kind.printed, .spoilt], itemRule k = ⟨[0x01, 0x02], [], [], []⟩) ∧
    itemRule .query = ⟨[], [0x04], [0x01, 0x02], []⟩ ∧ itemRule .amend = ⟨[0x01, 0x0D], [0x03], [], []⟩ ∧
    itemRule .takeOver = ⟨[0x01], [], [], []⟩ ∧ itemRule .reweigh = ⟨[0x02, 0x07, 0x08], [], [], []⟩ ∧
    itemRule .handover = ⟨[0x02], [], [], []⟩ ∧ itemRule .setTime = ⟨[0x11], [], [], []⟩ ∧
    itemRule .setTimers = ⟨[], [], [], [0x12, 0x13, 0x14]⟩ ∧ itemRule .setEnables = ⟨[0x15], [], [], []⟩ ∧
    itemRule .acknowledge = ⟨[0x16], [], [], []⟩ ∧ itemRule .status = ⟨[0x1F], [], [], []⟩ ∧
    itemRule .openPosition = ⟨[0x0E, 0x0F, 0x10], [], [], []⟩ ∧
    (∀ k ∈ [Kind.closePosition, .resetPosition, .suspend, .resume, .deny], itemRule k = ⟨[0x0E], [], [], []⟩) ∧
    itemRule .grant = ⟨[0x0E, 0x0F], [], [], []⟩ ∧ itemRule .loadBlock = ⟨[0x17, 0x18], [], [], []⟩ ∧
    (∀ k ∈ [Kind.bankClear, .bankCopy, .unschedule], itemRule k = ⟨[0x19], [], [], []⟩) ∧
    itemRule .bankWrite = ⟨[0x19], [0x25], [0x20, 0x21, 0x22, 0x23, 0x24], []⟩ ∧
    itemRule .bankVerify = ⟨[0x19, 0x1A], [], [], []⟩ ∧
    itemRule .scheduleSwitch = ⟨[0x19, 0x11, 0x1B], [], [], []⟩ ∧
    itemRule .patch = ⟨[0x19, 0x1C, 0x1D], [], [], []⟩ ∧ itemRule .settle = ⟨[0x1E], [], [0x01, 0x02], []⟩ ∧
    ∀ k ∈ [Kind.querySupervisor, .voidSupervisor], itemRule k = ⟨[], [], [0x01, 0x02], []⟩) ∧
  ∀ (k : Kind) (n a b c : Nat) (bytes : List Byte),
    (itemInRange k (.handle a b) = true ↔ a ≤ 4095 ∧ 1 ≤ b ∧ b ≤ 255) ∧
    (itemInRange k (.serial n) = true ↔ n ≤ 999999999) ∧ (itemInRange k (.statedGrade n) = true ↔ n ≤ 3) ∧
    itemInRange k .reserve = true ∧ (itemInRange k (.mass n) = true ↔ 1 ≤ n ∧ n ≤ 40000) ∧
    (itemInRange k (.sides a b c) = true ↔ ∀ x ∈ [a, b, c], 10 ≤ x ∧ x ≤ 2000) ∧
    (itemInRange k (.optionCode n) = true ↔ 1 ≤ n ∧ n ≤ 999) ∧
    (itemInRange k (.position n) = true ↔ 1 ≤ n ∧ n ≤ 24) ∧
    (itemInRange .grant (.grade n) = true ↔ n ≤ 3) ∧ (itemInRange .openPosition (.grade n) = true ↔ 1 ≤ n ∧ n ≤ 3) ∧
    (itemInRange k (.escalationEnable n) = true ↔ n ≤ 1) ∧
    (itemInRange k (.hallTime n) = true ↔ n ≤ 4294967295) ∧
    (itemInRange k (.printDeadline n) = true ↔ 10 ≤ n ∧ n ≤ 600) ∧
    (itemInRange k (.escalationTimeout n) = true ↔ 30 ≤ n ∧ n ≤ 1800) ∧
    (itemInRange k (.lowStock n) = true ↔ n ≤ 100000) ∧ (itemInRange k (.enables n) = true ↔ n ≤ 255) ∧
    (itemInRange k (.causes n) = true ↔ 1 ≤ n ∧ n ≤ 127) ∧
    (itemInRange k (.firstSerial n) = true ↔ n ≤ 999999999) ∧
    (itemInRange k (.count n) = true ↔ 1 ≤ n ∧ n ≤ 100000) ∧
    (itemInRange k (.bankLetter n) = true ↔ n = 0x41 ∨ n = 0x42) ∧
    (itemInRange k (.editionNumber n) = true ↔ 1 ≤ n ∧ n ≤ 65535) ∧
    (itemInRange k (.grace n) = true ↔ n ≤ 7200) ∧
    (itemInRange k (.selector a b) = true ↔ (a = 0x4E ∨ a = 0x48) ∧ b ≤ 2047) ∧
    (itemInRange k (.patchChange a b) = true ↔ ((a = 1 ∨ a = 2) ∧ b = 0) ∨ (a = 3 ∧ b ≤ 3)) ∧
    (itemInRange k (.settleForm n) = true ↔ n = 1 ∨ n = 2) ∧
    (itemInRange k (.statusPart n) = true ↔ 1 ≤ n ∧ n ≤ 7) ∧
    itemInRange k (.raw n bytes) = false ∧ itemInRange k (.cut bytes) = false ∧ (Item.cut bytes).code = 256

/-- R186: the two running sums, when a frame is awaited, when it passes its check, when it is discarded, where the
receiver then looks on, and that a discarded frame changes no state. -/
def Obligations.ReceiverFindsFrames : Prop :=
  (checkSums [] = (0, 0) ∧
    ∀ (bytes : List Byte) (x : Byte), checkSums (bytes ++ [x]) =
      (((checkSums bytes).1 + x.toNat) % 255,
        ((checkSums bytes).2 + ((checkSums bytes).1 + x.toNat) % 255) % 255)) ∧
  (∀ bytes : List Byte, bytes.length < 5 → readFrame bytes = .incomplete) ∧
  (∀ (kind t1 t0 l1 l0 : Byte) (rest : List Byte),
    (natOfBytes [l1, l0] ≤ 1024 → rest.length < natOfBytes [l1, l0] + 2 →
      readFrame (kind :: t1 :: t0 :: l1 :: l0 :: rest) = .incomplete) ∧
    (1024 < natOfBytes [l1, l0] → readFrame (kind :: t1 :: t0 :: l1 :: l0 :: rest) = .discarded) ∧
    (∀ (body after : List Byte) (c1 c2 : Byte), body.length = natOfBytes [l1, l0] → body.length ≤ 1024 →
      rest = body ++ c1 :: c2 :: after →
      readFrame (kind :: t1 :: t0 :: l1 :: l0 :: rest) =
        if (c1.toNat, c2.toNat) = checkSums (kind :: t1 :: t0 :: l1 :: l0 :: body) then
          .frame kind (BitVec.ofNat 16 (natOfBytes [t1, t0])) body after
        else .discarded)) ∧
  (∀ (link : Link) (n : Nat) (x : Byte) (rest : List Byte), x ≠ startByte →
    scanBytes link (n + 1) (x :: rest) = scanBytes link n rest) ∧
  (∀ (link : Link) (n : Nat) (rest : List Byte), readFrame rest = .incomplete →
    scanBytes link (n + 1) (startByte :: rest) = ([], startByte :: rest)) ∧
  (∀ (link : Link) (n : Nat) (rest : List Byte), readFrame rest = .discarded →
    scanBytes link (n + 1) (startByte :: rest) =
      (.frameDiscarded link (startByte :: rest) :: (scanBytes link n rest).1, (scanBytes link n rest).2)) ∧
  (∀ (link : Link) (n : Nat) (rest : List Byte) (kind : Byte) (tag : Tag) (body after : List Byte),
    readFrame rest = .frame kind tag body after →
    scanBytes link (n + 1) (startByte :: rest) =
      (frameCommand link kind tag body :: (scanBytes link n after).1, (scanBytes link n after).2)) ∧
  ∀ (link : Link) (bytes : List Byte) (s : State), exec (.frameDiscarded link bytes) s = .next s

/-- R199, R186: the bytes of a frame of any request kind, tag and well-formed items, sent on a link whose receiver
holds none, are found as exactly the command of that kind with that tag and those items. How bytes reach the queue is the
model's choice (log entry 21), and so is which PATCH or SETTLE row a frame picks (log entry 23). -/
def Obligations.FrameBytesGiveTheCommand : Prop :=
  ∀ (k : Kind) (link : Link) (tag : Tag) (items : List Item), itemsWf items = true →
    itemsOf (bodyOf items) = items ∧
    ∀ s : State, s.resetAsserted = false → (s.link link).received = [] →
      s.receive link (frameBytes k.code tag (bodyOf items)) =
        { s with pending := s.pending ++ [requestCommand k ⟨link, tag⟩ items] }

/-! ### HALTED -/

/-- R190, R187: an answer goes out once, on the link of its request, with the request's tag and the answer kind of its
kind, and frees the link; every other link keeps its request. R190: every answer begins with its outcome item, which
carries the outcome's number; a refusal without content is that item alone, and a FAULT carries the eight bytes of its
report (R199). R199: the EG of a queue entry and the remaining escalation time of a save slot, to which no table gives a
width, are sent in four bytes. -/
def Obligations.AnswerGoesToItsRequest : Prop :=
  (∀ (s : State) (l : Link) (a : Answer) (o : Outstanding), (s.link l).outstanding = some o →
    (s.answer l a).answers = s.answers ++ [⟨l, o.tag, answerKind o.kind.code, a⟩] ∧
    ((s.answer l a).link l).outstanding = none ∧ (∀ m, m ≠ l → (s.answer l a).link m = s.link m) ∧
    (∀ k : Kind, (answerKind k.code).toNat = k.code.toNat + 0x80)) ∧
  (∀ a : Answer, ∃ content, a.items = ⟨0x40, [BitVec.ofNat 8 a.outcome]⟩ :: content ∧ 1 ≤ a.outcome ∧ a.outcome ≤ 46) ∧
  (∀ x ∈ [(Answer.busy, 16), (.unknownRequest, 17), (.malformed, 18), (.notOnThisLink, 19), (.positionClosed, 20),
      (.suspended, 21), (.halted, 22), (.reset, 23), (.noRecord, 24), (.wrongState, 25), (.notOwner, 26),
      (.recordBusy, 27), (.limit, 28), (.tableFull, 29), (.reservationLost, 30), (.denied, 32), (.timedOut, 33),
      (.cancelled, 34), (.noNumbers, 36), (.noEdition, 37), (.tooLate, 38), (.hold, 39), (.notReady, 40),
      (.overlap, 43), (.notIdle, 45), (.optionPresent, 46)],
    x.1.items = [⟨0x40, [BitVec.ofNat 8 x.2]⟩]) ∧
  ∀ (content : Done) (h : Handle) (st : RecordState) (q : Quote) (l : LabelAnswer) (v : RecordView) (m : Bool)
    (part : StatusContent) (c : ClearAnswer) (d : DivertAnswer) (f : FaultReport) (subject : Subject)
    (r : ReportSubject) (bank : BankLetter) (name : BankStateName) (reason : EditionReason) (entry : EditionEntry),
    (Answer.done content).outcome = 1 ∧ (Answer.quote h st q).outcome = 2 ∧ (Answer.label l).outcome = 3 ∧
    (Answer.record v m).outcome = 4 ∧ (Answer.status part).outcome = 5 ∧ (Answer.clear c).outcome = 6 ∧
    (Answer.divert d).outcome = 7 ∧ (Answer.fault f).outcome = 31 ∧ (Answer.withdrawn subject).outcome = 35 ∧
    (Answer.damaged r).outcome = 41 ∧ (Answer.bankState bank name).outcome = 42 ∧
    (Answer.malformedEdition reason entry).outcome = 44 ∧
    (Answer.fault f).items = [⟨0x40, [31]⟩, ⟨0x41, f.bytes⟩] ∧ f.bytes.length = 8 ∧
    (∀ e : QueueEntry, e.item.value = byte1 e.kind.carried.1 ++ handleBytes e.handle ++ byte1 e.requester.code ++
      bytesOfNat 4 e.eg ++ e.kind.carried.2) ∧
    ∀ n : SlotStatus, n.bytes = byte1 n.kind.code ++ bytesOfNat 2 n.tag.toNat ++ byte1 n.needed ++
      bytesOfNat 4 n.remaining

/-- R183: in HALTED every request but STATUS that passes its link checks is answered HALTED, CANCEL with a request
outstanding included, and nothing else changes. R183: in HALTED no command but the two of the reset input changes a
record, bank, pool block, position, unit, queue, countdown, flag or outstanding request; every command answers a next
state. -/
def Obligations.HaltedFreezesTheBlocks : Prop :=
  (∀ (k : Kind) (h : Header) (items : List Item) (s : State), s.halted = true → k ≠ .status →
     (s.Admits k h.link items ∨
       (k = .cancel ∧ s.resetAsserted = false ∧ sortOf h.link = linkSort k ∧ itemsAccepted k items = true)) →
     exec (requestCommand k h items) s = .next (s.send h.link h.tag k.code .halted)) ∧
  (∀ (c : Instr) (s : State), s.halted = true → isReset c = false → ∃ t, exec c s = .next t ∧ s.FrozenAs t)

/-! ### Positions -/

/-- R117, R129, R133: a position request at a CLOSED position is answered POSITION CLOSED, at a SUSPENDED one
SUSPENDED, CANCEL included, and nothing else changes. -/
def Obligations.PositionControlRefuses : Prop :=
  ∀ (k : Kind) (p : PositionNo) (g : Tag) (items : List Item) (s : State), linkSort k = .position →
    s.resetAsserted = false → s.halted = false → itemsAccepted k items = true →
    (s.link (.position p)).outstanding = none ∨ k = .cancel →
    (s.ctx p = .closed →
      exec (requestCommand k ⟨.position p, g⟩ items) s =
        .next (s.send (.position p) g k.code .positionClosed)) ∧
    ∀ (session : Session) (saved : Saved), s.ctx p = .suspended session saved →
      exec (requestCommand k ⟨.position p, g⟩ items) s = .next (s.send (.position p) g k.code .suspended)

/-- R118: OPEN POSITION opens a CLOSED position with the grade and enable it carries, and is refused WRONG STATE at any
other. R119, R177: CLOSE POSITION at an OPEN position reads every live record, each that fails its check damaged and reported
on its own with the supervisor as reader (`NewParcelTakesTheLowestSlot` says what the reading does), and is judged on the
records so found: the position is closed where it owns no PRINTING record that passes its check, else the answer is NOT IDLE.
WRONG STATE at a CLOSED position, NOT IDLE at any other, with nothing read. -/
def Obligations.OpenAndClosePosition : Prop :=
  (∀ (g : Tag) (items : List Item) (s : State) (p : PositionNo) (grade : Nat) (enable : Bool),
     s.Serves .openPosition .supervisor items → positionOf items = some p → gradeOf items = some grade →
     escalationEnableOf items = some enable →
     (s.ctx p = .closed →
       exec (.openPosition ⟨.supervisor, g⟩ items) s =
         .next ((s.setCtx p (.opened ⟨grade, enable⟩ none)).judge.send .supervisor g Kind.openPosition.code
           (.done .plain))) ∧
     (s.ctx p ≠ .closed →
       exec (.openPosition ⟨.supervisor, g⟩ items) s =
         .next (s.send .supervisor g Kind.openPosition.code .wrongState))) ∧
  (∀ (g : Tag) (items : List Item) (s : State) (p : PositionNo),
     s.Serves .closePosition .supervisor items → positionOf items = some p →
     (s.ctx p = .closed →
       exec (.closePosition ⟨.supervisor, g⟩ items) s =
         .next (s.send .supervisor g Kind.closePosition.code .wrongState)) ∧
     (∀ session res t, s.ctx p = .opened session res → s.canonical = true ∨ s.RecordsSound →
       t = s.readAll .supervisor →
       ((∃ c ∈ s.table.records.cells, c.2.sound = true ∧ c.2.owner = p ∧ c.2.body.isPrinting = true) →
         exec (.closePosition ⟨.supervisor, g⟩ items) s =
           .next (t.judge.send .supervisor g Kind.closePosition.code .notIdle)) ∧
       ((∀ c ∈ s.table.records.cells, c.2.sound = true → c.2.owner = p → c.2.body.isPrinting = false) →
         exec (.closePosition ⟨.supervisor, g⟩ items) s =
           .next ((t.setCtx p .closed).judge.send .supervisor g Kind.closePosition.code (.done .plain)))) ∧
     (s.ctx p ≠ .closed → (∀ session res, s.ctx p ≠ .opened session res) →
       exec (.closePosition ⟨.supervisor, g⟩ items) s =
         .next (s.send .supervisor g Kind.closePosition.code .notIdle)))

/-- R120: RESET POSITION changes nothing at a CLOSED position; at any other the position becomes CLOSED, its
outstanding request is answered RESET, its queue entry goes with the record's mark, its running job is discarded, and
records are otherwise untouched. -/
def Obligations.ResetPositionClosesAnyState : Prop :=
  ∀ (g : Tag) (items : List Item) (s : State) (p : PositionNo),
    s.Serves .resetPosition .supervisor items → positionOf items = some p →
    (s.ctx p = .closed →
      exec (.resetPosition ⟨.supervisor, g⟩ items) s =
        .next (s.send .supervisor g Kind.resetPosition.code (.done .plain))) ∧
    (s.ctx p ≠ .closed → ∃ t, exec (.resetPosition ⟨.supervisor, g⟩ items) s = .next t ∧ t.ctx p = .closed ∧
      (∀ q, q ≠ p → t.ctx q = s.ctx q) ∧ (t.link (.position p)).outstanding = none ∧
      (∀ l, l ≠ .position p → t.link l = s.link l) ∧ t.attention.enabled = s.attention.enabled ∧
      t.answers = s.answers ++
        ((s.link (.position p)).outstanding.toList.map fun o =>
          ⟨.position p, o.tag, answerKind o.kind.code, .reset⟩) ++
        [⟨.supervisor, g, answerKind Kind.resetPosition.code, .done .plain⟩] ∧
      t.queue = s.queue.filter (fun e => e.requester != .position p) ∧
      t.table = (match s.entryOf (.position p) with
        | some e => (s.markQueued e.handle.slot false).table
        | none => s.table) ∧
      (∀ u, t.unit u = (if s.runningOf (.position p) = some u then
        (s.unit u).map fun j => { j with discarded := true } else s.unit u)) ∧
      t.bankA = s.bankA ∧ t.bankB = s.bankB ∧ t.pool = s.pool ∧ t.grantState = s.grantState ∧
      t.pendingReweigh = s.pendingReweigh ∧ t.integrity = s.integrity ∧ t.hallTime = s.hallTime ∧
      t.timers = s.timers)

/-- R128: DENY is answered HALTED, SUSPENDED or WRONG STATE as GRANT is; else the saved request is answered DENIED, the
slot emptied and the position OPEN, with no record changed. R125: with the countdown of an ESCALATED position at 0 the
saved request is answered TIMED OUT and the position is OPEN; with time left, or in any other state, nothing is taken
(log entry 2). -/
def Obligations.DenyAndTimeoutEndTheEscalation : Prop :=
  (∀ (g : Tag) (items : List Item) (s : State) (p : PositionNo),
     s.Admits .deny .supervisor items → positionOf items = some p →
     (s.halted = true →
       exec (.deny ⟨.supervisor, g⟩ items) s = .next (s.send .supervisor g Kind.deny.code .halted)) ∧
     (s.halted = false → ∀ session saved, s.ctx p = .suspended session saved →
       exec (.deny ⟨.supervisor, g⟩ items) s = .next (s.send .supervisor g Kind.deny.code .suspended)) ∧
     (s.halted = false → (∀ session slot, s.ctx p ≠ .escalated session slot) →
       (∀ session saved, s.ctx p ≠ .suspended session saved) →
       exec (.deny ⟨.supervisor, g⟩ items) s = .next (s.send .supervisor g Kind.deny.code .wrongState)) ∧
     (s.halted = false → ∀ session slot, s.ctx p = .escalated session slot →
       exec (.deny ⟨.supervisor, g⟩ items) s =
         .next (((s.answer (.position p) .denied).setCtx p (.opened session none)).judge.send .supervisor g
           Kind.deny.code (.done .plain)))) ∧
  (∀ (s : State) (p : PositionNo), s.Live →
     (∀ session slot, s.ctx p = .escalated session slot → slot.remaining = 0 →
       exec (.escalationTimeout p) s =
         .next ((s.answer (.position p) .timedOut).setCtx p (.opened session none)).judge) ∧
     ((∀ session slot, s.ctx p = .escalated session slot → 0 < slot.remaining) →
       exec (.escalationTimeout p) s = .next s))

/-- R129: CANCEL by the state of its position: WRONG STATE at OPEN; BUSY where the job runs; CANCELLED and DONE where
the entry is queued or the request escalated. R129 does not say which of these two answers, both on the position's link,
leaves first: that the request's CANCELLED goes before CANCEL's DONE is the model's choice (log entry 15). -/
def Obligations.CancelByPositionState : Prop :=
  ∀ (g : Tag) (items : List Item) (s : State) (p : PositionNo), s.resetAsserted = false → s.halted = false →
    itemsAccepted .cancel items = true →
    (∀ session res, s.ctx p = .opened session res →
      exec (.cancel ⟨.position p, g⟩ items) s = .next (s.send (.position p) g Kind.cancel.code .wrongState)) ∧
    (∀ session pend res request, s.ctx p = .working session pend res request →
      (∀ e ∈ s.queue, e.requester ≠ .position p) →
      exec (.cancel ⟨.position p, g⟩ items) s = .next (s.send (.position p) g Kind.cancel.code .busy)) ∧
    (∀ session pend res request e, s.ctx p = .working session pend res request →
      s.entryOf (.position p) = some e →
      exec (.cancel ⟨.position p, g⟩ items) s =
        .next ((((State.markQueued { s with queue := s.queue.filter fun x => x.requester != .position p }
          e.handle.slot false).answer (.position p) .cancelled).setCtx p
          (if pend then .suspended session .opened else .opened session res)).send (.position p) g
          Kind.cancel.code (.done .plain)).judge) ∧
    (∀ session slot, s.ctx p = .escalated session slot →
      exec (.cancel ⟨.position p, g⟩ items) s =
        .next (((s.answer (.position p) .cancelled).setCtx p (.opened session none)).send (.position p) g
          Kind.cancel.code (.done .plain)).judge)

/-- R131: SUSPEND by the state of its position. A countdown already at 0 is kept with 1 s (log entry 12); this
statement takes a countdown with time left. R134: RESUME by the state of its position. -/
def Obligations.SuspendAndResumeByState : Prop :=
  (∀ (g : Tag) (items : List Item) (s : State) (p : PositionNo),
     s.Serves .suspend .supervisor items → positionOf items = some p →
     (∀ session res, s.ctx p = .opened session res →
       exec (.suspend ⟨.supervisor, g⟩ items) s =
         .next ((s.setCtx p (.suspended session .opened)).judge.send .supervisor g Kind.suspend.code
           (.done .suspended))) ∧
     (∀ session slot, s.ctx p = .escalated session slot → 0 < slot.remaining →
       exec (.suspend ⟨.supervisor, g⟩ items) s =
         .next ((s.setCtx p (.suspended session (.escalated slot))).judge.send .supervisor g Kind.suspend.code
           (.done .suspended))) ∧
     (∀ session pend res request, s.ctx p = .working session pend res request →
       exec (.suspend ⟨.supervisor, g⟩ items) s =
         .next ((s.setCtx p (.working session true res request)).judge.send .supervisor g Kind.suspend.code
           (.done .suspendPending))) ∧
     (∀ session saved, s.ctx p = .suspended session saved ∨ s.ctx p = .closed →
       exec (.suspend ⟨.supervisor, g⟩ items) s =
         .next (s.send .supervisor g Kind.suspend.code .wrongState))) ∧
  (∀ (g : Tag) (items : List Item) (s : State) (p : PositionNo),
     s.Serves .resume .supervisor items → positionOf items = some p →
     (∀ session, s.ctx p = .suspended session .opened →
       exec (.resume ⟨.supervisor, g⟩ items) s =
         .next ((s.setCtx p (.opened session none)).judge.send .supervisor g Kind.resume.code (.done .plain))) ∧
     (∀ session slot, s.ctx p = .suspended session (.escalated slot) →
       exec (.resume ⟨.supervisor, g⟩ items) s =
         .next ((s.setCtx p (.escalated session slot)).judge.send .supervisor g Kind.resume.code (.done .plain))) ∧
     (∀ session res request, s.ctx p = .working session true res request →
       exec (.resume ⟨.supervisor, g⟩ items) s =
         .next ((s.setCtx p (.working session false res request)).judge.send .supervisor g Kind.resume.code
           (.done .plain))) ∧
     ((∀ session saved, s.ctx p ≠ .suspended session saved) →
       (∀ session res request, s.ctx p ≠ .working session true res request) →
       exec (.resume ⟨.supervisor, g⟩ items) s =
         .next (s.send .supervisor g Kind.resume.code .wrongState)))

/-- R126: GRANT's checks 3 to 5 in order: SUSPENDED, WRONG STATE, MALFORMED above the needed grade; nothing else
changes. R127: a GRANT at or below the needed grade re-executes the saved request as a new taking at the granted grade,
with its tag, its items and its saved reservation copy, and is answered DONE in the same step. A saved RATE that the fresh
checks refuse is answered at once NO RECORD, RECORD BUSY, DAMAGED, NOT OWNER, WRONG STATE, NO EDITION or RESET, the position
OPEN. R126: a GRANT at or
below the needed grade of a saved RATE whose record is an unmarked DRAFT of the position joins the queue at the granted
grade: the position is WORKING on the same request, still outstanding, and GRANT is answered DONE. -/
def Obligations.GrantReexecutesTheRequest : Prop :=
  (∀ (g : Tag) (items : List Item) (s : State) (p : PositionNo) (grade : Nat),
     s.Serves .grant .supervisor items → positionOf items = some p → gradeOf items = some grade →
     (∀ session saved, s.ctx p = .suspended session saved →
       exec (.grant ⟨.supervisor, g⟩ items) s = .next (s.send .supervisor g Kind.grant.code .suspended)) ∧
     ((∀ session slot, s.ctx p ≠ .escalated session slot) → (∀ session saved, s.ctx p ≠ .suspended session saved) →
       exec (.grant ⟨.supervisor, g⟩ items) s = .next (s.send .supervisor g Kind.grant.code .wrongState)) ∧
     (∀ session slot, s.ctx p = .escalated session slot → slot.needed < grade →
       exec (.grant ⟨.supervisor, g⟩ items) s = .next (s.send .supervisor g Kind.grant.code .malformed))) ∧
  ((∀ (g : Tag) (items : List Item) (s : State) (p : PositionNo) (grade : Nat) (session : Session) (slot : NormalSlot)
     (t : State),
     s.Serves .grant .supervisor items → positionOf items = some p → gradeOf items = some grade →
     s.ctx p = .escalated session slot → grade ≤ slot.needed →
     ((slot.request.kind = .rate ∧ rateRequest p session none grade slot.request.tag slot.request.items
         ((s.hold .supervisor .grant g).setCtx p (.opened session none)) = .next t) ∨
       (slot.request.kind = .commit ∧ commitRequest p session grade slot.request.tag slot.request.items
         ((s.hold .supervisor .grant g).setCtx p (.opened session none)) = .next t) ∨
       (slot.request.kind = .amend ∧ amendRequest p session slot.request.copy grade slot.request.tag slot.request.items
         ((s.hold .supervisor .grant g).setCtx p (.opened session none)) = .next t) ∨
       (slot.request.kind = .void ∧ voidRequest p session slot.request.copy grade slot.request.tag slot.request.items
         ((s.hold .supervisor .grant g).setCtx p (.opened session none)) = .next t)) →
     exec (.grant ⟨.supervisor, g⟩ items) s = .next (t.answer .supervisor (.done .plain)).judge) ∧
   (∀ (g : Tag) (items : List Item) (s : State) (p : PositionNo) (grade : Nat) (session : Session) (slot : NormalSlot)
     (hd : Handle) (a : Answer),
     s.Serves .grant .supervisor items → positionOf items = some p → gradeOf items = some grade →
     s.ctx p = .escalated session slot → grade ≤ slot.needed → slot.request.kind = .rate →
     handleOf slot.request.items = some hd →
     ((s.find hd = none ∧ a = .noRecord) ∨
       ∃ r, s.Finds hd r ∧
         ((r.busy = true ∨ r.queued = true) ∧ a = .recordBusy ∨
           (r.busy = false ∧ r.queued = false ∧
             ((∃ l, r.body = .damaged l) ∧ a = .damaged (.record hd) ∨
               ((∀ l, r.body ≠ .damaged l) ∧ r.owner ≠ p ∧ a = .notOwner) ∨
               (r.owner = p ∧
                 (r.body.name ∈ [.printing, .labelled, .held] ∧ a = .wrongState ∨
                   (r.body.name ∈ [.draft, .rated] ∧
                     (s.activeBank = none ∧ a = .noEdition ∨
                       (s.activeBank ≠ none ∧ s.draining = true ∧ a = .reset))))))))) →
     exec (.grant ⟨.supervisor, g⟩ items) s =
       .next (((s.setCtx p (.opened session none)).answer (.position p) a).send .supervisor g Kind.grant.code
         (.done .plain)).judge) ∧
   ∀ (g : Tag) (items : List Item) (s : State) (p : PositionNo) (grade : Nat) (session : Session) (slot : NormalSlot)
     (hd : Handle) (r : Rec) (e : Entered),
     s.Serves .grant .supervisor items → positionOf items = some p → gradeOf items = some grade →
     s.ctx p = .escalated session slot → grade ≤ slot.needed → slot.request.kind = .rate →
     handleOf slot.request.items = some hd → s.Finds hd r → r.busy = false → r.queued = false → r.owner = p →
     r.body = .draft e → s.activeBank ≠ none → s.draining = false →
     exec (.grant ⟨.supervisor, g⟩ items) s =
       .next ((((State.putRecord { s with queue := s.queue ++ [⟨.rate, hd, .position p, grade⟩] } hd.slot
         { r with queued := true }).setCtx p
         (.working session false none ⟨.rate, slot.request.tag, slot.request.items, none⟩)).send .supervisor g
         Kind.grant.code (.done .plain)).judge))

/-- R123, R132: with the enable set an escalation fills the normal save slot with the request, the needed grade and the
timeout setting, sends no answer and makes the position ESCALATED, or SUSPENDED over it where a suspension is pending;
with the enable clear the request is answered with the fault report. -/
def Obligations.EscalationFillsTheSlot : Prop :=
  ∀ (s : State) (p : PositionNo) (grade needed : Nat) (pend : Bool) (request : HeldRequest) (report : FaultReport),
    s.escalate p ⟨grade, true⟩ pend request needed report =
      s.setCtx p (if pend then
          .suspended ⟨grade, true⟩ (.escalated ⟨request, needed, s.timers.escalationTimeout⟩)
        else .escalated ⟨grade, true⟩ ⟨request, needed, s.timers.escalationTimeout⟩) ∧
    ∀ o, (s.link (.position p)).outstanding = some o →
      (s.escalate p ⟨grade, false⟩ pend request needed report).answers =
        s.answers ++ [⟨.position p, o.tag, answerKind o.kind.code, .fault report⟩] ∧
      ((s.escalate p ⟨grade, false⟩ pend request needed report).link (.position p)).outstanding = none

/-! ### Records -/

/-- R82, R3, R22, R177: NEW PARCEL reads every live record and is judged on the counts so found, a failing record counted as
DAMAGED: LIMIT at eight records in hand that pass their checks, TABLE FULL with no free slot, else a DRAFT record in the
lowest free slot with the slot's generation, and its handle in DONE. R177, R178, R17, what the reading of every live record
does: with every record passing nothing; else each that fails is damaged and reported on its own with the reader's name, the
reading going on to the next; a record that passes, and one that is DAMAGED already, stays; a failing one becomes DAMAGED and
stands outside both counts; slots, generations and the label index stay. What damage does to a job or an entry is stated by
`DamageOfARecord`, what a report does by `ReportsMoveTheIntegrityState`. That the lowest slot is read first is the model's
choice (log entry 9). -/
def Obligations.NewParcelTakesTheLowestSlot : Prop :=
  (∀ (g : Tag) (items : List Item) (s t : State) (p : PositionNo) (session : Session) (res : Option Reservation) (n : Nat),
    s.ServesAt .newParcel p items session res → s.canonical = true ∨ s.RecordsSound →
    n = s.table.records.cells.countP (fun c =>
      c.2.sound && (c.2.owner == p && (c.2.body.isOpen || c.2.body.isPrinting))) →
    t = (s.hold (.position p) .newParcel g).readAll (.position p) →
    (8 ≤ n → exec (.newParcel ⟨.position p, g⟩ items) s = .next (t.answer (.position p) .limit).judge) ∧
    (n < 8 → (∀ m, m < 4096 → s.record m ≠ none) →
      exec (.newParcel ⟨.position p, g⟩ items) s = .next (t.answer (.position p) .tableFull).judge) ∧
    ∀ slot, n < 8 → slot < 4096 → s.record slot = none → (∀ m, m < slot → s.record m ≠ none) →
      exec (.newParcel ⟨.position p, g⟩ items) s =
        .next ((t.putRecord slot ⟨p, 0, false, false, true,
          .draft ⟨s.hallTime, none, none, none, none, none, none, []⟩⟩).answer (.position p)
          (.done (.parcel ⟨slot, s.generation slot⟩))).judge) ∧
  (∀ (s : State) (reader : Reader), s.RecordsSound → s.readAll reader = s) ∧
  ∀ (s t : State) (reader : Reader), s.canonical = true → t = s.readAll reader →
    t = (s.table.records.cells.filter fun c => !c.2.sound).foldl (fun u c =>
      (u.damageRecord c.1 c.2 (.record (s.handleAt c.1))).report (.record (s.handleAt c.1)) reader) s ∧
    (∀ m, s.record m = none → t.record m = none) ∧
    (∀ m r, s.record m = some r →
      (r.sound = true ∨ (∃ l, r.body = .damaged l) → t.record m = some r) ∧
      (r.sound = false → (∀ l, r.body ≠ .damaged l) →
        t.record m =
          some ⟨r.owner, (r.changeCount + 1) % 65536, false, false, true, .damaged r.body.label⟩)) ∧
    t.table.generations = s.table.generations ∧ t.table.index = s.table.index ∧
    ∀ p, t.ownedInHand p = s.table.records.cells.countP (fun c =>
        c.2.sound && (c.2.owner == p && (c.2.body.isOpen || c.2.body.isPrinting))) ∧
      t.owned p RecordBody.isPrinting = s.table.records.cells.countP (fun c =>
        c.2.sound && (c.2.owner == p && c.2.body.isPrinting))

/-- R83 to R85: SET ATTRIBUTES by the owner of an unbusy DRAFT or RATED record: MALFORMED unless the attribute items are as
R83 requires; OPTION PRESENT and LIMIT by the candidate options (R84); else the items are written as one change, and a
RATED record returns to DRAFT with its pin released (R13). Each item writes its own attribute, an attribute no item carries
stays, and the options become the candidate list. R94, R95, R15: PRINTED naming the serial of a PRINTING record of the
position makes it LABELLED and releases its pin; SPOILT returns it to RATED, or to DRAFT with its pin released where its
bank's grace has expired; both are answered TOO LATE where the record is not PRINTING with that serial. That neither
reads the label index entry of the serial is the model's choice (log entry 34). The TOO LATE clauses hold for busy records too, R18 saying that the mark does not refuse PRINTED and SPOILT (log entry 6). R96, R15: the expiry of a
print deadline at 0 returns the PRINTING record to RATED, or to DRAFT after grace, without an answer; with time left
nothing is taken (log entry 2). R177, R178, R17: where the read of the record fails at the expiry, it is damaged and reported
with PRINT DEADLINE as reader instead, without an answer; a PRINTING record with neither job nor entry, as R18 has it, becomes
DAMAGED with its label kept and its pin released. -/
def Obligations.AttributesAndPrintEnds : Prop :=
  (∀ (g : Tag) (items : List Item) (s : State) (p : PositionNo) (session : Session) (res : Option Reservation)
     (hd : Handle) (r : Rec) (e : Entered),
     s.ServesAt .setAttributes p items session res → handleOf items = some hd → s.Finds hd r → r.busy = false →
     r.owner = p → r.body.openEntries = some e →
     (attributeItemsOk items = false →
       exec (.setAttributes ⟨.position p, g⟩ items) s =
         .next (s.send (.position p) g Kind.setAttributes.code .malformed)) ∧
     (attributeItemsOk items = true → hasRepeat (candidateOptions items e.options) = true →
       exec (.setAttributes ⟨.position p, g⟩ items) s =
         .next (s.send (.position p) g Kind.setAttributes.code .optionPresent)) ∧
     (attributeItemsOk items = true → hasRepeat (candidateOptions items e.options) = false →
       4 < (candidateOptions items e.options).length →
       exec (.setAttributes ⟨.position p, g⟩ items) s =
         .next (s.send (.position p) g Kind.setAttributes.code .limit)) ∧
     (attributeItemsOk items = true → hasRepeat (candidateOptions items e.options) = false →
       (candidateOptions items e.options).length ≤ 4 →
       (r.body = .draft e →
         exec (.setAttributes ⟨.position p, g⟩ items) s =
           .next ((s.putRecord hd.slot { r with
             changeCount := (r.changeCount + 1) % 65536, sound := true,
             body := .draft (writeAttributes items e) }).judge.send (.position p) g Kind.setAttributes.code
             (.done (.changed hd .draft ((r.changeCount + 1) % 65536))))) ∧
       (∀ q, r.body = .rated e q →
         exec (.setAttributes ⟨.position p, g⟩ items) s =
           .next (((s.putRecord hd.slot { r with
             changeCount := (r.changeCount + 1) % 65536, sound := true,
             body := .draft (writeAttributes items e) }).releasePin q.bank).judge.send (.position p) g
             Kind.setAttributes.code (.done (.changed hd .draft ((r.changeCount + 1) % 65536))))))) ∧
  (∀ items : List Item, attributeItemsOk items = true ↔
     (∃ i ∈ items, isAttributeItem i = true) ∧ (∀ i ∈ items, isAttributeItem i = true → attributeInRange i = true) ∧
       (∀ c ∈ [0x05, 0x06, 0x07, 0x08, 0x09, 0x0A, 0x0C], codeCount c items ≤ 1) ∧ codeCount 0x0B items ≤ 4) ∧
  (∀ n a b c : Nat,
     (attributeInRange (.serviceCode n) = true ↔ 1 ≤ n ∧ n ≤ 999) ∧
     (attributeInRange (.destination n) = true ↔ n ≤ 10999) ∧
     (attributeInRange (.mass n) = true ↔ 1 ≤ n ∧ n ≤ 40000) ∧
     (attributeInRange (.sides a b c) = true ↔ ∀ x ∈ [a, b, c], 10 ≤ x ∧ x ≤ 2000) ∧
     (attributeInRange (.declaredValue n) = true ↔ n ≤ 5000000) ∧
     (attributeInRange (.contentCategory n) = true ↔ 1 ≤ n ∧ n ≤ 9) ∧
     (attributeInRange (.addOption n) = true ↔ 1 ≤ n ∧ n ≤ 999) ∧ attributeInRange .clearOptions = true) ∧
  (∀ (items : List Item) (e : Entered), attributeItemsOk items = true →
     (∀ n, .serviceCode n ∈ items → (writeAttributes items e).serviceCode = some n) ∧
     (∀ n, .destination n ∈ items → (writeAttributes items e).destination = some n) ∧
     (∀ n, .mass n ∈ items → (writeAttributes items e).mass = some n) ∧
     (∀ a b c, .sides a b c ∈ items → (writeAttributes items e).sides = some ⟨a, b, c⟩) ∧
     (∀ n, .declaredValue n ∈ items → (writeAttributes items e).declaredValue = some n) ∧
     (∀ n, .contentCategory n ∈ items → (writeAttributes items e).contentCategory = some n) ∧
     ((∀ n, .serviceCode n ∉ items) → (writeAttributes items e).serviceCode = e.serviceCode) ∧
     ((∀ n, .destination n ∉ items) → (writeAttributes items e).destination = e.destination) ∧
     ((∀ n, .mass n ∉ items) → (writeAttributes items e).mass = e.mass) ∧
     ((∀ a b c, .sides a b c ∉ items) → (writeAttributes items e).sides = e.sides) ∧
     ((∀ n, .declaredValue n ∉ items) → (writeAttributes items e).declaredValue = e.declaredValue) ∧
     ((∀ n, .contentCategory n ∉ items) → (writeAttributes items e).contentCategory = e.contentCategory) ∧
     (writeAttributes items e).options = candidateOptions items e.options ∧
     (writeAttributes items e).openedAt = e.openedAt) ∧
  (∀ (g : Tag) (items : List Item) (s : State) (p : PositionNo) (session : Session) (res : Option Reservation)
     (hd : Handle) (r : Rec),
     handleOf items = some hd → s.Finds hd r → r.owner = p →
     (s.ServesAt .printed p items session res →
       (∀ e q l d, r.body = .printing e q l d → serialOf items = some l.serial →
         exec (.printed ⟨.position p, g⟩ items) s =
           .next (((s.putRecord hd.slot { r with
             changeCount := (r.changeCount + 1) % 65536, sound := true,
             body := .labelled e q l 0 none }).releasePin q.bank).judge.send (.position p) g Kind.printed.code
             (.done .plain))) ∧
       (∀ e q l d, r.body = .printing e q l d → serialOf items ≠ some l.serial →
         exec (.printed ⟨.position p, g⟩ items) s =
           .next (s.send (.position p) g Kind.printed.code .tooLate)) ∧
       (r.body.isPrinting = false → (∀ l, r.body ≠ .damaged l) →
         exec (.printed ⟨.position p, g⟩ items) s =
           .next (s.send (.position p) g Kind.printed.code .tooLate))) ∧
     (s.ServesAt .spoilt p items session res →
       (∀ e q l d, r.body = .printing e q l d → serialOf items = some l.serial → s.graceExpired q.bank = false →
         exec (.spoilt ⟨.position p, g⟩ items) s =
           .next (((s.eraseIndex l.serial).putRecord hd.slot { r with
             changeCount := (r.changeCount + 1) % 65536, sound := true,
             body := .rated e q }).judge.send (.position p) g Kind.spoilt.code (.done (.state .rated)))) ∧
       (∀ e q l d, r.body = .printing e q l d → serialOf items = some l.serial → s.graceExpired q.bank = true →
         exec (.spoilt ⟨.position p, g⟩ items) s =
           .next ((((s.eraseIndex l.serial).putRecord hd.slot { r with
             changeCount := (r.changeCount + 1) % 65536, sound := true,
             body := .draft e }).releasePin q.bank).judge.send (.position p) g Kind.spoilt.code
             (.done (.state .draft)))) ∧
       (∀ e q l d, r.body = .printing e q l d → serialOf items ≠ some l.serial →
         exec (.spoilt ⟨.position p, g⟩ items) s =
           .next (s.send (.position p) g Kind.spoilt.code .tooLate)) ∧
       (r.body.isPrinting = false → (∀ l, r.body ≠ .damaged l) →
         exec (.spoilt ⟨.position p, g⟩ items) s =
           .next (s.send (.position p) g Kind.spoilt.code .tooLate)))) ∧
  (∀ (s : State) (slot : Nat) (r : Rec) (e : Entered) (q : Quote) (l : Label) (d : Nat), s.Live →
     s.record slot = some r → r.sound = true → r.body = .printing e q l d →
     (d = 0 → s.graceExpired q.bank = false →
       exec (.printDeadlineExpiry slot) s =
         .next ((s.eraseIndex l.serial).putRecord slot { r with
           changeCount := (r.changeCount + 1) % 65536, sound := true, body := .rated e q }).judge) ∧
     (d = 0 → s.graceExpired q.bank = true →
       exec (.printDeadlineExpiry slot) s =
         .next (((s.eraseIndex l.serial).putRecord slot { r with
           changeCount := (r.changeCount + 1) % 65536, sound := true,
           body := .draft e }).releasePin q.bank).judge) ∧
     (0 < d → exec (.printDeadlineExpiry slot) s = .next s)) ∧
  (∀ (s : State) (slot : Nat) (r : Rec) (e : Entered) (q : Quote) (l : Label), s.Live →
     s.record slot = some r → r.sound = false → r.body = .printing e q l 0 →
     exec (.printDeadlineExpiry slot) s =
       .next ((s.damageRecord slot r (.record (s.handleAt slot))).report (.record (s.handleAt slot))
         .printDeadline).judge ∧
     (s.unitOn (s.handleAt slot) = none → (∀ y ∈ s.queue, y.handle ≠ s.handleAt slot) →
       exec (.printDeadlineExpiry slot) s =
         .next (((s.putRecord slot ⟨r.owner, (r.changeCount + 1) % 65536, false, false, true,
           .damaged (some l)⟩).releasePin q.bank).report (.record (s.handleAt slot)) .printDeadline).judge))

/-- R86, R68, R122: a RATE by the owner of an unmarked DRAFT record joins the queue at its EG: the record is queued,
the position WORKING, the request outstanding and unanswered; NO EDITION with no bank ACTIVE, and RESET during a drain.
A RATED record first returns to DRAFT. -/
def Obligations.RateJoinsTheQueue : Prop :=
  ∀ (g : Tag) (items : List Item) (s : State) (p : PositionNo) (session : Session) (res : Option Reservation)
    (hd : Handle) (r : Rec) (e : Entered),
    s.ServesAt .rate p items session res → handleOf items = some hd → s.Finds hd r → r.busy = false →
    r.queued = false → r.owner = p →
    (r.body = .draft e → s.activeBank ≠ none → s.draining = false →
      exec (.rate ⟨.position p, g⟩ items) s =
        .next ((State.putRecord { s.hold (.position p) .rate g with
            queue := s.queue ++ [⟨.rate, hd, .position p, max session.grade ((statedGradeOf items).getD 0)⟩] }
          hd.slot { r with queued := true }).setCtx p
          (.working session false res ⟨.rate, g, items, none⟩)).judge) ∧
    (∀ q, r.body = .rated e q → s.activeBank ≠ none → s.draining = false →
      exec (.rate ⟨.position p, g⟩ items) s =
        .next ((((s.hold (.position p) .rate g).toDraft hd.slot r e).join
          ⟨.rate, hd, .position p, max session.grade ((statedGradeOf items).getD 0)⟩).setCtx p
          (.working session false res ⟨.rate, g, items, none⟩)).judge) ∧
    (r.body.openEntries = some e → s.activeBank = none →
      exec (.rate ⟨.position p, g⟩ items) s = .next (s.send (.position p) g Kind.rate.code .noEdition)) ∧
    (r.body.openEntries = some e → s.activeBank ≠ none → s.draining = true →
      exec (.rate ⟨.position p, g⟩ items) s = .next (s.send (.position p) g Kind.rate.code .reset))

/-- R88 to R92, R14, R141: a COMMIT of an unbusy RATED record by its owner, its service still present, no clearance
needed, the pool holding a serial and the zone place sound, makes the record PRINTING with its label, adds the index
entry, draws the serial and answers LABEL. R144: the label number of LABEL is twelve characters. R89 to R91: a COMMIT of an
unbusy RATED record by its owner that fails a check: WITHDRAWN with the record back in DRAFT and its pin released, the
entry marked and reported where its read failed; an escalation with needed grade 1, or with the enable clear FAULT GRADE with
needed grade 1 and the record as it was (its subject is the free value of log entry 10); NO NUMBERS with an empty pool and the
record as it was; DAMAGED where the zone lookup meets a damaged place or a failing read, the record as it was. -/
def Obligations.CommitIssuesALabelOrRefuses : Prop :=
  (∀ (g : Tag) (items : List Item) (s : State) (p : PositionNo) (session : Session) (res : Option Reservation)
     (hd : Handle) (r : Rec) (e : Entered) (q : Quote) (service : Service) (z : Zone) (b : Block) (rest : List Block),
     s.ServesAt .commit p items session res → handleOf items = some hd → s.Finds hd r → r.busy = false →
     r.owner = p → r.body = .rated e q → recheck (s.bank q.bank) (e.serviceCode.getD 0) = .ok service →
     (service.customs = false ∨ e.declaredValue.getD 0 < (s.bank q.bank).parameters.customsThreshold ∨
       max session.grade ((statedGradeOf items).getD 0) ≤ 1) →
     s.pool.blocks = b :: rest → lookupZone (s.bank q.bank) (e.destination.getD 0) = .ok z →
     exec (.commit ⟨.position p, g⟩ items) s =
       .next ((State.putRecord (State.putIndex { s with pool := { s.pool with
             blocks := if b.next = b.last then rest else { b with next := b.next + 1 } :: rest } }
           b.next ⟨hd.slot, false, true⟩)
         hd.slot { r with
           changeCount := (r.changeCount + 1) % 65536, sound := true,
           body := .printing e q ⟨service.letters, b.next, checkCharacter b.next, z.sortCode, s.hallTime⟩
             s.timers.printDeadline }).judge.send (.position p) g Kind.commit.code
         (.label ⟨Label.number ⟨service.letters, b.next, checkCharacter b.next, z.sortCode, s.hallTime⟩, e.serviceCode,
           q.zone, z.sortCode, q.chargeable, q.total, q.edition, p, s.hallTime⟩))) ∧
  (∀ (l : Label) (d1 d2 d3 d4 d5 d6 d7 d8 d9 : Nat), (∀ d ∈ [d1, d2, d3, d4, d5, d6, d7, d8, d9], d < 10) →
     l.serial = d1 * 100000000 + d2 * 10000000 + d3 * 1000000 + d4 * 100000 + d5 * 10000 + d6 * 1000 + d7 * 100 +
       d8 * 10 + d9 →
     l.number = ([l.letters.1, l.letters.2] ++ [d1, d2, d3, d4, d5, d6, d7, d8, d9].map (48 + ·) ++
       [if l.check < 10 then 48 + l.check else 88]).map (BitVec.ofNat 8) ∧ l.number.length = 12) ∧
  (∀ (g : Tag) (items : List Item) (s : State) (p : PositionNo) (session : Session) (res : Option Reservation)
     (hd : Handle) (r : Rec) (e : Entered) (q : Quote),
     s.ServesAt .commit p items session res → handleOf items = some hd → s.Finds hd r → r.busy = false →
     r.owner = p → r.body = .rated e q →
     (∀ subject, recheck (s.bank q.bank) (e.serviceCode.getD 0) = .error ⟨subject, none⟩ →
       exec (.commit ⟨.position p, g⟩ items) s =
         .next (((s.putRecord hd.slot { r with
           changeCount := (r.changeCount + 1) % 65536, sound := true, body := .draft e }).releasePin
           q.bank).judge.send (.position p) g Kind.commit.code (.withdrawn subject))) ∧
     (∀ service, recheck (s.bank q.bank) (e.serviceCode.getD 0) = .ok service → service.customs = true →
       (s.bank q.bank).parameters.customsThreshold ≤ e.declaredValue.getD 0 →
       1 < max session.grade ((statedGradeOf items).getD 0) → session.escalation = true →
       exec (.commit ⟨.position p, g⟩ items) s =
         .next ((s.hold (.position p) .commit g).setCtx p
           (.escalated session ⟨⟨.commit, g, items, none⟩, 1, s.timers.escalationTimeout⟩)).judge) ∧
     (∀ service, recheck (s.bank q.bank) (e.serviceCode.getD 0) = .ok service → service.customs = true →
       (s.bank q.bank).parameters.customsThreshold ≤ e.declaredValue.getD 0 →
       1 < max session.grade ((statedGradeOf items).getD 0) → session.escalation = false →
       exec (.commit ⟨.position p, g⟩ items) s =
         .next (s.judge.send (.position p) g Kind.commit.code
           (.fault ⟨.grade, Config.gradeRefusalSubject Kind.commit.code.toNat,
             some (1, max session.grade ((statedGradeOf items).getD 0))⟩))) ∧
     (∀ service, recheck (s.bank q.bank) (e.serviceCode.getD 0) = .ok service →
       (service.customs = false ∨ e.declaredValue.getD 0 < (s.bank q.bank).parameters.customsThreshold ∨
         max session.grade ((statedGradeOf items).getD 0) ≤ 1) →
       s.pool.blocks = [] →
       exec (.commit ⟨.position p, g⟩ items) s =
         .next (s.send (.position p) g Kind.commit.code .noNumbers)) ∧
     (∀ subject entry, recheck (s.bank q.bank) (e.serviceCode.getD 0) = .error ⟨subject, some entry⟩ →
       exec (.commit ⟨.position p, g⟩ items) s =
         .next ((((s.failBankEntry q.bank entry (.position p) none).putRecord hd.slot { r with
           changeCount := (r.changeCount + 1) % 65536, sound := true, body := .draft e }).releasePin
           q.bank).judge.send (.position p) g Kind.commit.code (.withdrawn subject))) ∧
     (∀ service f, recheck (s.bank q.bank) (e.serviceCode.getD 0) = .ok service →
       (service.customs = false ∨ e.declaredValue.getD 0 < (s.bank q.bank).parameters.customsThreshold ∨
         max session.grade ((statedGradeOf items).getD 0) ≤ 1) →
       s.pool.blocks ≠ [] →
       (∀ entry, lookupZone (s.bank q.bank) (e.destination.getD 0) = .error (.badRead entry f) →
         exec (.commit ⟨.position p, g⟩ items) s =
           .next ((s.failBankEntry q.bank entry (.position p) none).judge.send (.position p) g Kind.commit.code
             (.damaged (.bankEntry q.bank entry)))) ∧
       (∀ before n c after, (s.bank q.bank).zones.cells = before ++ (n, c) :: after → c.damaged = true →
         (∀ x ∈ before, x.2.damaged = false ∧ ∀ z, x.2.content = some z → z.high < e.destination.getD 0) →
         lookupZone (s.bank q.bank) (e.destination.getD 0) = .error (.fault f) →
         exec (.commit ⟨.position p, g⟩ items) s =
           .next (s.send (.position p) g Kind.commit.code (.damaged (.bankEntry q.bank (.place n)))))))

/-- R99 to R101: QUERY, by handle or by serial, answers RECORD with the record as it stands, DAMAGED and marked records
included, and sets the reservation where the reserve item stands; the supervisor's QUERY answers RECORD too. Both are
answered NO RECORD, with nothing else changed, where the handle or serial finds none. -/
def Obligations.QueryReportsTheRecord : Prop :=
  (∀ (g : Tag) (items : List Item) (s : State) (p : PositionNo) (session : Session) (res : Option Reservation)
    (slot : Nat) (r : Rec),
    s.ServesAt .query p items session res → s.FindsNamed items slot r →
    exec (.query ⟨.position p, g⟩ items) s =
      .next ((s.setCtx p (.opened session
        (if reserves items then some ⟨⟨slot, s.generation slot⟩, r.changeCount⟩ else res))).send (.position p) g
        Kind.query.code (.record ⟨⟨slot, s.generation slot⟩, r.owner, r.changeCount, r.busy, r.queued, r.body⟩
        (reserves items)))) ∧
  (∀ (g : Tag) (items : List Item) (s : State) (p : PositionNo) (session : Session) (res : Option Reservation),
    s.ServesAt .query p items session res → s.FindsNone items →
    exec (.query ⟨.position p, g⟩ items) s = .next (s.send (.position p) g Kind.query.code .noRecord)) ∧
  (∀ (g : Tag) (items : List Item) (s : State), s.Serves .querySupervisor .supervisor items → s.FindsNone items →
    exec (.querySupervisor ⟨.supervisor, g⟩ items) s =
      .next (s.send .supervisor g Kind.querySupervisor.code .noRecord)) ∧
  ∀ (g : Tag) (items : List Item) (s : State) (slot : Nat) (r : Rec),
    s.Serves .querySupervisor .supervisor items → s.FindsNamed items slot r →
    exec (.querySupervisor ⟨.supervisor, g⟩ items) s =
      .next (s.send .supervisor g Kind.querySupervisor.code
        (.record ⟨⟨slot, s.generation slot⟩, r.owner, r.changeCount, r.busy, r.queued, r.body⟩ false))

/-- R4, R18, R19, R80 (checks 5 to 9), R104, R108, R110: a request that names no live record is answered NO RECORD; one the
busy mark, or for RATE and AMEND the queued mark, refuses RECORD BUSY; one that names a DAMAGED record DAMAGED; SET
ATTRIBUTES, RATE, COMMIT, PRINTED and SPOILT of another position's record NOT OWNER; SET ATTRIBUTES and RATE of the
position's own record in PRINTING, LABELLED or HELD, and COMMIT of one in these or in DRAFT, WRONG STATE: each with nothing
else changed, the requester's reservation included. That the marks do not refuse PRINTED and SPOILT is log entry 6, and that
a failing read goes before the marks log entry 5. -/
def Obligations.MarkedAndMissingRecordsRefuse : Prop :=
  ∀ (k : Kind) (g : Tag) (items : List Item) (s : State) (p : PositionNo) (session : Session)
    (res : Option Reservation) (hd : Handle),
    s.ServesAt k p items session res → handleOf items = some hd →
    (k ∈ [.setAttributes, .rate, .commit, .printed, .spoilt, .amend, .takeOver, .void] → s.find hd = none →
      exec (requestCommand k ⟨.position p, g⟩ items) s = .next (s.send (.position p) g k.code .noRecord)) ∧
    (∀ r, k ∈ [.setAttributes, .rate, .commit, .amend, .takeOver, .void] → s.Finds hd r → r.busy = true →
      exec (requestCommand k ⟨.position p, g⟩ items) s = .next (s.send (.position p) g k.code .recordBusy)) ∧
    (∀ r, k ∈ [.rate, .amend] → s.Finds hd r → r.queued = true →
      exec (requestCommand k ⟨.position p, g⟩ items) s = .next (s.send (.position p) g k.code .recordBusy)) ∧
    ∀ r, s.Finds hd r → (k ∉ [.printed, .spoilt] → r.busy = false) → (k ∈ [.rate, .amend] → r.queued = false) →
      (∀ l, k ∈ [.setAttributes, .rate, .commit, .printed, .spoilt, .amend, .takeOver, .void] → r.body = .damaged l →
        exec (requestCommand k ⟨.position p, g⟩ items) s =
          .next (s.send (.position p) g k.code (.damaged (.record hd)))) ∧
      (k ∈ [.setAttributes, .rate, .commit, .printed, .spoilt] → (∀ l, r.body ≠ .damaged l) → r.owner ≠ p →
        exec (requestCommand k ⟨.position p, g⟩ items) s = .next (s.send (.position p) g k.code .notOwner)) ∧
      (k ∈ [.setAttributes, .rate] → r.owner = p → r.body.name ∈ [.printing, .labelled, .held] →
        exec (requestCommand k ⟨.position p, g⟩ items) s = .next (s.send (.position p) g k.code .wrongState)) ∧
      (k = .commit → r.owner = p → r.body.name ∈ [.draft, .printing, .labelled, .held] →
        exec (requestCommand k ⟨.position p, g⟩ items) s = .next (s.send (.position p) g k.code .wrongState))

/-- R104, R105, R103: an AMEND ADD OPTION with a valid reservation on an unmarked LABELLED record, the option not on
it, fewer than four options and EG at most 2, uses the reservation and joins the queue; above EG 2 it escalates with
needed grade 2, or with the enable clear is answered FAULT GRADE with needed grade 2, the reservation used (its subject is the
free value of log entry 10); without a valid reservation it is answered RESERVATION LOST and the reservation is gone. With a
valid one the reservation is used too where it is refused: OPTION PRESENT with the option on the record, LIMIT with four
options, RESET during a drain (R76), and WRONG STATE on an unmarked record in DRAFT, RATED, PRINTING or HELD. -/
def Obligations.AmendJoinsTheQueue : Prop :=
  (∀ (g : Tag) (items : List Item) (s : State) (p : PositionNo) (session : Session) (hd : Handle) (r : Rec),
    s.ServesAt .amend p items session (some ⟨hd, r.changeCount⟩) → handleOf items = some hd → s.Finds hd r →
    r.busy = false → r.queued = false → r.body.name ∈ [.draft, .rated, .printing, .held] →
    exec (.amendAddOption ⟨.position p, g⟩ items) s =
      .next ((s.setCtx p (.opened session none)).send (.position p) g Kind.amend.code .wrongState)) ∧
  ∀ (g : Tag) (items : List Item) (s : State) (p : PositionNo) (session : Session) (res : Option Reservation)
    (hd : Handle) (r : Rec) (code : Nat) (e : Entered) (q : Quote) (l : Label) (adj : Nat)
    (rw : Option ReweighPart),
    s.ServesAt .amend p items session res → handleOf items = some hd → optionCodeOf items = some code →
    s.Finds hd r → r.busy = false → r.queued = false → r.body = .labelled e q l adj rw →
    (res = some ⟨hd, r.changeCount⟩ → code ∉ e.options → e.options.length < 4 →
      max session.grade ((statedGradeOf items).getD 0) ≤ 2 → s.draining = false →
      exec (.amendAddOption ⟨.position p, g⟩ items) s =
        .next ((State.putRecord { s.hold (.position p) .amend g with
            queue := s.queue ++
              [⟨.rateOption code, hd, .position p, max session.grade ((statedGradeOf items).getD 0)⟩] }
          hd.slot { r with queued := true }).setCtx p
          (.working session false none ⟨.amend, g, items, res⟩)).judge) ∧
    (res = some ⟨hd, r.changeCount⟩ → code ∉ e.options → e.options.length < 4 →
      2 < max session.grade ((statedGradeOf items).getD 0) → session.escalation = true →
      exec (.amendAddOption ⟨.position p, g⟩ items) s =
        .next ((s.hold (.position p) .amend g).setCtx p
          (.escalated session ⟨⟨.amend, g, items, res⟩, 2, s.timers.escalationTimeout⟩)).judge) ∧
    (res = some ⟨hd, r.changeCount⟩ → code ∉ e.options → e.options.length < 4 →
      2 < max session.grade ((statedGradeOf items).getD 0) → session.escalation = false →
      exec (.amendAddOption ⟨.position p, g⟩ items) s =
        .next ((s.setCtx p (.opened session none)).judge.send (.position p) g Kind.amend.code
          (.fault ⟨.grade, Config.gradeRefusalSubject Kind.amend.code.toNat,
            some (2, max session.grade ((statedGradeOf items).getD 0))⟩))) ∧
    (res = some ⟨hd, r.changeCount⟩ → code ∈ e.options →
      exec (.amendAddOption ⟨.position p, g⟩ items) s =
        .next ((s.setCtx p (.opened session none)).send (.position p) g Kind.amend.code .optionPresent)) ∧
    (res = some ⟨hd, r.changeCount⟩ → code ∉ e.options → 4 ≤ e.options.length →
      exec (.amendAddOption ⟨.position p, g⟩ items) s =
        .next ((s.setCtx p (.opened session none)).send (.position p) g Kind.amend.code .limit)) ∧
    (res = some ⟨hd, r.changeCount⟩ → code ∉ e.options → e.options.length < 4 →
      max session.grade ((statedGradeOf items).getD 0) ≤ 2 → s.draining = true →
      exec (.amendAddOption ⟨.position p, g⟩ items) s =
        .next ((s.setCtx p (.opened session none)).send (.position p) g Kind.amend.code .reset)) ∧
    (res ≠ some ⟨hd, r.changeCount⟩ →
      exec (.amendAddOption ⟨.position p, g⟩ items) s =
        .next ((s.setCtx p (.opened session none)).send (.position p) g Kind.amend.code .reservationLost))

/-- R108, R109: a TAKE OVER with a valid reservation of an unbusy DRAFT or RATED record of a CLOSED position, with fewer than
eight in hand, changes the owner as one change and uses the reservation; LIMIT at eight in hand; NOT OWNER where the owner is
not CLOSED, the taker itself included; WRONG STATE where the record is PRINTING, LABELLED or HELD; RESERVATION LOST without a
valid reservation. Each of these refusals uses the reservation. R177: past these checks every live record is read for the
count, each that fails damaged and reported on its own with the taker as reader (`NewParcelTakesTheLowestSlot` says what the
reading does) and counted as DAMAGED, outside the records in hand. -/
def Obligations.TakeOverChangesTheOwner : Prop :=
  (∀ (g : Tag) (items : List Item) (s : State) (p : PositionNo) (session : Session) (res : Option Reservation)
     (hd : Handle) (r : Rec),
     s.ServesAt .takeOver p items session res → handleOf items = some hd → s.Finds hd r → r.busy = false →
     (∀ l, r.body ≠ .damaged l) →
     (res ≠ some ⟨hd, r.changeCount⟩ →
       exec (.takeOver ⟨.position p, g⟩ items) s =
         .next ((s.setCtx p (.opened session none)).send (.position p) g Kind.takeOver.code .reservationLost)) ∧
     (res = some ⟨hd, r.changeCount⟩ → r.body.name ∈ [.printing, .labelled, .held] →
       exec (.takeOver ⟨.position p, g⟩ items) s =
         .next ((s.setCtx p (.opened session none)).send (.position p) g Kind.takeOver.code .wrongState))) ∧
  ∀ (g : Tag) (items : List Item) (s t : State) (p : PositionNo) (session : Session) (hd : Handle) (r : Rec) (n : Nat),
    s.ServesAt .takeOver p items session (some ⟨hd, r.changeCount⟩) → handleOf items = some hd → s.Finds hd r →
    r.busy = false → r.body.isOpen = true →
    n = s.table.records.cells.countP (fun c =>
      c.2.sound && (c.2.owner == p && (c.2.body.isOpen || c.2.body.isPrinting))) →
    t = ((s.hold (.position p) .takeOver g).setCtx p (.opened session none)).readAll (.position p) →
    (s.ctx r.owner = .closed → s.canonical = true ∨ s.RecordsSound → n < 8 →
      exec (.takeOver ⟨.position p, g⟩ items) s =
        .next ((t.putRecord hd.slot { r with
          owner := p, changeCount := (r.changeCount + 1) % 65536, sound := true }).answer (.position p)
          (.done (.takenOver hd p r.body.name ((r.changeCount + 1) % 65536)))).judge) ∧
    (s.ctx r.owner = .closed → s.canonical = true ∨ s.RecordsSound → 8 ≤ n →
      exec (.takeOver ⟨.position p, g⟩ items) s = .next (t.answer (.position p) .limit).judge) ∧
    (s.ctx r.owner ≠ .closed →
      exec (.takeOver ⟨.position p, g⟩ items) s =
        .next ((s.setCtx p (.opened session none)).send (.position p) g Kind.takeOver.code .notOwner))

/-- R110, R111: VOID from a position retires an unbusy DRAFT, RATED or PRINTING record of the position, and a LABELLED
one of any owner on a valid reservation at EG at most 1 (that its DONE carries the retired handle, R111 listing no content, is
the model's choice, log entry 35); a LABELLED one above EG 1 escalates with needed grade 1, or with
the enable clear is answered FAULT GRADE with needed grade 1, the reservation used (its subject is the free value of log
entry 10); without a valid reservation it is answered RESERVATION LOST and the reservation is gone; a HELD one is answered
WRONG STATE. The retirement itself, with the answer to a request queued on the record, is
stated by `RetirementEndsTheRecord`; that an OPEN position has nothing queued itself is an invariant of
`RequestLawsAreKept`. R112: VOID from the supervisor retires a record in every state that carries no busy mark, and is answered
RECORD BUSY where it does and NO RECORD where none is found. -/
def Obligations.VoidRetiresARecord : Prop :=
  (∀ (g : Tag) (items : List Item) (s : State) (p : PositionNo) (session : Session) (res : Option Reservation)
     (hd : Handle) (r : Rec),
     s.ServesAt .void p items session res → handleOf items = some hd → s.Finds hd r → r.busy = false →
     (r.body.isOpen = true ∨ r.body.isPrinting = true → r.owner = p → (∀ x ∈ s.queue, x.requester ≠ .position p) →
       exec (.void ⟨.position p, g⟩ items) s =
         .next ((s.retire hd.slot r).judge.send (.position p) g Kind.void.code (.done (.parcel hd)))) ∧
     (r.body.isOpen = true ∨ r.body.isPrinting = true → r.owner ≠ p →
       exec (.void ⟨.position p, g⟩ items) s =
         .next (s.send (.position p) g Kind.void.code .notOwner)) ∧
     (∀ e q l adj rw, r.body = .labelled e q l adj rw → res = some ⟨hd, r.changeCount⟩ →
       max session.grade ((statedGradeOf items).getD 0) ≤ 1 → (∀ x ∈ s.queue, x.requester ≠ .position p) →
       exec (.void ⟨.position p, g⟩ items) s =
         .next (((s.setCtx p (.opened session none)).retire hd.slot r).judge.send (.position p) g Kind.void.code
           (.done (.parcel hd)))) ∧
     (∀ e q l adj rw, r.body = .labelled e q l adj rw → res = some ⟨hd, r.changeCount⟩ →
       1 < max session.grade ((statedGradeOf items).getD 0) → session.escalation = true →
       exec (.void ⟨.position p, g⟩ items) s =
         .next ((s.hold (.position p) .void g).setCtx p
           (.escalated session ⟨⟨.void, g, items, res⟩, 1, s.timers.escalationTimeout⟩)).judge) ∧
     (∀ e q l adj rw, r.body = .labelled e q l adj rw → res = some ⟨hd, r.changeCount⟩ →
       1 < max session.grade ((statedGradeOf items).getD 0) → session.escalation = false →
       exec (.void ⟨.position p, g⟩ items) s =
         .next ((s.setCtx p (.opened session none)).judge.send (.position p) g Kind.void.code
           (.fault ⟨.grade, Config.gradeRefusalSubject Kind.void.code.toNat,
             some (1, max session.grade ((statedGradeOf items).getD 0))⟩))) ∧
     (∀ e q l adj rw, r.body = .labelled e q l adj rw → res ≠ some ⟨hd, r.changeCount⟩ →
       exec (.void ⟨.position p, g⟩ items) s =
         .next ((s.setCtx p (.opened session none)).send (.position p) g Kind.void.code .reservationLost)) ∧
     (r.body.isHeld = true →
       exec (.void ⟨.position p, g⟩ items) s = .next (s.send (.position p) g Kind.void.code .wrongState))) ∧
  (∀ (g : Tag) (items : List Item) (s : State) (slot : Nat) (r : Rec),
     s.Serves .voidSupervisor .supervisor items → s.FindsNamed items slot r →
     (r.busy = false →
       exec (.voidSupervisor ⟨.supervisor, g⟩ items) s =
         .next ((s.retire slot r).judge.send .supervisor g Kind.voidSupervisor.code
           (.done (.parcel ⟨slot, s.generation slot⟩)))) ∧
     (r.busy = true →
       exec (.voidSupervisor ⟨.supervisor, g⟩ items) s =
         .next (s.send .supervisor g Kind.voidSupervisor.code .recordBusy))) ∧
  ∀ (g : Tag) (items : List Item) (s : State), s.Serves .voidSupervisor .supervisor items → s.FindsNone items →
    exec (.voidSupervisor ⟨.supervisor, g⟩ items) s =
      .next (s.send .supervisor g Kind.voidSupervisor.code .noRecord)

/-- R5, R2: retirement frees the slot and advances its generation, from 255 to 1; the index entry of its label goes;
its queue entry goes and that request is answered NO RECORD, a position's with its position out of WORKING (R122), dispatch's
with the pending reweigh emptied (R171); its pin is released; no other record, generation or index entry changes. -/
def Obligations.RetirementEndsTheRecord : Prop :=
  ∀ (s : State) (slot : Nat) (r : Rec), s.canonical = true → s.record slot = some r →
    (s.retire slot r).record slot = none ∧
    (s.retire slot r).generation slot = (if s.generation slot = 255 then 1 else s.generation slot + 1) ∧
    (∀ n, n ≠ slot → (s.retire slot r).record n = s.record n ∧ (s.retire slot r).generation n = s.generation n) ∧
    (∀ l, r.body.label = some l → (s.retire slot r).table.index.get l.serial = none) ∧
    (∀ n, (∀ l, r.body.label = some l → l.serial ≠ n) →
      (s.retire slot r).table.index.get n = s.table.index.get n) ∧
    (∀ x ∈ (s.retire slot r).queue, x.handle ≠ s.handleAt slot) ∧
    (∀ l, r.body.pin = some l → ((s.retire slot r).bank l).pins = (s.bank l).pins - 1 ∧
      (s.retire slot r).bank (otherBank l) = s.bank (otherBank l)) ∧
    (r.body.pin = none → (s.retire slot r).bankA = s.bankA ∧ (s.retire slot r).bankB = s.bankB) ∧
    (s.retire slot r).units = s.units ∧ (s.retire slot r).pool = s.pool ∧
    (s.retire slot r).integrity = s.integrity ∧ (s.retire slot r).grantState = s.grantState ∧
    (s.retire slot r).hallTime = s.hallTime ∧ (s.retire slot r).timers = s.timers ∧
    ((∀ x ∈ s.queue, x.handle ≠ s.handleAt slot) → (s.retire slot r).links = s.links ∧
      (s.retire slot r).positions = s.positions ∧ (s.retire slot r).answers = s.answers ∧
      (s.retire slot r).queue = s.queue ∧ (s.retire slot r).pendingReweigh = s.pendingReweigh) ∧
    (∀ x p o, s.queue.find? (fun e => e.handle == s.handleAt slot) = some x → x.requester = .position p →
      (s.link (.position p)).outstanding = some o →
      (s.retire slot r).answers = s.answers ++ [⟨.position p, o.tag, answerKind o.kind.code, .noRecord⟩] ∧
      ((s.retire slot r).link (.position p)).outstanding = none ∧
      ∀ session pend res request, s.ctx p = .working session pend res request →
        (s.retire slot r).ctx p = if pend then .suspended session .opened else .opened session res) ∧
    (∀ x o, s.queue.find? (fun e => e.handle == s.handleAt slot) = some x → x.requester = .dispatch →
      s.links.dispatch.outstanding = some o →
      (s.retire slot r).answers = s.answers ++ [⟨.dispatch, o.tag, answerKind o.kind.code, .noRecord⟩] ∧
      (s.retire slot r).links.dispatch.outstanding = none ∧ (s.retire slot r).pendingReweigh = none)

/-- R17, R10: damage of a record keeps owner and label, clears the marks, advances the change count once and releases its
pin; a DAMAGED record stays as it is. R74, R77: whatever the marks show, the job running on the record ends, its pin released
and its unit IDLE, and the entry queued on it goes; the requester is answered DAMAGED, of a discarded job nobody. R171: where the
requester is dispatch the pending reweigh is emptied. R177, R178, R179: a failing read of the record that a request names by handle
(SET ATTRIBUTES, RATE, COMMIT, PRINTED, SPOILT, QUERY, AMEND ADD OPTION, TAKE OVER and VOID of a position; QUERY, VOID and
SETTLE of the supervisor) damages it, whatever its state and marks, reports it with the requester as reader, and the request is
answered DAMAGED naming it. R21, R165 (check 4), R173 (check 2): of a request that names it by serial (QUERY of a position;
QUERY, VOID and SETTLE of the supervisor; REWEIGH and HANDOVER), an index entry that failed before is answered DAMAGED without a
report; one that fails now is kept and marked failed, the record whose label carries its serial, if there is one, is damaged,
the failure reported, and the request answered DAMAGED naming the entry; where the entry passes and the read of the record it
leads to fails, that record is damaged and reported. That a failing read goes before the marks is log entry 5. R185, R127: a
GRANT whose re-execution meets a failing read answers the saved request DAMAGED and itself DONE; that the reader is then the
position is log entry 19. That state, pin, owner and label are those of the record is log entry 32. -/
def Obligations.DamageOfARecord : Prop :=
  (∀ (s : State) (slot : Nat) (r : Rec) (subject : ReportSubject), s.record slot = some r →
     ((∃ l, r.body = .damaged l) → s.damageRecord slot r subject = s) ∧
     ((∀ l, r.body ≠ .damaged l) →
       (s.damageRecord slot r subject).record slot =
         some ⟨r.owner, (r.changeCount + 1) % 65536, false, false, true, .damaged r.body.label⟩ ∧
       (∀ y ∈ (s.damageRecord slot r subject).queue, y.handle ≠ s.handleAt slot) ∧
       (∀ u, s.unitOn (s.handleAt slot) = some u → (s.damageRecord slot r subject).unit u = none) ∧
       (∀ u, s.unitOn (s.handleAt slot) ≠ some u → (s.damageRecord slot r subject).unit u = s.unit u) ∧
       (s.unitOn (s.handleAt slot) = none → (∀ y ∈ s.queue, y.handle ≠ s.handleAt slot) →
         s.damageRecord slot r subject =
           (s.putRecord slot ⟨r.owner, (r.changeCount + 1) % 65536, false, false, true,
             .damaged r.body.label⟩).releaseBodyPin r.body) ∧
       (∀ x p o, s.unitOn (s.handleAt slot) = none →
         s.queue.find? (fun e => e.handle == s.handleAt slot) = some x → x.requester = .position p →
         (s.link (.position p)).outstanding = some o →
         (s.damageRecord slot r subject).answers =
           s.answers ++ [⟨.position p, o.tag, answerKind o.kind.code, .damaged subject⟩]) ∧
       (∀ u j, s.unitOn (s.handleAt slot) = some u → s.unit u = some j →
         (∀ y ∈ s.queue, y.handle ≠ s.handleAt slot) →
         (r.body.pin = none →
           ∀ l, (s.damageRecord slot r subject).bank l = (s.releasePin j.bank).bank l) ∧
         (j.discarded = true → (s.damageRecord slot r subject).answers = s.answers) ∧
         (∀ p o, j.discarded = false → j.entry.requester = .position p →
           (s.link (.position p)).outstanding = some o →
           (s.damageRecord slot r subject).answers =
             s.answers ++ [⟨.position p, o.tag, answerKind o.kind.code, .damaged subject⟩])) ∧
       (∀ o, s.links.dispatch.outstanding = some o →
         ((s.unitOn (s.handleAt slot) = none ∧
             ∃ x, s.queue.find? (fun e => e.handle == s.handleAt slot) = some x ∧ x.requester = .dispatch) ∨
           ((∀ y ∈ s.queue, y.handle ≠ s.handleAt slot) ∧ ∃ u j, s.unitOn (s.handleAt slot) = some u ∧
             s.unit u = some j ∧ j.discarded = false ∧ j.entry.requester = .dispatch)) →
         (s.damageRecord slot r subject).pendingReweigh = none ∧
         (s.damageRecord slot r subject).links.dispatch.outstanding = none ∧
         (s.damageRecord slot r subject).answers =
           s.answers ++ [⟨.dispatch, o.tag, answerKind o.kind.code, .damaged subject⟩]))) ∧
  (∀ (k : Kind) (g : Tag) (items : List Item) (s : State) (l : Link) (hd : Handle) (r : Rec),
     s.AsksByHandle k l items hd → s.find hd = some r → r.sound = false →
     exec (requestCommand k ⟨l, g⟩ items) s =
       .next ((((s.hold l k g).damageRecord hd.slot r (.record hd)).report (.record hd) (linkReader l)).answer l
         (.damaged (.record hd))).judge ∧
     ((∀ l, r.body ≠ .damaged l) → s.unitOn hd = none → (∀ y ∈ s.queue, y.handle ≠ hd) →
       exec (requestCommand k ⟨l, g⟩ items) s =
         .next (((((s.putRecord hd.slot ⟨r.owner, (r.changeCount + 1) % 65536, false, false, true,
           .damaged r.body.label⟩).releaseBodyPin r.body).report (.record hd) (linkReader l)).judge).send l g k.code
           (.damaged (.record hd))))) ∧
  (∀ (k : Kind) (g : Tag) (items : List Item) (s : State) (l : Link) (serial : Nat) (x : IndexEntry),
     s.AsksBySerial k l items serial → s.table.index.get serial = some x →
     (x.failed = true →
       exec (requestCommand k ⟨l, g⟩ items) s =
         .next (s.judge.send l g k.code (.damaged (.indexEntry serial ((s.carrier serial).map s.handleAt))))) ∧
     (x.failed = false → x.sound = false →
       (∀ slot r subject, s.carrier serial = some slot → s.record slot = some r →
         subject = .indexEntry serial (some (s.handleAt slot)) →
         exec (requestCommand k ⟨l, g⟩ items) s =
           .next ((((State.putIndex (s.hold l k g) serial { x with failed := true }).damageRecord slot r
             subject).report subject (linkReader l)).answer l (.damaged subject)).judge ∧
         ((∀ l, r.body ≠ .damaged l) → s.unitOn (s.handleAt slot) = none →
           (∀ y ∈ s.queue, y.handle ≠ s.handleAt slot) →
           exec (requestCommand k ⟨l, g⟩ items) s =
             .next (((((s.putIndex serial { x with failed := true }).putRecord slot ⟨r.owner,
               (r.changeCount + 1) % 65536, false, false, true, .damaged r.body.label⟩).releaseBodyPin r.body).report
               subject (linkReader l)).judge.send l g k.code (.damaged subject)))) ∧
       (s.carrier serial = none →
         exec (requestCommand k ⟨l, g⟩ items) s =
           .next (((s.putIndex serial { x with failed := true }).report (.indexEntry serial none)
             (linkReader l)).judge.send l g k.code (.damaged (.indexEntry serial none))))) ∧
     (∀ r subject, x.failed = false → x.sound = true → s.record x.slot = some r → r.sound = false →
       subject = .record (s.handleAt x.slot) →
       exec (requestCommand k ⟨l, g⟩ items) s =
         .next ((((s.hold l k g).damageRecord x.slot r subject).report subject (linkReader l)).answer l
           (.damaged subject)).judge)) ∧
  (∀ (g : Tag) (items : List Item) (s : State) (p : PositionNo) (grade : Nat) (session : Session) (slot : NormalSlot)
     (hd : Handle) (r : Rec),
     s.Serves .grant .supervisor items → positionOf items = some p → gradeOf items = some grade →
     s.ctx p = .escalated session slot → grade ≤ slot.needed → handleOf slot.request.items = some hd →
     s.find hd = some r → r.sound = false →
     exec (.grant ⟨.supervisor, g⟩ items) s =
       .next ((((((s.hold .supervisor .grant g).setCtx p (.opened session none)).damageRecord hd.slot r
         (.record hd)).report (.record hd) (.position p)).answer (.position p) (.damaged (.record hd))).answer
         .supervisor (.done .plain)).judge) ∧
  ∀ (serial : Nat) (cells : List (Nat × Rec)),
    (∀ slot, carrierAmong serial cells = some slot →
      ∃ c ∈ cells, c.1 = slot ∧ ∃ l, c.2.body.label = some l ∧ l.serial = serial) ∧
    (carrierAmong serial cells = none → ∀ c ∈ cells, ∀ l, c.2.body.label = some l → l.serial ≠ serial)

/-- R181, R179: a report takes NORMAL to ALERT with the alert enable set and raises INTEGRITY, NORMAL with it clear and
ALERT to HALTED and raises nothing, and leaves HALTED; it is counted up to 65,535 and logged last behind the earlier
reports in their order, a ninth removing the oldest. -/
def Obligations.ReportsMoveTheIntegrityState : Prop :=
  ∀ (s : State) (subject : ReportSubject) (reader : Reader),
    (s.report subject reader).integrity.state =
      (if s.integrity.state = .normal ∧ s.integrity.alertEnable = true then .alert else .halted) ∧
    (s.report subject reader).integrity.reportCount = min 65535 (s.integrity.reportCount + 1) ∧
    (s.report subject reader).integrity.alertEnable = s.integrity.alertEnable ∧
    (∀ entry, entry = (⟨subject, reader, s.hallTime, min 65535 (s.integrity.reportCount + 1),
        (s.report subject reader).integrity.state⟩ : LogEntry) →
      (s.integrity.log.length < 8 → (s.report subject reader).integrity.log = s.integrity.log ++ [entry]) ∧
      (s.integrity.log.length = 8 → (s.report subject reader).integrity.log = s.integrity.log.tail ++ [entry])) ∧
    (s.integrity.log.length ≤ 8 → (s.report subject reader).integrity.log.length ≤ 8) ∧
    (s.report subject reader).attention =
      (if s.integrity.state = .normal ∧ s.integrity.alertEnable = true then
        { s.attention with pending := { s.attention.pending with integrity := true } }
      else s.attention)

/-! ### Rating -/

/-- R35: what each condition compares, and when each comparison holds. R36: the line of a surcharge whose condition
holds: the stored amount for FIXED; base times value over 1,000 rounded down for PER MILLE, AMOUNT RANGE above 999,999;
no line where it does not hold. R54, step 7: the chargeable mass is the mass with the volumetric flag clear, and with
it set the larger of the mass and the product of the sides divided by 5,000, rounded up. -/
def Obligations.MeasuresAndSurchargeLines : Prop :=
  (∀ (m : Measured),
     m.value .chargeableMass = m.chargeable ∧
     m.value .longestSide = max m.sides.a (max m.sides.b m.sides.c) ∧
     (∀ x y z, (m.sides.a, m.sides.b, m.sides.c) = (x, y, z) →
       (y ≤ x → z ≤ x → m.value .girth = x + 2 * (y + z)) ∧
       (x ≤ y → z ≤ y → m.value .girth = y + 2 * (x + z)) ∧
       (x ≤ z → y ≤ z → m.value .girth = z + 2 * (x + y))) ∧
     m.value .declaredValue = m.declared ∧ m.value .zone = m.zone ∧
     ∀ v t : Nat, Comparison.always.holds v t = true ∧ (Comparison.above.holds v t = true ↔ v > t) ∧
       (Comparison.atLeast.holds v t = true ↔ v ≥ t) ∧ (Comparison.below.holds v t = true ↔ v < t) ∧
       (Comparison.atMost.holds v t = true ↔ v ≤ t) ∧ (Comparison.equal.holds v t = true ↔ v = t) ∧
       (Comparison.notEqual.holds v t = true ↔ v ≠ t)) ∧
  (∀ (sel : Selector) (d : Surcharge) (m : Measured) (base : Nat),
     (d.holds m = false → lineOf sel d m base = .ok none) ∧
     (∀ n, d.holds m = true → d.amount = .fixed n → lineOf sel d m base = .ok (some ⟨sel, n⟩)) ∧
     (∀ v k, d.holds m = true → d.amount = .perMille v → 1000 * k ≤ base * v → base * v < 1000 * (k + 1) →
       (k ≤ 999999 → lineOf sel d m base = .ok (some ⟨sel, k⟩)) ∧
       (999999 < k → lineOf sel d m base = .error (.fault ⟨.amountRange, .selector sel, none⟩)))) ∧
  (∀ (mass : Nat) (sides : Sides),
     chargeableMass false mass sides = mass ∧
     ∀ v, 5000 * v < sides.a * sides.b * sides.c + 5000 → sides.a * sides.b * sides.c ≤ 5000 * v →
       (v ≤ mass → chargeableMass true mass sides = mass) ∧ (mass ≤ v → chargeableMass true mass sides = v))

/-- R51: a rating faults with MISSING ATTRIBUTE naming the first absent of mass, sides, destination, service code,
before any entry of the bank is read; declared value, content category and options are not required. -/
def Obligations.MissingAttributeComesFirst : Prop :=
  ∀ (b : Bank) (l : BankLetter) (edition eg : Nat) (v : ParcelValues),
    (v.mass = none → rateParcel b l edition v eg = .error (.fault ⟨.missingAttribute, .field .mass, none⟩)) ∧
    (v.mass ≠ none → v.sides = none →
      rateParcel b l edition v eg = .error (.fault ⟨.missingAttribute, .field .sides, none⟩)) ∧
    (v.mass ≠ none → v.sides ≠ none → v.destination = none →
      rateParcel b l edition v eg = .error (.fault ⟨.missingAttribute, .field .destination, none⟩)) ∧
    (v.mass ≠ none → v.sides ≠ none → v.destination ≠ none → v.serviceCode = none →
      rateParcel b l edition v eg = .error (.fault ⟨.missingAttribute, .field .serviceCode, none⟩)) ∧
    (v.mass ≠ none → v.sides ≠ none → v.destination ≠ none → v.serviceCode ≠ none →
      ∃ p, requirePresent v = .ok p ∧ v.mass = some p.mass ∧ v.sides = some p.sides ∧
        v.destination = some p.destination ∧ v.serviceCode = some p.serviceCode)

/-- R48: the seven checks of resolving a selector, each made once those before it have passed. R26: one visit of the
catalogue walk: a damaged segment, an unused one, a failing read, the range, END, and the move on; with no visit left,
UNKNOWN SERVICE. A lookup begins at segment 0 with 32 visits. R26 and R28 name "unused" before "damaged"; that the damaged
mark is looked at first is the model's choice (log entry 28), a damaged entry having lost its content. R28: one place of
the zone lookup: a damaged one, an unused one, a failing read, a range below, the range, and NO ZONE. R89: the recheck of
COMMIT by what its walk reaches: the service code where the walk failed, else the selector whose flag is clear or whose
read fails, a REDIRECT followed to its target; that a damaged mark counts as a clear flag also after a RESTORE is the
model's reading (log entry 7). R60, R61: RATE OPTION looks the code up, resolves and evaluates the one surcharge at EG, and
refuses a line that is negative or takes total or adjustment out of range. -/
def Obligations.SelectorAndCatalogueChecks : Prop :=
  (∀ (b : Bank) (sel : Selector) (wanted : Wanted) (checked : Option Nat),
     (sel = ⟨.n, 0⟩ → resolve b sel wanted checked = .error (.fault ⟨.nullSelector, .selector sel, none⟩)) ∧
     (sel ≠ ⟨.n, 0⟩ → sel.table = .h → b.hLimit = 0 →
       resolve b sel wanted checked = .error (.fault ⟨.noSupplement, .selector sel, none⟩)) ∧
     (sel ≠ ⟨.n, 0⟩ → (sel.table = .h → b.hLimit ≠ 0) → b.limit sel.table ≤ sel.index →
       resolve b sel wanted checked = .error (.fault ⟨.beyondLimit, .selector sel, none⟩)) ∧
     (sel ≠ ⟨.n, 0⟩ → sel.index < b.limit sel.table →
       ((b.slotCell sel).damaged = true →
         resolve b sel wanted checked = .error (.fault ⟨.damagedTariff, .selector sel, none⟩)) ∧
       ((b.slotCell sel).damaged = false → (b.slotCell sel).sound = false →
         resolve b sel wanted checked =
           .error (.badRead (.slot sel) ⟨.damagedTariff, .selector sel, none⟩)) ∧
       ((b.slotCell sel).damaged = false → (b.slotCell sel).sound = true →
         (wanted.accepts (b.slotCell sel).content = false →
           resolve b sel wanted checked = .error (.fault ⟨.wrongKind, .selector sel, none⟩)) ∧
         (wanted.accepts (b.slotCell sel).content = true → (b.slotCell sel).present = false →
           resolve b sel wanted checked = .error (.fault ⟨.notPresent, .selector sel, none⟩)) ∧
         (∀ eg needed, wanted.accepts (b.slotCell sel).content = true → (b.slotCell sel).present = true →
           checked = some eg → (b.slotCell sel).content.accessGrade = some needed → needed < eg →
           resolve b sel wanted checked = .error (.fault ⟨.grade, .selector sel, some (needed, eg)⟩)) ∧
         (wanted.accepts (b.slotCell sel).content = true → (b.slotCell sel).present = true →
           (∀ eg needed, checked = some eg → (b.slotCell sel).content.accessGrade = some needed → eg ≤ needed) →
           resolve b sel wanted checked = .ok (b.slotCell sel).content)))) ∧
  (∀ (b : Bank) (code : Nat),
     lookupCode b code = walkCatalogue b code 32 0 ∧
     ∀ n, walkCatalogue b code 0 n = .error (.fault ⟨.unknownService, .code code, none⟩) ∧
     ∀ fuel,
       ((b.segmentCell n).damaged = true →
         walkCatalogue b code (fuel + 1) n = .error (.fault ⟨.damagedTariff, .code code, none⟩)) ∧
       ((b.segmentCell n).damaged = false → (b.segmentCell n).content = none →
         walkCatalogue b code (fuel + 1) n = .error (.fault ⟨.unknownService, .code code, none⟩)) ∧
       (∀ x, (b.segmentCell n).damaged = false → (b.segmentCell n).content = some x →
         ((b.segmentCell n).sound = false →
           walkCatalogue b code (fuel + 1) n =
             .error (.badRead (.segment n) ⟨.damagedTariff, .code code, none⟩)) ∧
         ((b.segmentCell n).sound = true → x.first ≤ code → code ≤ x.last →
           walkCatalogue b code (fuel + 1) n = .ok ⟨x.base.table, x.base.index + (code - x.first)⟩) ∧
         ((b.segmentCell n).sound = true → ¬(x.first ≤ code ∧ code ≤ x.last) → x.next = none →
           walkCatalogue b code (fuel + 1) n = .error (.fault ⟨.unknownService, .code code, none⟩)) ∧
         ∀ m, (b.segmentCell n).sound = true → ¬(x.first ≤ code ∧ code ≤ x.last) → x.next = some m →
           walkCatalogue b code (fuel + 1) n = walkCatalogue b code fuel m)) ∧
  (∀ (b : Bank) (district : Nat),
     lookupZone b district = scanZones district b.zones.cells ∧
     scanZones district [] = .error (.fault ⟨.noZone, .district district, none⟩) ∧
     ∀ n c rest,
       (c.damaged = true →
         scanZones district ((n, c) :: rest) = .error (.fault ⟨.damagedTariff, .district district, none⟩)) ∧
       (c.damaged = false → c.content = none → scanZones district ((n, c) :: rest) = scanZones district rest) ∧
       ∀ z, c.damaged = false → c.content = some z →
         (c.sound = false → scanZones district ((n, c) :: rest) =
           .error (.badRead (.place n) ⟨.damagedTariff, .district district, none⟩)) ∧
         (c.sound = true → z.high < district → scanZones district ((n, c) :: rest) = scanZones district rest) ∧
         (c.sound = true → z.low ≤ district → district ≤ z.high → scanZones district ((n, c) :: rest) = .ok z) ∧
         (c.sound = true → district < z.low → district ≤ z.high →
           scanZones district ((n, c) :: rest) = .error (.fault ⟨.noZone, .district district, none⟩))) ∧
  (∀ (b : Bank) (code : Nat),
     (∀ f, lookupCode b code = .error (.fault f) → recheck b code = .error ⟨.code code, none⟩) ∧
     (∀ x f, lookupCode b code = .error (.badRead x f) → recheck b code = .error ⟨.code code, some x⟩) ∧
     ∀ sel, lookupCode b code = .ok sel →
       ((b.slotCell sel).damaged = true → recheck b code = .error ⟨.selector sel, none⟩) ∧
       ((b.slotCell sel).damaged = false → (b.slotCell sel).sound = false →
         recheck b code = .error ⟨.selector sel, some (.slot sel)⟩) ∧
       ((b.slotCell sel).damaged = false → (b.slotCell sel).sound = true →
         ((b.slotCell sel).present = false → recheck b code = .error ⟨.selector sel, none⟩) ∧
         (∀ d, (b.slotCell sel).present = true → (b.slotCell sel).content = .service d → recheck b code = .ok d) ∧
         ∀ grade target, (b.slotCell sel).present = true → (b.slotCell sel).content = .redirect grade target →
           ((b.slotCell target).damaged = true → recheck b code = .error ⟨.selector target, none⟩) ∧
           ((b.slotCell target).damaged = false → (b.slotCell target).sound = false →
             recheck b code = .error ⟨.selector target, some (.slot target)⟩) ∧
           ((b.slotCell target).damaged = false → (b.slotCell target).sound = true →
             ((b.slotCell target).present = false → recheck b code = .error ⟨.selector target, none⟩) ∧
             ∀ d, (b.slotCell target).present = true → (b.slotCell target).content = .service d →
               recheck b code = .ok d))) ∧
  (∀ (b : Bank) (v : OptionValues) (eg : Nat),
     (∀ e, lookupCode b v.code = .error e → rateAddedOption b v eg = .error e) ∧
     ∀ sel, lookupCode b v.code = .ok sel →
       (∀ e, resolve b sel .surcharge (some eg) = .error e → rateAddedOption b v eg = .error e) ∧
       ∀ d, resolve b sel .surcharge (some eg) = .ok (.surcharge d) →
         (∀ e, lineOf sel d ⟨v.chargeable, v.sides, v.declaredValue.getD 0, v.zone⟩ v.base = .error e →
           rateAddedOption b v eg = .error e) ∧
         (lineOf sel d ⟨v.chargeable, v.sides, v.declaredValue.getD 0, v.zone⟩ v.base = .ok none →
           rateAddedOption b v eg = .ok none) ∧
         ∀ l, lineOf sel d ⟨v.chargeable, v.sides, v.declaredValue.getD 0, v.zone⟩ v.base = .ok (some l) →
           (0 ≤ l.amount → (v.total : Int) + l.amount ≤ 99999999 → (v.adjustment : Int) + l.amount ≤ 99999999 →
             rateAddedOption b v eg = .ok (some l)) ∧
           (l.amount < 0 ∨ 99999999 < (v.total : Int) + l.amount ∨ 99999999 < (v.adjustment : Int) + l.amount →
             rateAddedOption b v eg = .error (.fault ⟨.amountRange, .selector sel, none⟩)))

/-- R50, R52 to R59: the rating order past step 1, step by step, each made once those before it have passed: the service
code looked up; the service found directly, with AG equal to EG, or as a REDIRECT's target, resolved without the grade
check, with AG the target's access grade (R46); SCOPE MISMATCH of the service found; CUSTOMS DATA MISSING, declared value
before content category; the zone; the chargeable mass; the first band at or above it with its number and the price of the
zone, or OVER MASS LIMIT; the listed surcharges in stored order, checked against AG; the options in list order, each looked
up and checked against EG; the total, AMOUNT RANGE of TOTAL where it is out of range. A rating that finds no fault yields a
quote of its bank and edition whose total is its base plus its lines, from 0 to 99,999,999, with at most as many lines as
listed surcharges and options. R44, R45, R60, R169: a job that has kept no read runs the rating order, or RATE OPTION, on its
bank as it stands with the values, edition and EG it holds. The readings of a bank are stated by `SelectorAndCatalogueChecks`, a surcharge's line and
the chargeable mass by `MeasuresAndSurchargeLines`, step 1 by `MissingAttributeComesFirst`. -/
def Obligations.QuoteTotalsItsLines : Prop :=
  (∀ (b : Bank) (l : BankLetter) (edition eg : Nat) (v : ParcelValues) (q : Quote),
    rateParcel b l edition v eg = .ok q →
    q.bank = l ∧ q.edition = edition ∧ (q.total : Int) = q.base + (q.lines.map (·.amount)).sum ∧
      q.total ≤ 99999999 ∧ (∀ m, v.mass = some m → m ≤ q.chargeable) ∧ 1 ≤ q.band ∧
      ∃ f z, lookupZone b (v.destination.getD 0) = .ok z ∧ q.zone = z.zone ∧
        (∃ sel, lookupCode b (v.serviceCode.getD 0) = .ok sel ∧ findService b sel eg = .ok f) ∧
        q.lines.length ≤ f.service.surcharges.length + v.options.length) ∧
  (∀ (b : Bank) (l : BankLetter) (edition eg mass code district : Nat) (sides : Sides) (v : ParcelValues),
    v.mass = some mass → v.sides = some sides → v.destination = some district → v.serviceCode = some code →
    (∀ stop, lookupCode b code = .error stop → rateParcel b l edition v eg = .error stop) ∧
    ∀ sel, lookupCode b code = .ok sel →
      (∀ stop, findService b sel eg = .error stop → rateParcel b l edition v eg = .error stop) ∧
      ∀ f, findService b sel eg = .ok f →
        (f.service.scope.admitsDistrict district = false →
          rateParcel b l edition v eg = .error (.fault ⟨.scopeMismatch, .selector f.sel, none⟩)) ∧
        (f.service.scope.admitsDistrict district = true →
          (∀ field, customsMissing f.service v = some field →
            rateParcel b l edition v eg = .error (.fault ⟨.customsDataMissing, .field field, none⟩)) ∧
          (customsMissing f.service v = none →
            (∀ stop, lookupZone b district = .error stop → rateParcel b l edition v eg = .error stop) ∧
            ∀ z m, lookupZone b district = .ok z →
              m = Measured.mk (chargeableMass f.service.volumetric mass sides) sides (v.declaredValue.getD 0) z.zone →
              (∀ stop, findBase b f.service.rate m.chargeable z.zone = .error stop →
                rateParcel b l edition v eg = .error stop) ∧
              ∀ band base, findBase b f.service.rate m.chargeable z.zone = .ok (band, base) →
                (∀ stop, onOneBank (listedLines (fun _ => b) f.ag m base 5 f.service.surcharges) = .error stop →
                  rateParcel b l edition v eg = .error stop) ∧
                ∀ listed, onOneBank (listedLines (fun _ => b) f.ag m base 5 f.service.surcharges) = .ok listed →
                  (∀ stop, onOneBank (optionLines (fun _ => b) eg m base (5 + f.service.surcharges.length)
                      v.options) = .error stop →
                    rateParcel b l edition v eg = .error stop) ∧
                  ∀ added, onOneBank (optionLines (fun _ => b) eg m base (5 + f.service.surcharges.length)
                      v.options) = .ok added →
                    (∀ total : Nat, (base : Int) + ((listed ++ added).map (·.amount)).sum = total →
                      total ≤ 99999999 →
                      rateParcel b l edition v eg =
                        .ok ⟨l, edition, z.zone, m.chargeable, band, base, listed ++ added, total⟩) ∧
                    ((base : Int) + ((listed ++ added).map (·.amount)).sum < 0 ∨
                        99999999 < (base : Int) + ((listed ++ added).map (·.amount)).sum →
                      rateParcel b l edition v eg = .error (.fault ⟨.amountRange, .field .total, none⟩))))) ∧
  (∀ (b : Bank) (sel : Selector) (eg : Nat),
    (∀ stop, resolve b sel .serviceOrRedirect (some eg) = .error stop → findService b sel eg = .error stop) ∧
    (∀ d, resolve b sel .serviceOrRedirect (some eg) = .ok (.service d) → findService b sel eg = .ok ⟨sel, d, eg⟩) ∧
    ∀ grade target, resolve b sel .serviceOrRedirect (some eg) = .ok (.redirect grade target) →
      (∀ stop, resolve b target .service none = .error stop → findService b sel eg = .error stop) ∧
      ∀ d, resolve b target .service none = .ok (.service d) → findService b sel eg = .ok ⟨target, d, d.grade⟩) ∧
  (∀ district : Nat, (Scope.domestic.admitsDistrict district = true ↔ district < 10000) ∧
    (Scope.international.admitsDistrict district = true ↔ 10000 ≤ district) ∧
    Scope.both.admitsDistrict district = true) ∧
  (∀ (d : Service) (v : ParcelValues), (d.customs = false → customsMissing d v = none) ∧
    (d.customs = true →
      (v.declaredValue = none → customsMissing d v = some .declaredValue) ∧
      (v.declaredValue ≠ none → v.contentCategory = none → customsMissing d v = some .contentCategory) ∧
      (v.declaredValue ≠ none → v.contentCategory ≠ none → customsMissing d v = none))) ∧
  (∀ (b : Bank) (sel : Selector) (mass zone : Nat),
    (∀ stop, resolve b sel .rate none = .error stop → findBase b sel mass zone = .error stop) ∧
    ∀ bands, resolve b sel .rate none = .ok (.rate bands) →
      (∀ before band after price, bands = before ++ band :: after → (∀ x ∈ before, x.limit < mass) →
        mass ≤ band.limit → band.prices[zone - 1]? = some price →
        findBase b sel mass zone = .ok (before.length + 1, price)) ∧
      ((∀ x ∈ bands, x.limit < mass) →
        findBase b sel mass zone = .error (.fault ⟨.overMassLimit, .selector sel, none⟩))) ∧
  (∀ (b : Bank) (grade base n : Nat) (m : Measured),
    onOneBank (listedLines (fun _ => b) grade m base n []) = .ok [] ∧
    ∀ (sel : Selector) (rest : List Selector),
      (∀ stop, resolve b sel .surcharge (some grade) = .error stop →
        onOneBank (listedLines (fun _ => b) grade m base n (sel :: rest)) = .error stop) ∧
      ∀ d, resolve b sel .surcharge (some grade) = .ok (.surcharge d) →
        (∀ stop, lineOf sel d m base = .error stop →
          onOneBank (listedLines (fun _ => b) grade m base n (sel :: rest)) = .error stop) ∧
        ∀ line, lineOf sel d m base = .ok line →
          (∀ stop, onOneBank (listedLines (fun _ => b) grade m base (n + 1) rest) = .error stop →
            onOneBank (listedLines (fun _ => b) grade m base n (sel :: rest)) = .error stop) ∧
          ∀ more, onOneBank (listedLines (fun _ => b) grade m base (n + 1) rest) = .ok more →
            onOneBank (listedLines (fun _ => b) grade m base n (sel :: rest)) = .ok (line.toList ++ more)) ∧
  (∀ (j : Job) (b : Bank), j.seen = [] →
    (∀ v, j.values = .parcel v →
      (∀ q, rateParcel b j.bank j.edition v j.entry.eg = .ok q → j.procedure b = .ok (.quote q)) ∧
      ∀ stop, rateParcel b j.bank j.edition v j.entry.eg = .error stop → j.procedure b = .error stop) ∧
    ∀ v, j.values = .option v →
      (∀ line, rateAddedOption b v j.entry.eg = .ok line → j.procedure b = .ok (.option line)) ∧
      ∀ stop, rateAddedOption b v j.entry.eg = .error stop → j.procedure b = .error stop) ∧
  ∀ (b : Bank) (eg base n : Nat) (m : Measured),
    onOneBank (optionLines (fun _ => b) eg m base n []) = .ok [] ∧
    ∀ (code : Nat) (rest : List Nat),
      (∀ stop, lookupCode b code = .error stop →
        onOneBank (optionLines (fun _ => b) eg m base n (code :: rest)) = .error stop) ∧
      ∀ sel, lookupCode b code = .ok sel →
        (∀ stop, resolve b sel .surcharge (some eg) = .error stop →
          onOneBank (optionLines (fun _ => b) eg m base n (code :: rest)) = .error stop) ∧
        ∀ d, resolve b sel .surcharge (some eg) = .ok (.surcharge d) →
          (∀ stop, lineOf sel d m base = .error stop →
            onOneBank (optionLines (fun _ => b) eg m base n (code :: rest)) = .error stop) ∧
          ∀ line, lineOf sel d m base = .ok line →
            (∀ stop, onOneBank (optionLines (fun _ => b) eg m base (n + 2) rest) = .error stop →
              onOneBank (optionLines (fun _ => b) eg m base n (code :: rest)) = .error stop) ∧
            ∀ more, onOneBank (optionLines (fun _ => b) eg m base (n + 2) rest) = .ok more →
              onOneBank (optionLines (fun _ => b) eg m base n (code :: rest)) = .ok (line.toList ++ more)

/-- R69 to R71: with the grant condition holding, the dispatch entry, else the oldest, is granted to the
lowest-numbered IDLE unit against the ACTIVE bank: the entry leaves the queue, the busy mark replaces the queued mark,
the bank takes a pin and the unit holds the job. That GRANT_OF_JOB leaves the state where the grant state is not GRANTING, no
unit is IDLE or no entry waits is log entry 2 (an event command without effect). R44, R71, R74, R178: where the read of the
record fails at the grant, the job ends at once: the unit stays IDLE, the record is DAMAGED and reported with the unit as
reader, and the requester, a position or dispatch, is answered DAMAGED; that this is so whatever the record holds is log
entry 32. R44: what each job kind reads of its
record and carries from its request. -/
def Obligations.GrantStartsAJob : Prop :=
  (∀ (s : State), s.Live →
     (∀ (u : UnitNo) (x : QueueEntry) (r : Rec) (l : BankLetter) (edition : Nat) (values : JobValues),
       s.grantState = .granting → s.unit u = none → (∀ w, w < u → s.unit w ≠ none) →
       (s.queue.find? (fun y => y.requester == .dispatch) = some x ∨
         ((∀ y ∈ s.queue, y.requester ≠ .dispatch) ∧ s.queue.head? = some x)) →
       s.activeBank = some l → (s.bank l).state = .active edition → s.Finds x.handle r →
       x.kind.valuesOf r.body = some values →
       exec .grantOfJob s =
         .next ((State.putRecord (State.setUnit
           { s with queue := s.queue.filter fun y => y.requester != x.requester } u
           (some ⟨x, l, edition, false, values, [], none⟩)) x.handle.slot
           { r with queued := false, busy := true }).takePin l).judge) ∧
     (∀ (u : UnitNo) (x : QueueEntry) (r : Rec) (l : BankLetter) (lk : Link) (o : Outstanding),
       s.grantState = .granting → s.unit u = none → (∀ w, w < u → s.unit w ≠ none) →
       (∀ w j, s.unit w = some j → j.entry.handle ≠ x.handle) →
       (s.queue.find? (fun y => y.requester == .dispatch) = some x ∨
         ((∀ y ∈ s.queue, y.requester ≠ .dispatch) ∧ s.queue.head? = some x)) →
       s.activeBank = some l → (∀ y ∈ s.queue, y.requester ≠ x.requester → y.handle ≠ x.handle) →
       s.find x.handle = some r → r.sound = false →
       ((∃ p, x.requester = .position p ∧ lk = .position p) ∨ (x.requester = .dispatch ∧ lk = .dispatch)) →
       (s.link lk).outstanding = some o →
       ∃ t, exec .grantOfJob s = .next t ∧ t.unit u = none ∧
         t.answers = s.answers ++ [⟨lk, o.tag, answerKind o.kind.code, .damaged (.record x.handle)⟩] ∧
         (t.link lk).outstanding = none ∧ (lk = .dispatch → t.pendingReweigh = none) ∧
         t.integrity = (s.report (.record x.handle) (.unit u)).integrity ∧
         ∃ r', t.record x.handle.slot = some r' ∧ r'.body = .damaged r.body.label ∧ r'.busy = false ∧
           r'.queued = false ∧ r'.owner = r.owner) ∧
     (s.grantState ≠ .granting ∨ (∀ u, s.unit u ≠ none) ∨ s.queue = [] → exec .grantOfJob s = .next s)) ∧
  (∀ (e : Entered) (q : Quote) (l : Label) (adj : Nat) (rw : Option ReweighPart) (mass code : Nat) (sides own : Sides),
     JobKind.rate.valuesOf (.draft e) = some (.parcel
       ⟨e.mass, e.sides, e.destination, e.serviceCode, e.declaredValue, e.contentCategory, e.options⟩) ∧
     (JobKind.rerateReweigh mass sides).valuesOf (.labelled e q l adj rw) = some (.parcel
       ⟨some mass, some sides, e.destination, e.serviceCode, e.declaredValue, e.contentCategory, e.options⟩) ∧
     (e.sides = some own →
       (JobKind.rateOption code).valuesOf (.labelled e q l adj rw) = some (.option
         ⟨code, own, e.declaredValue, q.chargeable, q.zone, q.base, q.total, adj⟩)))

/-- R72, R12, R158: a RATE job that completes with a quote makes its DRAFT record RATED, the record's pin taken before
the job's is released, clears the busy mark, frees the unit and answers QUOTE; against a bank whose grace has expired
the record stays DRAFT with its change count advanced and QUOTES LAPSED is raised. -/
def Obligations.RateCompletionStoresTheQuote : Prop :=
  ∀ (s : State) (u : UnitNo) (j : Job) (r : Rec) (e : Entered) (q : Quote) (p : PositionNo), s.Live →
    s.unit u = some j → j.discarded = false → j.entry.kind = .rate → j.entry.requester = .position p →
    j.found = none → j.procedure (s.bank j.bank) = .ok (.quote q) → s.Finds j.entry.handle r → r.body = .draft e →
    (s.graceExpired j.bank = false →
      exec (.rateJobCompletion u) s =
        .next (((((((s.putRecord j.entry.handle.slot { r with
          changeCount := (r.changeCount + 1) % 65536, sound := true, body := .rated e q }).takePin
          q.bank).releasePin j.bank).markBusy j.entry.handle.slot false).setUnit u none).answerPosition p
          (.quote j.entry.handle .rated q)).judge)) ∧
    (s.graceExpired j.bank = true →
      exec (.rateJobCompletion u) s =
        .next (((((((s.putRecord j.entry.handle.slot { r with
          changeCount := (r.changeCount + 1) % 65536, sound := true, body := .draft e }).releasePin
          j.bank).markBusy j.entry.handle.slot false).setUnit u none).raise .quotesLapsed).answerPosition p
          (.quote j.entry.handle .draft q)).judge))

/-- R63, R72, R123: a RATE or RATE OPTION job of a WORKING position that ends in a fault leaves its record but the busy
mark, releases its pin and frees its unit; a fault other than GRADE, or a GRADE fault with the enable clear, is
answered FAULT; a GRADE fault with the enable set escalates with the needed grade, or is answered RESET during a
drain. R37, R47: the fault is the one a failing read gave the job, or the one its procedure ends in; a completion whose own
procedure meets a failing read is that of a job that has found this fault (`DiscardedJobsAndFailingReads`). -/
def Obligations.FaultedJobsAnswerOrEscalate : Prop :=
  ∀ (s : State) (u : UnitNo) (j : Job) (r : Rec) (f : FaultReport) (p : PositionNo) (session : Session) (pend : Bool)
    (res : Option Reservation) (request : HeldRequest), s.Live →
    s.unit u = some j → j.discarded = false → j.entry.requester = .position p →
    (j.found = some f ∨ (j.found = none ∧ j.procedure (s.bank j.bank) = .error (.fault f))) →
    s.Finds j.entry.handle r → s.ctx p = .working session pend res request →
    ∀ c, (c = .rateJobCompletion u ∧ j.entry.kind = .rate) ∨
        (c = .rateOptionCompletion u ∧ ∃ code, j.entry.kind = .rateOption code) →
      (f.kind ≠ .grade ∨ session.escalation = false →
        exec c s = .next (((((s.releasePin j.bank).markBusy j.entry.handle.slot false).setUnit u none).answerPosition p
          (.fault f)).judge)) ∧
      (f.kind = .grade → session.escalation = true → s.draining = true →
        exec c s = .next (((((s.releasePin j.bank).markBusy j.entry.handle.slot false).setUnit u none).answerPosition p
          .reset).judge)) ∧
      (∀ needed checked, f.kind = .grade → f.grades = some (needed, checked) → session.escalation = true →
        s.draining = false →
        exec c s = .next (((((s.releasePin j.bank).markBusy j.entry.handle.slot false).setUnit u none).setCtx p
          (if pend then .suspended session (.escalated ⟨request, needed, s.timers.escalationTimeout⟩)
          else .escalated session ⟨request, needed, s.timers.escalationTimeout⟩)).judge))

/-- R106, R16: a RATE OPTION job that completes appends the option, and its line where there is one, raising total and
adjustment by its amount, as one change; the AMEND is answered DONE with the new values. -/
def Obligations.OptionCompletionAddsTheOption : Prop :=
  ∀ (s : State) (u : UnitNo) (j : Job) (r : Rec) (e : Entered) (q : Quote) (l : Label) (adj : Nat)
    (rw : Option ReweighPart) (p : PositionNo) (code : Nat), s.Live →
    s.unit u = some j → j.discarded = false → j.entry.kind = .rateOption code → j.entry.requester = .position p →
    j.found = none → s.Finds j.entry.handle r → r.body = .labelled e q l adj rw →
    (j.procedure (s.bank j.bank) = .ok (.option none) →
      exec (.rateOptionCompletion u) s =
        .next ((((((s.putRecord j.entry.handle.slot { r with
          changeCount := (r.changeCount + 1) % 65536, sound := true,
          body := .labelled { e with options := e.options ++ [code] } q l adj rw }).releasePin j.bank).markBusy
          j.entry.handle.slot false).setUnit u none).answerPosition p
          (.done (.amended j.entry.handle code none q.total adj ((r.changeCount + 1) % 65536)))).judge)) ∧
    (∀ (sel : Selector) (n : Nat), j.procedure (s.bank j.bank) = .ok (.option (some ⟨sel, n⟩)) →
      exec (.rateOptionCompletion u) s =
        .next ((((((s.putRecord j.entry.handle.slot { r with
          changeCount := (r.changeCount + 1) % 65536, sound := true,
          body := .labelled { e with options := e.options ++ [code] }
            { q with lines := q.lines ++ [⟨sel, n⟩], total := q.total + n } l (adj + n) rw }).releasePin
          j.bank).markBusy j.entry.handle.slot false).setUnit u none).answerPosition p
          (.done (.amended j.entry.handle code (some ⟨sel, n⟩) (q.total + n) (adj + n)
            ((r.changeCount + 1) % 65536)))).judge))

/-- R170: a re-rating whose total exceeds what was paid makes the record HELD and answers DIVERT with the shortfall;
one that does not answers CLEAR with the record LABELLED; one that faults makes it HELD with RERATE FAULT. The paid
quote, the adjustment and the label stay, and the pending reweigh is emptied. R37, R47: a job that has found a fault in a
failing read faults with it; a completion whose own procedure meets a failing read is that of a job that has found this fault
(`DiscardedJobsAndFailingReads`). -/
def Obligations.RerateDecidesTheParcel : Prop :=
  ∀ (s : State) (u : UnitNo) (j : Job) (r : Rec) (e : Entered) (q : Quote) (l : Label) (adj mass : Nat) (sides : Sides)
    (rw : Option ReweighPart) (pr : PendingReweigh) (result : Except Stop JobResult) (body : RecordBody) (a : Answer),
    s.Live → s.unit u = some j → j.discarded = false → j.entry.kind = .rerateReweigh mass sides →
    j.entry.requester = .dispatch → s.Finds j.entry.handle r → r.body = .labelled e q l adj rw →
    s.pendingReweigh = some pr →
    ((∃ f, j.found = some f ∧ result = .error (.fault f)) ∨
      (j.found = none ∧ j.procedure (s.bank j.bank) = result)) →
    ((∃ fresh short, result = .ok (.quote fresh) ∧ fresh.total = q.total + adj + short ∧ 0 < short ∧
        body = .held e q l adj ⟨pr.mass, pr.sides, .held, some short⟩ .underpaid ∧
        a = .divert ⟨pr.handle, pr.serial, .underpaid fresh.total short, pr.chargeable,
          (r.changeCount + 1) % 65536⟩) ∨
      (∃ fresh, result = .ok (.quote fresh) ∧ fresh.total ≤ q.total + adj ∧
        body = .labelled e q l adj (some ⟨pr.mass, pr.sides, .agreed, none⟩) ∧
        a = .clear ⟨pr.handle, pr.serial, .agreed, pr.chargeable, pr.limit, some fresh.total,
          (r.changeCount + 1) % 65536⟩) ∨
      (∃ f, result = .error (.fault f) ∧
        body = .held e q l adj ⟨pr.mass, pr.sides, .held, none⟩ (.rerateFault f.kind) ∧
        a = .divert ⟨pr.handle, pr.serial, .rerateFault f, pr.chargeable, (r.changeCount + 1) % 65536⟩)) →
    exec (.rerateReweighCompletion u) s =
      .next (State.judge { ((((s.putRecord j.entry.handle.slot { r with
        changeCount := (r.changeCount + 1) % 65536, sound := true, body := body }).releasePin j.bank).markBusy
        j.entry.handle.slot false).setUnit u none).answer .dispatch a with pendingReweigh := none })

/-- R73: a discarded job that finishes drops its result: its pin is released, the busy mark cleared, the unit IDLE, and
no answer is sent. R37, R47: a running job's read of an entry that it comes to and that fails marks the entry damaged,
raises the bank's damaged-entry count, is reported with the unit as reader, and is the fault the job will end with;
here with no other job running. Which read fails is given from outside (log entry 4). That a discarded completion reads no
record, so that the first part holds for a record in any condition, is the model's reading (log entry 8). R47: a lookup or
resolution sees the bank as it then stands, an entry that an earlier one has read included, but for what it has read
itself. R37: marking an entry damaged discards a segment's or place's content and clears a slot's present flag, raises the
damaged-entry count by one, and leaves every other entry, the state, the pins, the limits and the parameters. A failing read
of a bank entry does this to its bank and reports the entry, and changes no other block but what the running jobs on the
bank have read by then (log entry 4). R47, R65, R178: a completion whose own procedure meets a failing read marks and reports
the entry; where the report halts the part the job stands frozen and nothing is answered, else the job completes with the
fault found. R72, R74: a completion whose read of its record fails damages and reports the record and ends the job, its pin
released, its unit IDLE and its requester answered DAMAGED (log entry 32). -/
def Obligations.DiscardedJobsAndFailingReads : Prop :=
  (∀ (s : State) (u : UnitNo) (j : Job), s.Live → s.unit u = some j → j.discarded = true →
     (j.found ≠ none ∨ ∀ x f, j.procedure (s.bank j.bank) ≠ .error (.badRead x f)) →
     exec (.discardedJobCompletion u) s =
       .next ((((s.releasePin j.bank).markBusy j.entry.handle.slot false).setUnit u none).judge)) ∧
  (∀ (s : State) (u : UnitNo) (j : Job) (entry : BankEntry) (f : FaultReport), s.Live → s.unit u = some j →
     (∀ w, w ≠ u → s.unit w = none) → j.found = none →
     j.procedure ((s.bank j.bank).unsound entry) = .error (.badRead entry f) →
     exec (.jobReadFailsCheck u entry) s =
       .next (((s.setBank j.bank ((s.bank j.bank).damage entry)).report (.bankEntry j.bank entry)
         (.unit u)).setUnit u (some { j with found := some f })).judge) ∧
  (∀ (s t : State) (u : UnitNo) (j : Job) (entry : BankEntry) (f : FaultReport) (c : Instr), s.Live →
     s.unit u = some j → j.found = none → j.procedure (s.bank j.bank) = .error (.badRead entry f) →
     ((c = .discardedJobCompletion u ∧ j.discarded = true) ∨
       (j.discarded = false ∧
         ((c = .rateJobCompletion u ∧ j.entry.kind = .rate) ∨
           (c = .rateOptionCompletion u ∧ ∃ code, j.entry.kind = .rateOption code) ∨
           (c = .rerateReweighCompletion u ∧ ∃ mass sides, j.entry.kind = .rerateReweigh mass sides)))) →
     t = (s.failBankEntry j.bank entry (.unit u) (some u)).setUnit u (some { j with found := some f }) →
     (t.halted = true → exec c s = .next t.judge) ∧ (t.halted = false → exec c s = exec c t)) ∧
  (∀ (s : State) (u : UnitNo) (j : Job) (r : Rec) (hd : Handle) (c : Instr), s.Live →
     s.unit u = some j → j.discarded = false →
     (j.found ≠ none ∨ ∀ x f, j.procedure (s.bank j.bank) ≠ .error (.badRead x f)) →
     ((c = .rateJobCompletion u ∧ j.entry.kind = .rate) ∨
       (c = .rateOptionCompletion u ∧ ∃ code, j.entry.kind = .rateOption code) ∨
       (c = .rerateReweighCompletion u ∧ ∃ mass sides, j.entry.kind = .rerateReweigh mass sides)) →
     j.entry.handle = hd → s.find hd = some r → r.sound = false → (∀ l, r.body ≠ .damaged l) →
     (∀ w k, s.unit w = some k → k.entry.handle = hd → w = u) → (∀ y ∈ s.queue, y.handle ≠ hd) →
     (∀ p, j.entry.requester = .position p →
       exec c s = .next (((((((s.putRecord hd.slot ⟨r.owner, (r.changeCount + 1) % 65536, false, false, true,
         .damaged r.body.label⟩).releaseBodyPin r.body).setUnit u none).releasePin j.bank).answerPosition p
         (.damaged (.record hd))).report (.record hd) (.unit u)).judge)) ∧
     (j.entry.requester = .dispatch →
       exec c s = .next ((State.report { (((((s.putRecord hd.slot ⟨r.owner, (r.changeCount + 1) % 65536, false, false,
         true, .damaged r.body.label⟩).releaseBodyPin r.body).setUnit u none).releasePin j.bank).answer .dispatch
         (.damaged (.record hd))) with pendingReweigh := none } (.record hd) (.unit u)).judge))) ∧
  (∀ (j : Job) (b : Bank) (reading : Nat), (∀ x ∈ j.seen, x.reading ≠ reading) → j.view b reading = b) ∧
  (∀ (b : Bank) (entry : BankEntry),
     (b.damage entry).state = b.state ∧ (b.damage entry).pins = b.pins ∧
     (b.damage entry).parameters = b.parameters ∧ (b.damage entry).nLimit = b.nLimit ∧
     (b.damage entry).hLimit = b.hLimit ∧ (b.damage entry).damagedCount = b.damagedCount + 1 ∧
     (∀ n, entry = .segment n → ((b.damage entry).segmentCell n).content = none ∧
       ((b.damage entry).segmentCell n).damaged = true) ∧
     (∀ n, entry ≠ .segment n → (b.damage entry).segmentCell n = b.segmentCell n) ∧
     (∀ n, entry = .place n → ((b.damage entry).placeCell n).content = none ∧
       ((b.damage entry).placeCell n).damaged = true) ∧
     (∀ n, entry ≠ .place n → (b.damage entry).placeCell n = b.placeCell n) ∧
     (∀ sel, entry = .slot sel → (b.damage entry).slotCell sel =
       { b.slotCell sel with present := false, damaged := true }) ∧
     ∀ sel, entry ≠ .slot sel → (b.damage entry).slotCell sel = b.slotCell sel) ∧
  ∀ (s t : State) (l : BankLetter) (entry : BankEntry) (reader : Reader) (own : Option UnitNo),
    t = s.failBankEntry l entry reader own →
    t.bank l = (s.bank l).damage entry ∧ t.bank (otherBank l) = s.bank (otherBank l) ∧
    t.integrity = (s.report (.bankEntry l entry) reader).integrity ∧
    t.attention = (s.report (.bankEntry l entry) reader).attention ∧
    t.table = s.table ∧ t.positions = s.positions ∧ t.links = s.links ∧ t.queue = s.queue ∧ t.pool = s.pool ∧
    t.grantState = s.grantState ∧ t.pendingReweigh = s.pendingReweigh ∧ t.hallTime = s.hallTime ∧
    t.timers = s.timers ∧ t.answers = s.answers ∧
    (∀ u, s.unit u = none → t.unit u = none) ∧
    (∀ u j, s.unit u = some j → j.bank ≠ l ∨ own = some u ∨ j.found ≠ none → t.unit u = some j) ∧
    ∀ u j, s.unit u = some j → ∃ more, t.unit u = some { j with seen := more ++ j.seen }

/-! ### Label numbers -/

/-- R138 to R140: LOAD BLOCK's checks 3 to 7 in their order and its effect. A serial of the range that lies in a block, or
that an index entry carries whose read passes or which failed earlier, is OVERLAP with nothing else changed. With none, an
entry whose read fails its check, the only one of the index, is kept and marked failed, the record whose label carries its
serial is damaged, the failure reported and the answer DAMAGED (stated for a record with neither job nor entry, for one that
is DAMAGED already and stays so, and for an entry whose serial no label carries). With every read passing, the block goes to the tail with next at its first serial, and
DONE carries the number of blocks and the remaining count. That a carried serial ends the reading before another entry's
read fails is the model's choice (log entry 9). -/
def Obligations.LoadBlockAppendsABlock : Prop :=
  ∀ (g : Tag) (items : List Item) (s : State) (first count : Nat),
    s.Serves .loadBlock .supervisor items → firstSerialOf items = some first → countOf items = some count →
    (999999999 < first + count - 1 →
      exec (.loadBlock ⟨.supervisor, g⟩ items) s = .next (s.send .supervisor g Kind.loadBlock.code .malformed)) ∧
    (first + count - 1 ≤ 999999999 → 32 ≤ s.pool.blocks.length →
      exec (.loadBlock ⟨.supervisor, g⟩ items) s = .next (s.send .supervisor g Kind.loadBlock.code .limit)) ∧
    (first + count - 1 ≤ 999999999 → s.pool.blocks.length < 32 →
      (∃ n, first ≤ n ∧ n ≤ first + count - 1 ∧
        ((∃ b ∈ s.pool.blocks, b.first ≤ n ∧ n ≤ b.last) ∨
          ∃ x, s.table.index.get n = some x ∧ (x.failed = true ∨ x.sound = true))) →
      exec (.loadBlock ⟨.supervisor, g⟩ items) s = .next (s.send .supervisor g Kind.loadBlock.code .overlap)) ∧
    (first + count - 1 ≤ 999999999 → s.pool.blocks.length < 32 →
      (∀ b ∈ s.pool.blocks, b.last < first ∨ first + count - 1 < b.first) →
      ∀ before serial x after, s.table.index.cells = before ++ (serial, x) :: after → x.failed = false →
        x.sound = false →
        (∀ c ∈ before ++ after, (c.1 < first ∨ first + count - 1 < c.1) ∧ (c.2.failed = true ∨ c.2.sound = true)) →
        (∀ slot r, s.carrier serial = some slot → s.record slot = some r → (∀ l, r.body ≠ .damaged l) →
          s.unitOn (s.handleAt slot) = none → (∀ y ∈ s.queue, y.handle ≠ s.handleAt slot) →
          exec (.loadBlock ⟨.supervisor, g⟩ items) s =
            .next ((((((s.putIndex serial { x with failed := true }).putRecord slot ⟨r.owner,
              (r.changeCount + 1) % 65536, false, false, true, .damaged r.body.label⟩).releaseBodyPin r.body).report
              (.indexEntry serial (some (s.handleAt slot))) .supervisor).judge).send .supervisor g Kind.loadBlock.code
              (.damaged (.indexEntry serial (some (s.handleAt slot)))))) ∧
        (∀ slot r l, s.carrier serial = some slot → s.record slot = some r → r.body = .damaged l →
          exec (.loadBlock ⟨.supervisor, g⟩ items) s =
            .next ((((s.putIndex serial { x with failed := true }).report (.indexEntry serial (some (s.handleAt slot)))
              .supervisor).judge).send .supervisor g Kind.loadBlock.code
              (.damaged (.indexEntry serial (some (s.handleAt slot)))))) ∧
        (s.carrier serial = none →
          exec (.loadBlock ⟨.supervisor, g⟩ items) s =
            .next ((((s.putIndex serial { x with failed := true }).report (.indexEntry serial none)
              .supervisor).judge).send .supervisor g Kind.loadBlock.code (.damaged (.indexEntry serial none))))) ∧
    (first + count - 1 ≤ 999999999 → s.pool.blocks.length < 32 →
      (∀ b ∈ s.pool.blocks, b.last < first ∨ first + count - 1 < b.first) →
      (∀ c ∈ s.table.index.cells, (c.1 < first ∨ first + count - 1 < c.1) ∧
        (c.2.failed = true ∨ c.2.sound = true)) →
      exec (.loadBlock ⟨.supervisor, g⟩ items) s =
        .next ((State.judge { s with pool := ⟨s.pool.blocks ++ [⟨first, first + count - 1, first⟩],
          s.pool.threshold⟩ }).send .supervisor g Kind.loadBlock.code
          (.done (.pool (s.pool.blocks.length + 1) (s.pool.remaining + count)))))

/-- R143: the check character of a serial is the weighted sum of its nine digits modulo 11, and it is the one a label
is built with. -/
def Obligations.CheckCharacterOfASerial : Prop :=
  (∀ d1 d2 d3 d4 d5 d6 d7 d8 d9 : Nat, d1 < 10 → d2 < 10 → d3 < 10 → d4 < 10 → d5 < 10 → d6 < 10 → d7 < 10 → d8 < 10 →
    d9 < 10 →
    checkCharacter (d1 * 100000000 + d2 * 10000000 + d3 * 1000000 + d4 * 100000 + d5 * 10000 + d6 * 1000 + d7 * 100 +
      d8 * 10 + d9) =
      (d1 * 3 + d2 * 7 + d3 * 1 + d4 * 3 + d5 * 7 + d6 * 1 + d7 * 3 + d8 * 7 + d9 * 1) % 11) ∧
  ∀ (service : Service) (z : Zone) (serial time : Nat),
    (labelFor service z serial time).check = checkCharacter serial ∧ checkCharacter serial ≤ 10

/-! ### Changing the tariff -/

/-- R147: BANK CLEAR, BANK WRITE, BANK COPY, BANK VERIFY, SCHEDULE SWITCH and UNSCHEDULE are refused BANK STATE, naming the
bank and its state, in the states the table does not give them, with neither bank changed. -/
def Obligations.BankRequestsNeedTheirState : Prop :=
  ∀ (k : Kind) (g : Tag) (items : List Item) (s : State) (l : BankLetter),
    k ∈ [.bankClear, .bankWrite, .bankCopy, .bankVerify, .scheduleSwitch, .unschedule] →
    s.Serves k .supervisor items → bankOf items = some l →
    (k = .bankClear ∨ k = .bankCopy → (s.bank l).state.name ∉ [.empty, .loading, .verified, .stale]) →
    (k = .bankWrite → (s.bank l).state.name ∉ [.empty, .loading, .verified]) →
    (k = .bankVerify → (s.bank l).state.name ≠ .loading) →
    (k = .scheduleSwitch → (s.bank l).state.name ≠ .verified) →
    (k = .unschedule → (s.bank l).state.name ≠ .scheduled) →
    exec (requestCommand k ⟨.supervisor, g⟩ items) s =
      .next (s.send .supervisor g k.code (.bankState l (s.bank l).state.name))

/-- R148, R149: BANK CLEAR gives a bank in EMPTY, LOADING, VERIFIED or STALE the cleared content of R23; a BANK WRITE whose
content is taken replaces the named entry whole, leaves the bank LOADING, and lowers the damaged-entry count where the
entry carried a mark; one that is not (bankWriteOf answers none) is MALFORMED: a position or parameter out of its range, a
use byte or enumerated field with an unlisted code, and, by the model's choice (log entry 13), a selector or table letter
other than N and H. What a segment, a zone place, a limit and a descriptor head of each of the five kinds store, list entries
in their order (R199). What a flag byte other than 0 and 1 stores is a free value (log entry 13). R150, R38: BANK COPY is refused NO
EDITION with no bank ACTIVE; with every read of the ACTIVE bank passing the target takes its parameters, limits and
undamaged entries and is LOADING; the first failing read, in the order segments, zone places, N slots, H slots, damages the
source's entry, is reported and leaves the target. -/
def Obligations.BankClearWriteAndCopy : Prop :=
  (∀ (g : Tag) (items : List Item) (s : State) (l : BankLetter),
    s.Serves .bankClear .supervisor items → bankOf items = some l →
    (s.bank l).state.name ∈ [.empty, .loading, .verified, .stale] →
    exec (.bankClear ⟨.supervisor, g⟩ items) s =
      .next ((s.setBank l ⟨.empty, ⟨0, 0, 0⟩, ⟨[]⟩, ⟨[]⟩, 1, ⟨[]⟩, 0, ⟨[]⟩, 0, 0⟩).judge.send .supervisor g
        Kind.bankClear.code (.done .plain))) ∧
  (∀ (g : Tag) (items : List Item) (s : State) (l : BankLetter) (w : BankWrite),
    s.Serves .bankWrite .supervisor items → bankOf items = some l →
    (s.bank l).state.name ∈ [.empty, .loading, .verified] →
    (bankWriteOf items = none →
      exec (.bankWrite ⟨.supervisor, g⟩ items) s =
        .next (s.send .supervisor g Kind.bankWrite.code .malformed)) ∧
    (bankWriteOf items = some w →
      exec (.bankWrite ⟨.supervisor, g⟩ items) s =
        .next ((s.setBank l ((s.bank l).takeWrite w)).judge.send .supervisor g Kind.bankWrite.code
          (.done (.bankWritten .loading ((s.bank l).takeWrite w).damagedCount))))) ∧
  (∀ items : List Item,
    (∀ x m y, writeOfItem items (.parameters x m y) =
      if x ≤ 500 ∧ m ≤ 100 ∧ y ≤ 5000000 then some (.parameters ⟨x, m, y⟩) else none) ∧
    (∀ n u f l bl bi x, 31 < n → writeOfItem items (.segment n u f l bl bi x) = none) ∧
    (∀ n f l bl bi x, n ≤ 31 → writeOfItem items (.segment n 0 f l bl bi x) = some (.segment n none)) ∧
    (∀ n f l index x, n ≤ 31 →
      (x ≤ 31 → writeOfItem items (.segment n 1 f l 0x4E index x) =
        some (.segment n (some ⟨f, l, ⟨.n, index⟩, some x⟩))) ∧
      (x ≤ 31 → writeOfItem items (.segment n 1 f l 0x48 index x) =
        some (.segment n (some ⟨f, l, ⟨.h, index⟩, some x⟩))) ∧
      writeOfItem items (.segment n 1 f l 0x4E index 255) = some (.segment n (some ⟨f, l, ⟨.n, index⟩, none⟩)) ∧
      writeOfItem items (.segment n 1 f l 0x48 index 255) = some (.segment n (some ⟨f, l, ⟨.h, index⟩, none⟩)) ∧
      (∀ bl, 31 < x → x ≠ 255 → writeOfItem items (.segment n 1 f l bl index x) = none) ∧
      (∀ bl, bl ≠ 0x4E → bl ≠ 0x48 → writeOfItem items (.segment n 1 f l bl index x) = none) ∧
      ∀ u bl, 1 < u → writeOfItem items (.segment n u f l bl index x) = none) ∧
    (∀ n u l h z c, 255 < n → writeOfItem items (.zonePlace n u l h z c) = none) ∧
    (∀ n l h z c, n ≤ 255 → writeOfItem items (.zonePlace n 0 l h z c) = some (.place n none) ∧
      writeOfItem items (.zonePlace n 1 l h z c) = some (.place n (some ⟨l, h, z, c⟩)) ∧
      ∀ u, 1 < u → writeOfItem items (.zonePlace n u l h z c) = none) ∧
    (∀ n, writeOfItem items (.tableLimit 0x4E n) = (if 1 ≤ n ∧ n ≤ 1024 then some (.limit .n n) else none) ∧
      writeOfItem items (.tableLimit 0x48 n) = (if n ≤ 256 then some (.limit .h n) else none) ∧
      ∀ letter, letter ≠ 0x4E → letter ≠ 0x48 → writeOfItem items (.tableLimit letter n) = none) ∧
    (∀ n k fields, n = 0 ∨ 1023 < n → writeOfItem items (.descriptorHead 0x4E n k fields) = none) ∧
    (∀ n k fields, 255 < n → writeOfItem items (.descriptorHead 0x48 n k fields) = none) ∧
    (∀ letter n k fields, letter ≠ 0x4E → letter ≠ 0x48 →
      writeOfItem items (.descriptorHead letter n k fields) = none) ∧
    ∀ n k fields,
      (1 ≤ n → n ≤ 1023 → writeOfItem items (.descriptorHead 0x4E n k fields) =
        (descriptorOf k fields items).map fun x => .slot ⟨.n, n⟩ x.1 x.2) ∧
      (n ≤ 255 → writeOfItem items (.descriptorHead 0x48 n k fields) =
        (descriptorOf k fields items).map fun x => .slot ⟨.h, n⟩ x.1 x.2)) ∧
  (∀ (items : List Item) (g p c1 c2 sc v cu m c f b0 b1 b2 b3 a0 a1 a2 a3 : Byte),
    descriptorOf 0 [] items = some (.empty, false) ∧
    (∀ scope rate list, scopeOfByte sc = some scope → selectorFrom b0.toNat (natOfBytes [b1, b2]) = some rate →
      listedSelectors items = some list →
      descriptorOf 1 [g, p, c1, c2, sc, v, cu, b0, b1, b2] items =
        some (.service ⟨g.toNat, (c1.toNat, c2.toNat), scope, flagOfByte v, flagOfByte cu, rate, list⟩,
          flagOfByte p)) ∧
    (scopeOfByte sc = none ∨ selectorFrom b0.toNat (natOfBytes [b1, b2]) = none ∨ listedSelectors items = none →
      descriptorOf 1 [g, p, c1, c2, sc, v, cu, b0, b1, b2] items = none) ∧
    descriptorOf 2 [g, p, b0, b1, b2] items =
      (selectorFrom b0.toNat (natOfBytes [b1, b2])).map (fun x => (.redirect g.toNat x, flagOfByte p)) ∧
    descriptorOf 3 [p] items = some (.rate (listedBands items), flagOfByte p) ∧
    (∀ measure comparison amount, measureOfByte m = some measure → comparisonOfByte c = some comparison →
      amountOf f (natOfBytes [a0, a1, a2, a3]) = some amount →
      descriptorOf 4 [g, p, m, c, b0, b1, b2, b3, f, a0, a1, a2, a3] items =
        some (.surcharge ⟨g.toNat, measure, comparison, natOfBytes [b0, b1, b2, b3], amount⟩, flagOfByte p)) ∧
    (measureOfByte m = none ∨ comparisonOfByte c = none ∨ amountOf f (natOfBytes [a0, a1, a2, a3]) = none →
      descriptorOf 4 [g, p, m, c, b0, b1, b2, b3, f, a0, a1, a2, a3] items = none) ∧
    ∀ kind fields, 4 < kind → descriptorOf kind fields items = none) ∧
  (∀ (x : Byte) (n : Nat),
    scopeOfByte x = (if x.toNat = 0 then none else [Scope.domestic, .international, .both][x.toNat - 1]?) ∧
    measureOfByte x = (if x.toNat = 0 then none else
      [Measure.chargeableMass, .longestSide, .girth, .declaredValue, .zone][x.toNat - 1]?) ∧
    comparisonOfByte x =
      [Comparison.always, .above, .atLeast, .below, .atMost, .equal, .notEqual][x.toNat]? ∧
    (x.toNat = 1 → n < 2147483648 → amountOf x n = some (.fixed n)) ∧
    (x.toNat = 1 → 2147483648 ≤ n → amountOf x n = some (.fixed ((n : Int) - 4294967296))) ∧
    (x.toNat = 2 → amountOf x n = some (.perMille n)) ∧ (x.toNat ≠ 1 → x.toNat ≠ 2 → amountOf x n = none) ∧
    flagOfByte 0 = false ∧ flagOfByte 1 = true ∧ selectorFrom 0x4E n = some ⟨.n, n⟩ ∧
    selectorFrom 0x48 n = some ⟨.h, n⟩ ∧ ∀ letter, letter ≠ 0x4E → letter ≠ 0x48 → selectorFrom letter n = none) ∧
  (∀ (rest : List Item) (item : Item) (letter n : Nat) (prices : List Nat),
    listedSelectors [] = some [] ∧ listedBands [] = [] ∧
    (∀ sel, selectorFrom letter n = some sel →
      listedSelectors (.listSelector letter n :: rest) = (listedSelectors rest).map (sel :: ·)) ∧
    (selectorFrom letter n = none → listedSelectors (.listSelector letter n :: rest) = none) ∧
    ((∀ l i, item ≠ .listSelector l i) → listedSelectors (item :: rest) = listedSelectors rest) ∧
    listedBands (.listBand n prices :: rest) = ⟨n, prices⟩ :: listedBands rest ∧
    ((∀ l ps, item ≠ .listBand l ps) → listedBands (item :: rest) = listedBands rest)) ∧
  (∀ (b : Bank) (w : BankWrite), b.canonical = true →
    (b.takeWrite w).state = .loading ∧ (b.takeWrite w).pins = b.pins ∧
    (∀ x, w = .parameters x → (b.takeWrite w).parameters = x ∧ (b.takeWrite w).damagedCount = b.damagedCount) ∧
    (∀ n x, w = .segment n x → (b.takeWrite w).segmentCell n = ⟨x, false, true⟩ ∧
      (∀ m, m ≠ n → (b.takeWrite w).segmentCell m = b.segmentCell m) ∧
      (b.takeWrite w).damagedCount = (if (b.segmentCell n).damaged then b.damagedCount - 1 else b.damagedCount)) ∧
    (∀ n x, w = .place n x → (b.takeWrite w).placeCell n = ⟨x, false, true⟩ ∧
      (∀ m, m ≠ n → (b.takeWrite w).placeCell m = b.placeCell m) ∧
      (b.takeWrite w).damagedCount = (if (b.placeCell n).damaged then b.damagedCount - 1 else b.damagedCount)) ∧
    (∀ t n, w = .limit t n → (b.takeWrite w).limit t = n ∧ ∀ sel, (b.takeWrite w).slotCell sel = b.slotCell sel) ∧
    (∀ sel x present, w = .slot sel x present → (b.takeWrite w).slotCell sel = ⟨x, present, false, true⟩ ∧
      (∀ o, o ≠ sel → (b.takeWrite w).slotCell o = b.slotCell o) ∧
      (b.takeWrite w).damagedCount = (if (b.slotCell sel).damaged then b.damagedCount - 1 else b.damagedCount))) ∧
  (∀ (g : Tag) (items : List Item) (s : State) (l : BankLetter),
    s.Serves .bankCopy .supervisor items → bankOf items = some l →
    (s.bank l).state.name ∈ [.empty, .loading, .verified, .stale] →
    (s.activeBank = none →
      exec (.bankCopy ⟨.supervisor, g⟩ items) s = .next (s.send .supervisor g Kind.bankCopy.code .noEdition)) ∧
    (∀ source edition, s.activeBank = some source → (s.bank source).state = .active edition →
      (∀ c ∈ (s.bank source).segments.cells, c.2.damaged = true ∨ c.2.sound = true) →
      (∀ c ∈ (s.bank source).zones.cells, c.2.damaged = true ∨ c.2.sound = true) →
      (∀ c ∈ (s.bank source).nSlots.cells, c.2.damaged = true ∨ c.2.sound = true) →
      (∀ c ∈ (s.bank source).hSlots.cells, c.2.damaged = true ∨ c.2.sound = true) →
      exec (.bankCopy ⟨.supervisor, g⟩ items) s =
        .next ((s.setBank l (s.bank source).copyOf).judge.send .supervisor g Kind.bankCopy.code
          (.done (.edition edition)))) ∧
    (∀ source x, s.activeBank = some source → (s.bank source).firstFailing = some x →
      exec (.bankCopy ⟨.supervisor, g⟩ items) s =
        .next ((s.failBankEntry source x .supervisor none).judge.send .supervisor g Kind.bankCopy.code
          (.damaged (.bankEntry source x))))) ∧
  (∀ b : Bank, b.canonical = true →
    (∀ n, (b.segmentCell n).fails = true → (∀ m, m < n → (b.segmentCell m).fails = false) →
      b.firstFailing = some (.segment n)) ∧
    ((∀ m, (b.segmentCell m).fails = false) →
      (∀ n, (b.placeCell n).fails = true → (∀ m, m < n → (b.placeCell m).fails = false) →
        b.firstFailing = some (.place n)) ∧
      ((∀ m, (b.placeCell m).fails = false) →
        (∀ n, 1 ≤ n → (b.slotCell ⟨.n, n⟩).fails = true →
          (∀ m, 1 ≤ m → m < n → (b.slotCell ⟨.n, m⟩).fails = false) → b.firstFailing = some (.slot ⟨.n, n⟩)) ∧
        ((∀ m, 1 ≤ m → (b.slotCell ⟨.n, m⟩).fails = false) →
          (∀ n, (b.slotCell ⟨.h, n⟩).fails = true → (∀ m, m < n → (b.slotCell ⟨.h, m⟩).fails = false) →
            b.firstFailing = some (.slot ⟨.h, n⟩)) ∧
          ((∀ m, (b.slotCell ⟨.h, m⟩).fails = false) → b.firstFailing = none))))) ∧
  (∀ (c : Cell Segment) (d : SlotCell), (c.fails = true ↔ c.damaged = false ∧ c.sound = false) ∧
    (d.fails = true ↔ d.damaged = false ∧ d.sound = false)) ∧
  ∀ b : Bank, b.canonical = true → b.copyOf.state = .loading ∧ b.copyOf.parameters = b.parameters ∧
      b.copyOf.nLimit = b.nLimit ∧ b.copyOf.hLimit = b.hLimit ∧ b.copyOf.pins = 0 ∧ b.copyOf.damagedCount = 0 ∧
      (∀ n, b.copyOf.segmentCell n = if (b.segmentCell n).damaged then .unused else b.segmentCell n) ∧
      (∀ n, b.copyOf.placeCell n = if (b.placeCell n).damaged then .unused else b.placeCell n) ∧
      ∀ sel, sel ≠ ⟨.n, 0⟩ → b.copyOf.slotCell sel = if (b.slotCell sel).damaged then .empty else b.slotCell sel

/-- R151, R152: BANK VERIFY refuses the other bank's number; else it stops at the first finding of its steps 2 to 5, in
their order; with no finding the bank becomes VERIFIED with the number. What each step answers at each segment, at each
segment along the chain, at each place and at each slot below the limit: the damaged mark, the failing read, the form, a
chain that reaches a segment twice, a zone out of order. The forms of the four kinds. A bank in form is passed: no damaged
mark, every check passing, every form kept, the chain ended and the zones in order; a bank passed has all of these but the
chain's end, which its own step states. -/
def Obligations.BankVerifyStopsAtTheFirstFinding : Prop :=
  (∀ (g : Tag) (items : List Item) (s : State) (l : BankLetter) (number : Nat),
    s.Serves .bankVerify .supervisor items → bankOf items = some l → editionNumberOf items = some number →
    (s.bank l).state = .loading →
    ((s.bank (otherBank l)).state.edition = some number →
      exec (.bankVerify ⟨.supervisor, g⟩ items) s =
        .next (s.send .supervisor g Kind.bankVerify.code
          (.malformedEdition .editionNumber (.bank (otherBank l))))) ∧
    ((s.bank (otherBank l)).state.edition ≠ some number →
      ((s.bank l).examine = none →
        exec (.bankVerify ⟨.supervisor, g⟩ items) s =
          .next ((s.setBank l { s.bank l with state := .verified number }).judge.send .supervisor g
            Kind.bankVerify.code (.done (.edition number)))) ∧
      (∀ x, (s.bank l).examine = some (.marked x) →
        exec (.bankVerify ⟨.supervisor, g⟩ items) s =
          .next (s.send .supervisor g Kind.bankVerify.code (.damaged (.bankEntry l x)))) ∧
      (∀ x, (s.bank l).examine = some (.badRead x) →
        exec (.bankVerify ⟨.supervisor, g⟩ items) s =
          .next ((s.failBankEntry l x .supervisor none).judge.send .supervisor g Kind.bankVerify.code
            (.damaged (.bankEntry l x)))) ∧
      (∀ reason x, (s.bank l).examine = some (.malformed reason x) →
        exec (.bankVerify ⟨.supervisor, g⟩ items) s =
          .next (s.send .supervisor g Kind.bankVerify.code (.malformedEdition reason x))))) ∧
  (∀ b : Bank,
    (∀ x, verifySegments b.segments.cells = some x → b.examine = some x) ∧
    (verifySegments b.segments.cells = none →
      (∀ x, verifyChain b 33 [] 0 = some x → b.examine = some x) ∧
      (verifyChain b 33 [] 0 = none →
        (∀ x, verifyPlaces none b.zones.cells = some x → b.examine = some x) ∧
        (verifyPlaces none b.zones.cells = none →
          (∀ x, verifySlots .n 1 b.nLimit b.nSlots.cells = some x → b.examine = some x) ∧
          (verifySlots .n 1 b.nLimit b.nSlots.cells = none →
            b.examine = verifySlots .h 0 b.hLimit b.hSlots.cells))))) ∧
  (∀ (n : Nat) (c : Cell Segment) (rest : List (Nat × Cell Segment)), verifySegments [] = none ∧
    (c.damaged = true → verifySegments ((n, c) :: rest) = some (.marked (.segment n))) ∧
    (c.damaged = false → c.sound = false → verifySegments ((n, c) :: rest) = some (.badRead (.segment n))) ∧
    (c.damaged = false → c.sound = true →
      (c.content = none → verifySegments ((n, c) :: rest) = verifySegments rest) ∧
      ∀ x, c.content = some x → verifySegments ((n, c) :: rest) =
        if 1 ≤ x.first ∧ x.first ≤ x.last ∧ x.last ≤ 999 then verifySegments rest
        else some (.malformed .segmentForm (.entry (.segment n))))) ∧
  (∀ (b : Bank) (fuel : Nat) (reached : List Nat) (n : Nat),
    (n ∈ reached → verifyChain b (fuel + 1) reached n = some (.malformed .chain (.entry (.segment n)))) ∧
    (n ∉ reached →
      ((b.segmentCell n).content = none → verifyChain b (fuel + 1) reached n = none) ∧
      ∀ x, (b.segmentCell n).content = some x →
        (x.next = none → verifyChain b (fuel + 1) reached n = none) ∧
        ∀ m, x.next = some m → verifyChain b (fuel + 1) reached n = verifyChain b fuel (n :: reached) m)) ∧
  (∀ (before : Option Nat) (n : Nat) (c : Cell Zone) (rest : List (Nat × Cell Zone)), verifyPlaces before [] = none ∧
    (c.damaged = true → verifyPlaces before ((n, c) :: rest) = some (.marked (.place n))) ∧
    (c.damaged = false → c.sound = false → verifyPlaces before ((n, c) :: rest) = some (.badRead (.place n))) ∧
    (c.damaged = false → c.sound = true →
      (c.content = none → verifyPlaces before ((n, c) :: rest) = verifyPlaces before rest) ∧
      ∀ z, c.content = some z →
        (¬(z.low ≤ z.high ∧ z.high ≤ 10999 ∧ 1 ≤ z.zone ∧ z.zone ≤ 12 ∧ z.sortCode ≤ 999) →
          verifyPlaces before ((n, c) :: rest) = some (.malformed .zoneForm (.entry (.place n)))) ∧
        (z.low ≤ z.high → z.high ≤ 10999 → 1 ≤ z.zone → z.zone ≤ 12 → z.sortCode ≤ 999 →
          (∀ h, before = some h → z.low ≤ h →
            verifyPlaces before ((n, c) :: rest) = some (.malformed .zoneOrder (.entry (.place n)))) ∧
          ((∀ h, before = some h → h < z.low) →
            verifyPlaces before ((n, c) :: rest) = verifyPlaces (some z.high) rest)))) ∧
  (∀ (t : TableLetter) (first limit n : Nat) (c : SlotCell) (rest : List (Nat × SlotCell)),
    verifySlots t first limit [] = none ∧
    (n < first ∨ limit ≤ n → verifySlots t first limit ((n, c) :: rest) = verifySlots t first limit rest) ∧
    (first ≤ n → n < limit →
      (c.damaged = true → verifySlots t first limit ((n, c) :: rest) = some (.marked (.slot ⟨t, n⟩))) ∧
      (c.damaged = false → c.sound = false →
        verifySlots t first limit ((n, c) :: rest) = some (.badRead (.slot ⟨t, n⟩))) ∧
      (c.damaged = false → c.sound = true →
        (∀ reason, c.content.outOfForm = some reason →
          verifySlots t first limit ((n, c) :: rest) = some (.malformed reason (.entry (.slot ⟨t, n⟩)))) ∧
        (c.content.outOfForm = none →
          verifySlots t first limit ((n, c) :: rest) = verifySlots t first limit rest)))) ∧
  (∀ (service : Service) (grade : Nat) (target : Selector) (bands : List Band) (x : Surcharge),
    Descriptor.empty.outOfForm = none ∧
    (Descriptor.service service).outOfForm =
      (if service.grade ≤ 3 ∧ 65 ≤ service.letters.1 ∧ service.letters.1 ≤ 90 ∧ 65 ≤ service.letters.2 ∧
          service.letters.2 ≤ 90 ∧ service.surcharges.length ≤ 6 then none else some .serviceForm) ∧
    (Descriptor.redirect grade target).outOfForm = (if grade ≤ 3 then none else some .redirectForm) ∧
    ((Descriptor.rate bands).outOfForm = none ∨ (Descriptor.rate bands).outOfForm = some .rateForm) ∧
    ((Descriptor.rate bands).outOfForm = none ↔ 1 ≤ bands.length ∧ bands.length ≤ 8 ∧
      (∀ y ∈ bands, 1 ≤ y.limit ∧ y.limit ≤ 40000 ∧ ∀ n ∈ y.prices, n ≤ 9999999) ∧
      bands.Pairwise fun y z => y.limit < z.limit) ∧
    ((Descriptor.surcharge x).outOfForm = none ∨ (Descriptor.surcharge x).outOfForm = some .surchargeForm) ∧
    ((Descriptor.surcharge x).outOfForm = none ↔ x.grade ≤ 3 ∧ x.threshold ≤ 99999999 ∧
      (∀ n, x.amount = .fixed n → -999999 ≤ n ∧ n ≤ 999999) ∧ ∀ n, x.amount = .perMille n → n ≤ 1000)) ∧
  (∀ b : Bank,
    (∀ c ∈ b.segments.cells, c.2.damaged = false ∧ c.2.sound = true ∧ ∀ x, c.2.content = some x →
      1 ≤ x.first ∧ x.first ≤ x.last ∧ x.last ≤ 999) →
    (∃ path : List Nat, path.head? = some 0 ∧ path.Nodup ∧ path.length ≤ 32 ∧
      ∀ (i m : Nat), path[i]? = some m →
        (path[i + 1]? = none → ∀ x, (b.segmentCell m).content = some x → x.next = none) ∧
        ∀ k, path[i + 1]? = some k → ∃ x, (b.segmentCell m).content = some x ∧ x.next = some k) →
    (∀ c ∈ b.zones.cells, c.2.damaged = false ∧ c.2.sound = true ∧ ∀ z, c.2.content = some z →
      z.low ≤ z.high ∧ z.high ≤ 10999 ∧ 1 ≤ z.zone ∧ z.zone ≤ 12 ∧ z.sortCode ≤ 999) →
    ((b.zones.cells.filterMap fun c => c.2.content).Pairwise fun x y => x.high < y.low) →
    (∀ c ∈ b.nSlots.cells, 1 ≤ c.1 → c.1 < b.nLimit → c.2.damaged = false ∧ c.2.sound = true ∧
      c.2.content.outOfForm = none) →
    (∀ c ∈ b.hSlots.cells, c.1 < b.hLimit → c.2.damaged = false ∧ c.2.sound = true ∧
      c.2.content.outOfForm = none) →
    b.examine = none) ∧
  ∀ b : Bank, b.examine = none →
    (∀ c ∈ b.segments.cells, c.2.damaged = false ∧ c.2.sound = true ∧ ∀ x, c.2.content = some x →
      1 ≤ x.first ∧ x.first ≤ x.last ∧ x.last ≤ 999) ∧
    (∀ c ∈ b.zones.cells, c.2.damaged = false ∧ c.2.sound = true ∧ ∀ z, c.2.content = some z →
      z.low ≤ z.high ∧ z.high ≤ 10999 ∧ 1 ≤ z.zone ∧ z.zone ≤ 12 ∧ z.sortCode ≤ 999) ∧
    ((b.zones.cells.filterMap fun c => c.2.content).Pairwise fun x y => x.high < y.low) ∧
    (∀ c ∈ b.nSlots.cells, 1 ≤ c.1 → c.1 < b.nLimit → c.2.damaged = false ∧ c.2.sound = true ∧
      c.2.content.outOfForm = none) ∧
    (∀ c ∈ b.hSlots.cells, c.1 < b.hLimit → c.2.damaged = false ∧ c.2.sound = true ∧
      c.2.content.outOfForm = none)

/-- R153: SCHEDULE SWITCH makes a VERIFIED bank SCHEDULED where the effective time lies ahead, takes the switch in the
same step where it is reached, and is refused BANK STATE where the other bank is SCHEDULED; UNSCHEDULE returns a SCHEDULED
bank to VERIFIED. R153 lists no content for the DONE of a switch that lies ahead: that it carries the bank state SCHEDULED is the model's choice (log entry 33). -/
def Obligations.SwitchesAreScheduled : Prop :=
  (∀ (g : Tag) (items : List Item) (s : State) (l : BankLetter) (edition effective grace : Nat),
    s.Serves .scheduleSwitch .supervisor items → bankOf items = some l → hallTimeOf items = some effective →
    graceOf items = some grace → (s.bank l).state = .verified edition →
    ((s.bank (otherBank l)).state.name = .scheduled →
      exec (.scheduleSwitch ⟨.supervisor, g⟩ items) s =
        .next (s.send .supervisor g Kind.scheduleSwitch.code (.bankState (otherBank l) .scheduled))) ∧
    ((s.bank (otherBank l)).state.name ≠ .scheduled → s.hallTime < effective →
      exec (.scheduleSwitch ⟨.supervisor, g⟩ items) s =
        .next ((s.setBank l { s.bank l with state := .scheduled edition effective grace }).judge.send .supervisor g
          Kind.scheduleSwitch.code (.done (.bank .scheduled)))) ∧
    ((s.bank (otherBank l)).state.name ≠ .scheduled → effective ≤ s.hallTime →
      exec (.scheduleSwitch ⟨.supervisor, g⟩ items) s =
        .next (((s.setBank l { s.bank l with state := .scheduled edition effective grace }).takeSwitch
          l).judge.send .supervisor g Kind.scheduleSwitch.code (.done (.bank .active))))) ∧
  ∀ (g : Tag) (items : List Item) (s : State) (l : BankLetter) (edition effective grace : Nat),
    s.Serves .unschedule .supervisor items → bankOf items = some l →
    (s.bank l).state = .scheduled edition effective grace →
    exec (.unschedule ⟨.supervisor, g⟩ items) s =
      .next ((s.setBank l { s.bank l with state := .verified edition }).judge.send .supervisor g
        Kind.unschedule.code (.done .plain))

/-- R154: the switch of a SCHEDULED bank whose effective time is reached: it becomes ACTIVE; an ACTIVE other bank
becomes RETIRING with the grace where it has pins and STALE where it has none; SWITCH TAKEN is raised; no record
changes. With a grace of 0 and pins the grace expires in the same step (step 4), as `GraceExpiryLapsesQuotes` says: each RATED
record whose quote names the outgoing bank returns to DRAFT, or becomes DAMAGED where its read fails (R177), and every other
record stays; what becomes of the two banks is stated for failing records with neither job nor entry, as R18 has RATED ones.
That SWITCH leaves the state
before the effective time, and with no bank SCHEDULED, is log entry 2 (an event command without effect). -/
def Obligations.SwitchTakesEffect : Prop :=
  (∀ (s : State) (l : BankLetter) (edition effective grace : Nat),
    (s.bank l).state = .scheduled edition effective grace →
    (s.bank (otherBank l)).state.isActive = false →
      s.takeSwitch l = (s.setBank l { s.bank l with state := .active edition }).raise .switchTaken) ∧
  (∀ (s : State) (l : BankLetter) (edition effective grace old : Nat),
    (s.bank l).state = .scheduled edition effective grace → (s.bank (otherBank l)).state = .active old →
    ((s.bank (otherBank l)).pins = 0 →
      s.takeSwitch l = ((s.setBank l { s.bank l with state := .active edition }).setBank (otherBank l)
        { s.bank (otherBank l) with state := .stale old }).raise .switchTaken) ∧
    (0 < (s.bank (otherBank l)).pins → 0 < grace →
      s.takeSwitch l = ((s.setBank l { s.bank l with state := .active edition }).setBank (otherBank l)
        { s.bank (otherBank l) with state := .retiring old (.running grace) }).raise .switchTaken) ∧
    (0 < (s.bank (otherBank l)).pins → grace = 0 →
      s.takeSwitch l = (((s.setBank l { s.bank l with state := .active edition }).setBank (otherBank l)
        { s.bank (otherBank l) with state := .retiring old (.running 0) }).raise .switchTaken).expireGrace
          (otherBank l)) ∧
    (0 < (s.bank (otherBank l)).pins → grace = 0 → s.canonical = true →
      ((∀ n r e q, s.record n = some r → r.sound = false → r.body = .rated e q → q.bank = otherBank l →
          s.unitOn (s.handleAt n) = none ∧ ∀ y ∈ s.queue, y.handle ≠ s.handleAt n) →
        (s.takeSwitch l).bank l = { s.bank l with state := .active edition } ∧
        (s.ratedCount (otherBank l) < (s.bank (otherBank l)).pins → (s.takeSwitch l).bank (otherBank l) =
          { s.bank (otherBank l) with
            state := .retiring old .expired
            pins := (s.bank (otherBank l)).pins - s.ratedCount (otherBank l) }) ∧
        ((s.bank (otherBank l)).pins ≤ s.ratedCount (otherBank l) → (s.takeSwitch l).bank (otherBank l) =
          { s.bank (otherBank l) with state := .stale old, pins := 0 })) ∧
      (∀ n r e q, s.record n = some r → r.body = .rated e q → q.bank = otherBank l →
        (r.sound = true → (s.takeSwitch l).record n = some { r with
          changeCount := (r.changeCount + 1) % 65536, sound := true, body := .draft e }) ∧
        (r.sound = false → (s.takeSwitch l).record n =
          some ⟨r.owner, (r.changeCount + 1) % 65536, false, false, true, .damaged none⟩)) ∧
      ∀ n, (∀ r e q, s.record n = some r → r.body = .rated e q → q.bank ≠ otherBank l) →
        (s.takeSwitch l).record n = s.record n)) ∧
  ∀ (s : State), s.Live →
    (∀ l edition effective grace, (s.bank l).state = .scheduled edition effective grace →
      (s.bank (otherBank l)).state.name ≠ .scheduled →
      (effective ≤ s.hallTime → exec .switch s = .next (s.takeSwitch l).judge) ∧
      (s.hallTime < effective → exec .switch s = .next s)) ∧
    ((∀ l, (s.bank l).state.name ≠ .scheduled) → exec .switch s = .next s)

/-- R157, R156, R41, R177, R178: the grace expiry of a RETIRING bank takes the RATED records whose quote names it one by one,
lowest slot first (the model's choice, log entry 9): each that passes its check returns to DRAFT with its change count advanced
once; each that fails is damaged and reported on its own with GRACE EXPIRY as reader, and the expiry goes on to the next. Every
other record stays, the bank's part becomes "grace expired" or the bank is STALE where no pin is left, and QUOTES LAPSED is
raised where a record returned. What becomes of banks, links, positions, units and queue is stated too for failing records with
neither job nor entry, as R18 has RATED ones; what damage does to a job or an entry is stated by `DamageOfARecord`. The release
of a pin lowers the count by one and drains a RETIRING bank at 0. That GRACE_EXPIRY leaves the state where the bank has no
expiry due is log entry 2 (an event command without effect). -/
def Obligations.GraceExpiryLapsesQuotes : Prop :=
  (∀ (s : State) (l : BankLetter), s.Live →
    ((s.bank l).graceDue = true → exec (.graceExpiry l) s = .next (s.expireGrace l).judge) ∧
    ((s.bank l).graceDue = false → exec (.graceExpiry l) s = .next s)) ∧
  (∀ (s t u w : State) (l : BankLetter), s.canonical = true → t = s.expireGrace l →
    u = s.table.records.cells.foldl (fun u c =>
      match c.2.body with
      | .rated e q =>
        if q.bank = l then
          if c.2.sound then u.toDraft c.1 c.2 e
          else (u.damageRecord c.1 c.2 (.record (s.handleAt c.1))).report (.record (s.handleAt c.1)) .graceExpiry
        else u
      | _ => u) s →
    (∀ edition part, (u.bank l).state = .retiring edition part →
      w = u.setBank l { u.bank l with state := .retiring edition .expired }) →
    ((∀ edition part, (u.bank l).state ≠ .retiring edition part) → w = u) →
    ((∃ n r e q, s.record n = some r ∧ r.sound = true ∧ r.body = .rated e q ∧ q.bank = l) →
      t = w.raise .quotesLapsed) ∧
    ((∀ n r e q, s.record n = some r → r.sound = true → r.body = .rated e q → q.bank ≠ l) → t = w)) ∧
  (∀ (s t : State) (l : BankLetter), s.canonical = true → t = s.expireGrace l →
    (∀ n r e q, s.record n = some r → r.body = .rated e q → q.bank = l →
      (r.sound = true → t.record n = some { r with
        changeCount := (r.changeCount + 1) % 65536, sound := true, body := .draft e }) ∧
      (r.sound = false → t.record n =
        some ⟨r.owner, (r.changeCount + 1) % 65536, false, false, true, .damaged none⟩)) ∧
    (∀ n, (∀ r e q, s.record n = some r → r.body = .rated e q → q.bank ≠ l) → t.record n = s.record n) ∧
    ((∃ n r e q, s.record n = some r ∧ r.sound = true ∧ r.body = .rated e q ∧ q.bank = l) →
      t.judge.attention.pending.quotesLapsed = true) ∧
    t.table.index = s.table.index ∧ t.table.generations = s.table.generations ∧ t.grantState = s.grantState ∧
    t.pool = s.pool ∧ t.hallTime = s.hallTime ∧ t.timers = s.timers ∧
    ((∀ n r e q, s.record n = some r → r.sound = false → r.body = .rated e q → q.bank ≠ l) →
      t.integrity = s.integrity) ∧
    ((∀ n r e q, s.record n = some r → r.sound = false → r.body = .rated e q → q.bank = l →
        s.unitOn (s.handleAt n) = none ∧ ∀ y ∈ s.queue, y.handle ≠ s.handleAt n) →
      (∀ edition part, (s.bank l).state = .retiring edition part →
        (s.ratedCount l < (s.bank l).pins → t.bank l =
          { s.bank l with state := .retiring edition .expired, pins := (s.bank l).pins - s.ratedCount l }) ∧
        (0 < (s.bank l).pins → (s.bank l).pins ≤ s.ratedCount l → t.bank l =
          { s.bank l with state := .stale edition, pins := 0 })) ∧
      t.bank (otherBank l) = s.bank (otherBank l) ∧ t.answers = s.answers ∧ t.links = s.links ∧
      t.positions = s.positions ∧ t.units = s.units ∧ t.queue = s.queue ∧
      t.pendingReweigh = s.pendingReweigh)) ∧
  ∀ (s : State) (l : BankLetter),
    (∀ edition grace, (s.bank l).state = .retiring edition grace → (s.bank l).pins = 1 →
      s.releasePin l = (s.setBank l { s.bank l with pins := 0, state := .stale edition }).raise .bankRetired) ∧
    (1 < (s.bank l).pins → s.releasePin l = s.setBank l { s.bank l with pins := (s.bank l).pins - 1 }) ∧
    ((∀ edition grace, (s.bank l).state ≠ .retiring edition grace) →
      s.releasePin l = s.setBank l { s.bank l with pins := (s.bank l).pins - 1 })

/-- R159: PATCH's checks in order: MALFORMED for a selector no write may name, BANK STATE for a bank not ACTIVE or RETIRING,
MALFORMED at or above the table's limit; else it waits while a unit runs (R75), and with every unit idle it is applied in
the same step (log entry 2). PATCH APPLIED applies the waiting patch when every unit is idle, answers it and returns the
grant state to GRANTING; else it is not taken. R160, R161: what the application does to the bank as it then stands: BANK
STATE where it is no longer ACTIVE or RETIRING; a damaged slot, a slot whose read fails its check, and the table of slot
kinds and changes. That a WITHDRAW of a damaged slot leaves the flag an earlier RESTORE set is the model's choice (log
entry 30), and that the failing read of a patch is reported with the supervisor as reader is its inference (log entry 19). -/
def Obligations.PatchesAreApplied : Prop :=
  (∀ (g : Tag) (items : List Item) (s : State) (l : BankLetter) (sel : Selector) (change : PatchChange) (c : Instr),
    s.Serves .patch .supervisor items → bankOf items = some l → selectorOf items = some sel →
    ((c = .patchWithdraw ⟨.supervisor, g⟩ items ∧ change = .withdraw ∧ patchChangeOf items = some 1) ∨
      (c = .patchRestore ⟨.supervisor, g⟩ items ∧ change = .restore ∧ patchChangeOf items = some 2) ∨
      (c = .patchRegrade ⟨.supervisor, g⟩ items ∧ patchChangeOf items = some 3 ∧
        ∃ n, patchGradeOf items = some n ∧ change = .regrade n)) →
    (writableSlot sel = false → exec c s = .next (s.send .supervisor g Kind.patch.code .malformed)) ∧
    (writableSlot sel = true → (s.bank l).state.name ∉ [.active, .retiring] →
      exec c s = .next (s.send .supervisor g Kind.patch.code (.bankState l (s.bank l).state.name))) ∧
    (writableSlot sel = true → (s.bank l).state.name ∈ [.active, .retiring] → (s.bank l).limit sel.table ≤ sel.index →
      exec c s = .next (s.send .supervisor g Kind.patch.code .malformed)) ∧
    (writableSlot sel = true → (s.bank l).state.name ∈ [.active, .retiring] → sel.index < (s.bank l).limit sel.table →
      (s.allIdle = false →
        exec c s = .next { s.hold .supervisor .patch g with grantState := .patchWait ⟨l, sel, change⟩ }) ∧
      (s.allIdle = true →
        exec c s = .next (State.judge { (s.patchSlot ⟨l, sel, change⟩).1 with grantState := .granting }
          |>.send .supervisor g Kind.patch.code (s.patchSlot ⟨l, sel, change⟩).2)))) ∧
  (∀ n : Nat, (writableSlot ⟨.n, n⟩ = true ↔ 1 ≤ n ∧ n ≤ 1023) ∧ (writableSlot ⟨.h, n⟩ = true ↔ n ≤ 255)) ∧
  (∀ (s : State) (p : Patch), s.Live → s.grantState = .patchWait p →
    (s.allIdle = true → exec .patchApplied s = .next
      (State.answer { (s.patchSlot p).1 with grantState := .granting } .supervisor (s.patchSlot p).2).judge) ∧
    (s.allIdle = false → exec .patchApplied s = .next s)) ∧
  (∀ s : State, s.Live → (∀ p, s.grantState ≠ .patchWait p) → exec .patchApplied s = .next s) ∧
  (∀ (s : State) (p : Patch),
    ((s.bank p.bank).state.name ∉ [.active, .retiring] →
      s.patchSlot p = (s, .bankState p.bank (s.bank p.bank).state.name)) ∧
    ((s.bank p.bank).state.name ∈ [.active, .retiring] →
      (((s.bank p.bank).slotCell p.sel).damaged = true →
        (p.change = .withdraw → s.patchSlot p = (s, .done .plain)) ∧
        (p.change = .restore → s.patchSlot p = (s.setBank p.bank ((s.bank p.bank).putSlot p.sel
          { (s.bank p.bank).slotCell p.sel with present := true, sound := true }), .done .plain)) ∧
        (∀ n, p.change = .regrade n → s.patchSlot p = (s, .damaged (.bankEntry p.bank (.slot p.sel))))) ∧
      (((s.bank p.bank).slotCell p.sel).damaged = false → ((s.bank p.bank).slotCell p.sel).sound = false →
        s.patchSlot p = (s.failBankEntry p.bank (.slot p.sel) .supervisor none,
          .damaged (.bankEntry p.bank (.slot p.sel)))) ∧
      (((s.bank p.bank).slotCell p.sel).damaged = false → ((s.bank p.bank).slotCell p.sel).sound = true →
        (((s.bank p.bank).slotCell p.sel).patched p.change = none → s.patchSlot p = (s, .malformed)) ∧
        ∀ x, ((s.bank p.bank).slotCell p.sel).patched p.change = some x →
          s.patchSlot p = (s.setBank p.bank ((s.bank p.bank).putSlot p.sel x), .done .plain)))) ∧
  ∀ (x : SlotCell) (n : Nat), (x.content = .empty → ∀ change, x.patched change = none) ∧
    (x.content ≠ .empty → x.patched .withdraw = some { x with present := false } ∧
      x.patched .restore = some { x with present := true }) ∧
    (∀ bands, x.content = .rate bands → x.patched (.regrade n) = none) ∧
    (∀ d, x.content = .service d →
      x.patched (.regrade n) = some { x with content := .service { d with grade := n } }) ∧
    (∀ grade target, x.content = .redirect grade target →
      x.patched (.regrade n) = some { x with content := .redirect n target }) ∧
    (∀ d, x.content = .surcharge d →
      x.patched (.regrade n) = some { x with content := .surcharge { d with grade := n } })

/-! ### The dispatch line -/

/-- R165 to R168: REWEIGH of an unmarked LABELLED record: within tolerance it stores an AGREED reweigh part and answers
CLEAR; beyond it fills the pending reweigh and joins the queue at EG 0 without an answer, or is answered RESET during a
drain; NO EDITION with no bank ACTIVE; NOT READY for a PRINTING record, HOLD for a HELD one and DAMAGED for a DAMAGED
one. -/
def Obligations.ReweighComparesTheParcel : Prop :=
  ∀ (g : Tag) (items : List Item) (s : State) (serial mass slot : Nat) (sides : Sides) (r : Rec) (l : BankLetter),
    s.Serves .reweigh .dispatch items → serialOf items = some serial → massOf items = some mass →
    sidesOf items = some sides →
    (s.activeBank = none →
      exec (.reweigh ⟨.dispatch, g⟩ items) s = .next (s.send .dispatch g Kind.reweigh.code .noEdition)) ∧
    (s.activeBank = some l → s.table.index.get serial = none →
      exec (.reweigh ⟨.dispatch, g⟩ items) s = .next (s.send .dispatch g Kind.reweigh.code .noRecord)) ∧
    (s.activeBank = some l → s.FindsSerial serial slot r → r.busy = true ∨ r.queued = true →
      exec (.reweigh ⟨.dispatch, g⟩ items) s = .next (s.send .dispatch g Kind.reweigh.code .recordBusy)) ∧
    (s.activeBank = some l → s.FindsSerial serial slot r → r.busy = false → r.queued = false →
      (r.body.isPrinting = true →
        exec (.reweigh ⟨.dispatch, g⟩ items) s = .next (s.send .dispatch g Kind.reweigh.code .notReady)) ∧
      (r.body.isHeld = true →
        exec (.reweigh ⟨.dispatch, g⟩ items) s = .next (s.send .dispatch g Kind.reweigh.code .hold)) ∧
      (∀ lab, r.body = .damaged lab →
        exec (.reweigh ⟨.dispatch, g⟩ items) s =
          .next (s.send .dispatch g Kind.reweigh.code (.damaged (.record ⟨slot, s.generation slot⟩)))) ∧
      ∀ e q lab adj rw recorded measured limit, r.body = .labelled e q lab adj rw → e.mass = some recorded →
        measured = chargeableMass (decide (recorded < q.chargeable)) mass sides →
        limit = q.chargeable +
          ((s.bank l).parameters.grams + q.chargeable * (s.bank l).parameters.perMille / 1000) →
        (measured ≤ limit →
          exec (.reweigh ⟨.dispatch, g⟩ items) s =
            .next ((s.putRecord slot { r with
              changeCount := (r.changeCount + 1) % 65536, sound := true,
              body := .labelled e q lab adj (some ⟨mass, sides, .agreed, none⟩) }).judge.send .dispatch g
              Kind.reweigh.code (.clear ⟨⟨slot, s.generation slot⟩, serial, .agreed, measured, limit, none,
                (r.changeCount + 1) % 65536⟩))) ∧
        (limit < measured → s.draining = true →
          exec (.reweigh ⟨.dispatch, g⟩ items) s = .next (s.send .dispatch g Kind.reweigh.code .reset)) ∧
        (limit < measured → s.draining = false →
          exec (.reweigh ⟨.dispatch, g⟩ items) s =
            .next (State.putRecord { s.hold .dispatch .reweigh g with
              pendingReweigh := some ⟨⟨slot, s.generation slot⟩, serial, mass, sides, measured, limit⟩,
              queue := s.queue ++
                [⟨.rerateReweigh mass sides, ⟨slot, s.generation slot⟩, .dispatch, 0⟩] }
              slot { r with queued := true }).judge))

/-- R175, R173, R174: HANDOVER of an unbusy LABELLED record retires it and answers its serial and verdict; SETTLE
ACCEPT of a HELD record adds the shortfall to the adjustment, makes the verdict SETTLED and the record LABELLED; SETTLE
VOID retires it; SETTLE of a record that is not HELD is answered WRONG STATE. The retirement, with the answer to a request
queued on the record, is stated by `RetirementEndsTheRecord`; that dispatch has nothing queued while its link is free is an
invariant of `RequestLawsAreKept`. R165: HANDOVER's refusals: NO RECORD, RECORD
BUSY, DAMAGED, NOT READY and HOLD. R173: SETTLE's refusals: NO RECORD, RECORD BUSY and DAMAGED. -/
def Obligations.HandoverAndSettle : Prop :=
  (∀ (g : Tag) (items : List Item) (s : State) (serial slot : Nat) (r : Rec) (e : Entered) (q : Quote) (l : Label)
    (adj : Nat) (rw : Option ReweighPart),
    s.Serves .handover .dispatch items → serialOf items = some serial → s.FindsSerial serial slot r →
    r.busy = false → r.body = .labelled e q l adj rw → (∀ x ∈ s.queue, x.requester ≠ .dispatch) →
    exec (.handover ⟨.dispatch, g⟩ items) s =
      .next ((s.retire slot r).judge.send .dispatch g Kind.handover.code
        (.done (.handedOver ⟨slot, s.generation slot⟩ serial (rw.map (·.verdict)))))) ∧
  (∀ (g : Tag) (items : List Item) (s : State) (serial slot : Nat) (r : Rec),
    s.Serves .handover .dispatch items → serialOf items = some serial →
    (s.table.index.get serial = none →
      exec (.handover ⟨.dispatch, g⟩ items) s = .next (s.send .dispatch g Kind.handover.code .noRecord)) ∧
    (s.FindsSerial serial slot r →
      (r.busy = true →
        exec (.handover ⟨.dispatch, g⟩ items) s = .next (s.send .dispatch g Kind.handover.code .recordBusy)) ∧
      (r.busy = false →
        (∀ lab, r.body = .damaged lab →
          exec (.handover ⟨.dispatch, g⟩ items) s =
            .next (s.send .dispatch g Kind.handover.code (.damaged (.record ⟨slot, s.generation slot⟩)))) ∧
        (r.body.isPrinting = true →
          exec (.handover ⟨.dispatch, g⟩ items) s = .next (s.send .dispatch g Kind.handover.code .notReady)) ∧
        (r.body.isHeld = true →
          exec (.handover ⟨.dispatch, g⟩ items) s = .next (s.send .dispatch g Kind.handover.code .hold))))) ∧
  (∀ (g : Tag) (items : List Item) (s : State) (slot : Nat) (r : Rec) (c : Instr),
    s.Serves .settle .supervisor items →
    ((c = .settleAccept ⟨.supervisor, g⟩ items ∧ settleFormOf items = some 1) ∨
      (c = .settleVoid ⟨.supervisor, g⟩ items ∧ settleFormOf items = some 2)) →
    (s.FindsNone items → exec c s = .next (s.send .supervisor g Kind.settle.code .noRecord)) ∧
    (s.FindsNamed items slot r → r.busy = true →
      exec c s = .next (s.send .supervisor g Kind.settle.code .recordBusy)) ∧
    (∀ lab, s.FindsNamed items slot r → r.busy = false → r.body = .damaged lab →
      exec c s = .next (s.send .supervisor g Kind.settle.code (.damaged (.record ⟨slot, s.generation slot⟩))))) ∧
  ∀ (g : Tag) (items : List Item) (s : State) (slot : Nat) (r : Rec),
    s.Serves .settle .supervisor items → s.FindsNamed items slot r → r.busy = false →
    (∀ e q l adj rw reason, r.body = .held e q l adj rw reason → settleFormOf items = some 1 →
      exec (.settleAccept ⟨.supervisor, g⟩ items) s =
        .next ((s.putRecord slot { r with
          changeCount := (r.changeCount + 1) % 65536, sound := true,
          body := .labelled e q l (adj + rw.shortfall.getD 0) (some { rw with verdict := .settled })
          }).judge.send .supervisor g Kind.settle.code
          (.done (.settled ⟨slot, s.generation slot⟩ .settled (adj + rw.shortfall.getD 0) ((r.changeCount + 1) % 65536))))) ∧
    (r.body.isHeld = true → settleFormOf items = some 2 →
      exec (.settleVoid ⟨.supervisor, g⟩ items) s =
        .next ((s.retire slot r).judge.send .supervisor g Kind.settle.code
          (.done (.parcel ⟨slot, s.generation slot⟩)))) ∧
    (r.body.isHeld = false → (∀ l, r.body ≠ .damaged l) →
      (settleFormOf items = some 1 →
        exec (.settleAccept ⟨.supervisor, g⟩ items) s =
          .next (s.send .supervisor g Kind.settle.code .wrongState)) ∧
      (settleFormOf items = some 2 →
        exec (.settleVoid ⟨.supervisor, g⟩ items) s =
          .next (s.send .supervisor g Kind.settle.code .wrongState)))

/-! ### Hall time, attention and the soft reset -/

/-- R191, R192: SET TIME sets hall time and answers it, no countdown changed, where no switch falls due; SET TIMERS
writes the settings it carries; a tick adds one to hall time up to its greatest value and, outside HALTED, takes one
from every print deadline, escalation countdown and grace countdown that has time left, changing nothing else. That a
falling print deadline writes no fresh check bits, so that a disturbed record stays disturbed, is the model's reading (log
entry 16). -/
def Obligations.HallTimeAndSettings : Prop :=
  (∀ (g : Tag) (items : List Item) (s : State) (t : Nat), s.Serves .setTime .supervisor items →
    hallTimeOf items = some t →
    (∀ l edition effective grace, (s.bank l).state = .scheduled edition effective grace → t < effective) →
    exec (.setTime ⟨.supervisor, g⟩ items) s =
      .next ((State.judge { s with hallTime := t }).send .supervisor g Kind.setTime.code (.done (.hallTime t)))) ∧
  (∀ (g : Tag) (items : List Item) (s : State) (l : BankLetter) (t edition effective grace : Nat),
    s.Serves .setTime .supervisor items → hallTimeOf items = some t →
    (s.bank l).state = .scheduled edition effective grace → (s.bank (otherBank l)).state.name ≠ .scheduled →
    effective ≤ t →
    exec (.setTime ⟨.supervisor, g⟩ items) s =
      .next ((State.takeSwitch { s with hallTime := t } l).judge.send .supervisor g Kind.setTime.code
        (.done (.hallTime t)))) ∧
  (∀ (g : Tag) (items : List Item) (s : State), s.Serves .setTimers .supervisor items →
    exec (.setTimers ⟨.supervisor, g⟩ items) s =
      .next ((State.judge { s with
        timers := ⟨(printDeadlineOf items).getD s.timers.printDeadline,
          (escalationTimeoutOf items).getD s.timers.escalationTimeout⟩,
        pool := ⟨s.pool.blocks, (lowStockOf items).getD s.pool.threshold⟩ }).send .supervisor g
        Kind.setTimers.code (.done (.timers ((printDeadlineOf items).getD s.timers.printDeadline)
          ((escalationTimeoutOf items).getD s.timers.escalationTimeout)
          ((lowStockOf items).getD s.pool.threshold))))) ∧
  ∀ s : State, s.resetAsserted = false → ∃ t, exec .hallTimeTick s = .next t ∧
    t.hallTime = min 4294967295 (s.hallTime + 1) ∧
    t.links = s.links ∧ t.units = s.units ∧ t.queue = s.queue ∧ t.pool = s.pool ∧ t.attention = s.attention ∧
    t.integrity = s.integrity ∧ t.timers = s.timers ∧ t.answers = s.answers ∧
    t.table.generations = s.table.generations ∧ t.table.index = s.table.index ∧
    t.grantState = s.grantState ∧ t.pendingReweigh = s.pendingReweigh ∧
    (s.halted = true → t = { s with hallTime := t.hallTime }) ∧
    (s.halted = false →
      (∀ n, s.record n = none → t.record n = none) ∧
      (∀ n r, s.record n = some r → r.body.isPrinting = false → t.record n = some r) ∧
      (∀ n r e q l d, s.record n = some r → r.body = .printing e q l d →
        t.record n = some { r with body := .printing e q l (d - 1) }) ∧
      (∀ p session slot, s.ctx p = .escalated session slot →
        t.ctx p = .escalated session { slot with remaining := slot.remaining - 1 }) ∧
      (∀ p, (s.ctx p).isEscalated = false → t.ctx p = s.ctx p) ∧
      (∀ l edition n, (s.bank l).state = .retiring edition (.running n) →
        t.bank l = { s.bank l with state := .retiring edition (.running (n - 1)) }) ∧
      (∀ l, (∀ edition n, (s.bank l).state ≠ .retiring edition (.running n)) → t.bank l = s.bank l))

/-- R194, R193, R195, R182: SET ENABLES writes the seven enables and the alert enable, and a level cause enabled afresh
while its condition holds becomes pending; ACKNOWLEDGE clears the pending causes named, a level cause still holding is set
again at once, a cause named that is not pending stays so, and INTEGRITY named returns ALERT to NORMAL; the line is asserted exactly when a cause is pending and
enabled. R199, items 15 and 16: the seven causes are bits 0 to 6 of the byte in the order of the table of R193, bit 7 of the
enables is the alert enable. -/
def Obligations.AttentionFollowsItsRequests : Prop :=
  (∀ (n i : Nat) (x : Causes), bitOf n i = n.testBit i ∧ (Causes.ofByte n).escalation = n.testBit 0 ∧
    (Causes.ofByte n).integrity = n.testBit 1 ∧ (Causes.ofByte n).poolLow = n.testBit 2 ∧
    (Causes.ofByte n).held = n.testBit 3 ∧ (Causes.ofByte n).switchTaken = n.testBit 4 ∧
    (Causes.ofByte n).bankRetired = n.testBit 5 ∧ (Causes.ofByte n).quotesLapsed = n.testBit 6 ∧
    x.get .escalation = x.escalation ∧ x.get .integrity = x.integrity ∧ x.get .poolLow = x.poolLow ∧
    x.get .held = x.held ∧ x.get .switchTaken = x.switchTaken ∧ x.get .bankRetired = x.bankRetired ∧
    x.get .quotesLapsed = x.quotesLapsed) ∧
  (∀ (g : Tag) (items : List Item) (s : State) (n : Nat), s.Serves .setEnables .supervisor items →
    enablesOf items = some n →
    exec (.setEnables ⟨.supervisor, g⟩ items) s =
      .next ((State.judge { s with
        attention := s.attention.enable (Causes.ofByte n),
        integrity := { s.integrity with alertEnable := bitOf n 7 } }).send .supervisor g Kind.setEnables.code
        (.done (.enables (Causes.ofByte n) (bitOf n 7) (s.attention.enable (Causes.ofByte n)).pending)))) ∧
  (∀ (g : Tag) (items : List Item) (s : State) (n : Nat), s.Serves .acknowledge .supervisor items →
    causesOf items = some n →
    exec (.acknowledge ⟨.supervisor, g⟩ items) s =
      .next ((State.judge { s with
        attention := s.attention.acknowledge (Causes.ofByte n),
        integrity := { s.integrity with
            state := (if bitOf n 1 = true ∧ s.integrity.state = .alert then .normal else s.integrity.state) } }).send .supervisor g
        Kind.acknowledge.code (.done (.flags (s.attention.acknowledge (Causes.ofByte n)).pending)))) ∧
  (∀ (a : Attention) (named x : Causes) (c : Cause),
    (a.acknowledge named).enabled = a.enabled ∧ (a.acknowledge named).conditions = a.conditions ∧
    (named.get c = false → (a.acknowledge named).pending.get c = a.pending.get c) ∧
    (named.get c = true → (a.acknowledge named).pending.get c = (a.pending.get c &&
      (match c with
        | .escalation => a.conditions.escalation
        | .poolLow => a.conditions.poolLow
        | .held => a.conditions.held
        | _ => false))) ∧
    (a.enable x).enabled = x ∧ (a.enable x).conditions = a.conditions ∧
    ((a.enable x).pending.get c = (a.pending.get c || (x.get c && !a.enabled.get c &&
      (match c with
        | .escalation => a.conditions.escalation
        | .poolLow => a.conditions.poolLow
        | .held => a.conditions.held
        | _ => false))))) ∧
  ∀ s : State, s.line = true ↔
    s.resetAsserted = false ∧ ∃ c : Cause, s.attention.pending.get c = true ∧ s.attention.enabled.get c = true

/-- R196: STATUS answers the named part as it stands, in HALTED too, and changes nothing: each unit as R66 reports it and
each position as R115 does. R197, R76, R135, R43, R164: a SOFT RESET acts on the queue, the positions, the banks and the
pending reweigh as `SoftResetOf` says, and each queued, escalated or suspended-escalated request and a queued re-rating is
answered RESET (in the order of the links, which is the model's, log entry 15). With a unit running it stays outstanding
and the grant state is DRAINING; with every unit idle the drain ends in the same step (log entry 2). The drain ends when
every unit is idle: GRANTING again, DONE, and each level cause whose condition holds pending; before that DRAIN_END is not
taken. That clearing a queued mark writes no fresh check bits, so that a disturbed record stays disturbed, is the model's
reading (log entry 16). -/
def Obligations.StatusAndSoftReset : Prop :=
  (∀ (g : Tag) (items : List Item) (s : State) (n : Nat), s.Admits .status .supervisor items →
    statusPartOf items = some n →
    ∃ content, exec (.status ⟨.supervisor, g⟩ items) s =
        .next (s.send .supervisor g Kind.status.code (.status content)) ∧
      (n = 1 → content = .hall s.hallTime s.timers.printDeadline s.timers.escalationTimeout s.pool.threshold
        s.attention.pending s.attention.enabled s.line s.integrity.state s.integrity.alertEnable
        s.integrity.reportCount) ∧
      (n = 2 → content = .banks ⟨s.bankA.state, s.bankA.pins, s.bankA.damagedCount⟩
        ⟨s.bankB.state, s.bankB.pins, s.bankB.damagedCount⟩) ∧
      (n = 3 → content = .rating ((List.finRange 4).map fun u => (s.unit u).map Job.status) s.queue
        s.grantState.name) ∧
      (n = 4 → content = .positions ((List.finRange 24).map fun p => (s.ctx p).status)) ∧
      (n = 5 → content = .pool s.pool.blocks s.pool.remaining s.pool.threshold) ∧
      (n = 6 → content = .dispatch (s.pendingReweigh.map fun x => (x.handle, x.serial, x.chargeable))
        (s.table.records.cells.countP fun c => c.2.body.isHeld)) ∧
      (n = 7 → content = .log s.integrity.log)) ∧
  (∀ (j : Job) (mass code : Nat) (sides : Sides),
    j.status.handle = j.entry.handle ∧ j.status.bank = j.bank ∧ j.status.requester = j.entry.requester ∧
    (j.entry.kind = .rate → j.status.kind = .rate) ∧
    (j.entry.kind = .rerateReweigh mass sides → j.status.kind = .rerateReweigh) ∧
    (j.entry.kind = .rateOption code → j.status.kind = .rateOption)) ∧
  (∀ (session : Session) (res : Option Reservation) (pend : Bool) (request : HeldRequest) (slot : NormalSlot),
    Context.closed.status = ⟨.closed, none, false, false, none, none⟩ ∧
    (Context.opened session res).status = ⟨.opened, some session, false, res.isSome, none, none⟩ ∧
    (Context.working session pend res request).status = ⟨.working, some session, pend, res.isSome, none, none⟩ ∧
    (Context.escalated session slot).status = ⟨.escalated, some session, false, false,
      some ⟨slot.request.kind, slot.request.tag, slot.needed, slot.remaining⟩, none⟩ ∧
    (Context.suspended session .opened).status = ⟨.suspended, some session, false, false, none, some .opened⟩ ∧
    (Context.suspended session (.escalated slot)).status = ⟨.suspended, some session, false, false,
      some ⟨slot.request.kind, slot.request.tag, slot.needed, slot.remaining⟩, some .escalated⟩) ∧
  (∀ (g : Tag) (items : List Item) (s : State), s.Serves .softReset .supervisor items →
    (s.allIdle = false → ∃ t, exec (.softReset ⟨.supervisor, g⟩ items) s = .next t ∧ s.SoftResetOf t ∧
      t.grantState = .draining ∧ t.links.supervisor.outstanding = some ⟨.softReset, g⟩ ∧
      t.answers = s.answers ++ s.softResetAnswers) ∧
    (s.allIdle = true → ∃ t, exec (.softReset ⟨.supervisor, g⟩ items) s = .next t ∧ s.SoftResetOf t ∧
      t.grantState = .granting ∧ t.links.supervisor.outstanding = none ∧
      t.answers = s.answers ++ s.softResetAnswers ++
        [⟨.supervisor, g, answerKind Kind.softReset.code, .done .plain⟩] ∧
      (t.conditions.poolLow = true → t.attention.pending.poolLow = true) ∧
      (t.conditions.held = true → t.attention.pending.held = true))) ∧
  ∀ (s : State), s.Live →
    (∀ o, s.grantState = .draining → s.allIdle = true → (s.link .supervisor).outstanding = some o →
      ∃ t, exec .drainEnd s = .next t ∧ t.grantState = .granting ∧
        t.answers = s.answers ++ [⟨.supervisor, o.tag, answerKind o.kind.code, .done .plain⟩] ∧
        (t.link .supervisor).outstanding = none ∧ t.table = s.table ∧ t.positions = s.positions ∧
        t.bankA = s.bankA ∧ t.bankB = s.bankB ∧ t.attention.enabled = s.attention.enabled ∧
        (s.conditions.escalation = true → t.attention.pending.escalation = true) ∧
        (s.conditions.poolLow = true → t.attention.pending.poolLow = true) ∧
        (s.conditions.held = true → t.attention.pending.held = true)) ∧
    (s.grantState ≠ .draining ∨ s.allIdle = false → exec .drainEnd s = .next s)

/-! ### Laws that every step keeps -/

/-- R154: at most one bank is ACTIVE, and a bank is RETIRING only while its pin count is greater than 0: from every
state that meets the law, every step that answers a next state gives one that meets it. -/
def Obligations.TariffLawIsKept : Prop :=
  ∀ s t : State, s.tariffLaw = true → step s = .next t → t.tariffLaw = true

/-- R139, R137: at most 32 blocks, well formed and pairwise disjoint, and no serial a block still holds has an entry in the
label index: kept by every step from every state that meets the law. That the index is in step with the records is
`RecordLawsAreKept`. -/
def Obligations.PoolLawIsKept : Prop :=
  ∀ s t : State, s.poolLaw = true → step s = .next t → t.poolLaw = true

/-- The model's own form of its stores (keys strictly rising, nothing listed that an unlisted key holds) is kept by
every step, so that equal stores are equal data. -/
def Obligations.StoresStayCanonical : Prop :=
  ∀ s t : State, s.canonical = true → step s = .next t → t.canonical = true

/-- R193: the remembered conditions of the three level causes are those the blocks then report, after every step from a
state where they are; a level cause becomes pending exactly as its condition changes from not holding to holding, or
stays. What the blocks report: ESCALATION holds while some position is ESCALATED (R115), POOL LOW while the remaining count,
the sum over the blocks of last less next plus one (R145), is below the low-stock threshold (R146), HELD while some live
record is HELD (R172). -/
def Obligations.RememberedConditionsFollowTheBlocks : Prop :=
  (∀ s t : State, s.Judged → step s = .next t → t.Judged) ∧
  (∀ s : State, (s.Judged ↔ s.attention.conditions = s.conditions) ∧
    (s.conditions.escalation = true ↔ ∃ p session slot, s.ctx p = .escalated session slot) ∧
    (s.conditions.poolLow = true ↔ (s.pool.blocks.map fun b => b.last + 1 - b.next).sum < s.pool.threshold) ∧
    (s.conditions.held = true ↔
      ∃ c ∈ s.table.records.cells, ∃ e q l adj rw reason, c.2.body = .held e q l adj rw reason)) ∧
  ∀ (a : Attention) (now : Conditions),
    (a.judge now).conditions = now ∧ (a.judge now).enabled = a.enabled ∧
    ((a.judge now).pending.escalation = true ↔
      a.pending.escalation = true ∨ (a.conditions.escalation = false ∧ now.escalation = true)) ∧
    ((a.judge now).pending.poolLow = true ↔
      a.pending.poolLow = true ∨ (a.conditions.poolLow = false ∧ now.poolLow = true)) ∧
    ((a.judge now).pending.held = true ↔
      a.pending.held = true ∨ (a.conditions.held = false ∧ now.held = true)) ∧
    (a.judge now).pending.integrity = a.pending.integrity ∧
    (a.judge now).pending.switchTaken = a.pending.switchTaken ∧
    (a.judge now).pending.bankRetired = a.pending.bankRetired ∧
    (a.judge now).pending.quotesLapsed = a.pending.quotesLapsed

/-- R155, R39: a bank's pin count is the number of RATED and PRINTING records whose quote names it and of units running on
it, and a bank with pins is ACTIVE or RETIRING, so that every such quote names an ACTIVE or RETIRING bank: kept by every
step from every state whose stores are in canonical form. R151: the two banks never carry the same edition number: kept by
every step. -/
def Obligations.BankLawsAreKept : Prop :=
  (∀ s t : State, s.canonical = true → s.pinLaw = true → step s = .next t → t.pinLaw = true) ∧
  (∀ (s : State) (l : BankLetter), s.pinLaw = true →
    (∀ c ∈ s.table.records.cells, c.2.body.pin = some l → (s.bank l).state.name ∈ [.active, .retiring]) ∧
    (∀ u j, s.unit u = some j → j.bank = l → (s.bank l).state.name ∈ [.active, .retiring])) ∧
  ∀ s t : State, s.editionsApart = true → step s = .next t → t.editionsApart = true

/-- R20, R21: the label index holds, for each live record with a label, an entry of its serial that leads to the record,
and every entry leads to a live record whose label carries its serial, so that no serial stands on two records: kept by
every step from every state whose stores are in canonical form and whose pool meets the law of R139. R22: no position owns
more than eight records in DRAFT, RATED and PRINTING: kept by every step from every state whose stores are in canonical
form. -/
def Obligations.RecordLawsAreKept : Prop :=
  (∀ s t : State, s.canonical = true → s.poolLaw = true → s.indexLaw = true → step s = .next t → t.indexLaw = true) ∧
  (∀ s : State, s.canonical = true → s.indexLaw = true →
    ∀ n m r r' l l', s.record n = some r → s.record m = some r' → r.body.label = some l → r'.body.label = some l' →
      l.serial = l'.serial → n = m) ∧
  ∀ s t : State, s.canonical = true → s.handLaw = true → step s = .next t → t.handLaw = true

/-- R67, R18, R19, R116, R164: no record stands under two entries or jobs, each entry and job names a live record, a record
is queued exactly with an entry and busy exactly with a job, no requester waits twice, a position waits exactly while it is
WORKING, its link holds a request exactly in WORKING, ESCALATED and SUSPENDED over ESCALATED, and the dispatch link holds
one exactly while a pending reweigh waits for its rating: kept together by every step from every state whose stores are in
canonical form. R115, R124, R125, R45, R159, R192, R6: session grades, EG, the needed grade and the time left of a save
slot, the waiting patch's grade, the access grades of a bank past LOADING, the settings and the print deadlines stay in
their ranges: kept by every step from every state that also meets the law of the pins. -/
def Obligations.RequestLawsAreKept : Prop :=
  (∀ s t : State, s.canonical = true → s.marksLaw = true → s.requestLaw = true → step s = .next t →
    t.marksLaw = true ∧ t.requestLaw = true) ∧
  ∀ s t : State, s.canonical = true → s.pinLaw = true → s.rangeLaw = true → step s = .next t → t.rangeLaw = true
end

