-- ==== Sys2Proof/Laws/State.lean ====
section
/-! SUPPORT. One lemma per field per update: what each update of a single block leaves alone, and what it writes. -/
namespace Sys2Proof.Machine

variable (s : State)

/-! ### setLink -/

@[simp] theorem State.setLink_positions (l : Link) (x : LinkState) : (s.setLink l x).positions = s.positions := by cases l <;> rfl
@[simp] theorem State.setLink_table (l : Link) (x : LinkState) : (s.setLink l x).table = s.table := by cases l <;> rfl
@[simp] theorem State.setLink_bankA (l : Link) (x : LinkState) : (s.setLink l x).bankA = s.bankA := by cases l <;> rfl
@[simp] theorem State.setLink_bankB (l : Link) (x : LinkState) : (s.setLink l x).bankB = s.bankB := by cases l <;> rfl
@[simp] theorem State.setLink_units (l : Link) (x : LinkState) : (s.setLink l x).units = s.units := by cases l <;> rfl
@[simp] theorem State.setLink_queue (l : Link) (x : LinkState) : (s.setLink l x).queue = s.queue := by cases l <;> rfl
@[simp] theorem State.setLink_grantState (l : Link) (x : LinkState) : (s.setLink l x).grantState = s.grantState := by cases l <;> rfl
@[simp] theorem State.setLink_pool (l : Link) (x : LinkState) : (s.setLink l x).pool = s.pool := by cases l <;> rfl
@[simp] theorem State.setLink_pendingReweigh (l : Link) (x : LinkState) : (s.setLink l x).pendingReweigh = s.pendingReweigh := by cases l <;> rfl
@[simp] theorem State.setLink_integrity (l : Link) (x : LinkState) : (s.setLink l x).integrity = s.integrity := by cases l <;> rfl
@[simp] theorem State.setLink_attention (l : Link) (x : LinkState) : (s.setLink l x).attention = s.attention := by cases l <;> rfl
@[simp] theorem State.setLink_hallTime (l : Link) (x : LinkState) : (s.setLink l x).hallTime = s.hallTime := by cases l <;> rfl
@[simp] theorem State.setLink_timers (l : Link) (x : LinkState) : (s.setLink l x).timers = s.timers := by cases l <;> rfl
@[simp] theorem State.setLink_resetAsserted (l : Link) (x : LinkState) : (s.setLink l x).resetAsserted = s.resetAsserted := by cases l <;> rfl
@[simp] theorem State.setLink_answers (l : Link) (x : LinkState) : (s.setLink l x).answers = s.answers := by cases l <;> rfl
@[simp] theorem State.setLink_freeCount (l : Link) (x : LinkState) : (s.setLink l x).freeCount = s.freeCount := by cases l <;> rfl
@[simp] theorem State.setLink_pending (l : Link) (x : LinkState) : (s.setLink l x).pending = s.pending := by cases l <;> rfl

/-! ### setCtx -/

@[simp] theorem State.setCtx_links (p : PositionNo) (c : Context) : (s.setCtx p c).links = s.links := rfl
@[simp] theorem State.setCtx_table (p : PositionNo) (c : Context) : (s.setCtx p c).table = s.table := rfl
@[simp] theorem State.setCtx_bankA (p : PositionNo) (c : Context) : (s.setCtx p c).bankA = s.bankA := rfl
@[simp] theorem State.setCtx_bankB (p : PositionNo) (c : Context) : (s.setCtx p c).bankB = s.bankB := rfl
@[simp] theorem State.setCtx_units (p : PositionNo) (c : Context) : (s.setCtx p c).units = s.units := rfl
@[simp] theorem State.setCtx_queue (p : PositionNo) (c : Context) : (s.setCtx p c).queue = s.queue := rfl
@[simp] theorem State.setCtx_grantState (p : PositionNo) (c : Context) : (s.setCtx p c).grantState = s.grantState := rfl
@[simp] theorem State.setCtx_pool (p : PositionNo) (c : Context) : (s.setCtx p c).pool = s.pool := rfl
@[simp] theorem State.setCtx_pendingReweigh (p : PositionNo) (c : Context) : (s.setCtx p c).pendingReweigh = s.pendingReweigh := rfl
@[simp] theorem State.setCtx_integrity (p : PositionNo) (c : Context) : (s.setCtx p c).integrity = s.integrity := rfl
@[simp] theorem State.setCtx_attention (p : PositionNo) (c : Context) : (s.setCtx p c).attention = s.attention := rfl
@[simp] theorem State.setCtx_hallTime (p : PositionNo) (c : Context) : (s.setCtx p c).hallTime = s.hallTime := rfl
@[simp] theorem State.setCtx_timers (p : PositionNo) (c : Context) : (s.setCtx p c).timers = s.timers := rfl
@[simp] theorem State.setCtx_resetAsserted (p : PositionNo) (c : Context) : (s.setCtx p c).resetAsserted = s.resetAsserted := rfl
@[simp] theorem State.setCtx_answers (p : PositionNo) (c : Context) : (s.setCtx p c).answers = s.answers := rfl
@[simp] theorem State.setCtx_freeCount (p : PositionNo) (c : Context) : (s.setCtx p c).freeCount = s.freeCount := rfl
@[simp] theorem State.setCtx_pending (p : PositionNo) (c : Context) : (s.setCtx p c).pending = s.pending := rfl

/-! ### setUnit -/

@[simp] theorem State.setUnit_links (u : UnitNo) (j : Option Job) : (s.setUnit u j).links = s.links := rfl
@[simp] theorem State.setUnit_positions (u : UnitNo) (j : Option Job) : (s.setUnit u j).positions = s.positions := rfl
@[simp] theorem State.setUnit_table (u : UnitNo) (j : Option Job) : (s.setUnit u j).table = s.table := rfl
@[simp] theorem State.setUnit_bankA (u : UnitNo) (j : Option Job) : (s.setUnit u j).bankA = s.bankA := rfl
@[simp] theorem State.setUnit_bankB (u : UnitNo) (j : Option Job) : (s.setUnit u j).bankB = s.bankB := rfl
@[simp] theorem State.setUnit_queue (u : UnitNo) (j : Option Job) : (s.setUnit u j).queue = s.queue := rfl
@[simp] theorem State.setUnit_grantState (u : UnitNo) (j : Option Job) : (s.setUnit u j).grantState = s.grantState := rfl
@[simp] theorem State.setUnit_pool (u : UnitNo) (j : Option Job) : (s.setUnit u j).pool = s.pool := rfl
@[simp] theorem State.setUnit_pendingReweigh (u : UnitNo) (j : Option Job) : (s.setUnit u j).pendingReweigh = s.pendingReweigh := rfl
@[simp] theorem State.setUnit_integrity (u : UnitNo) (j : Option Job) : (s.setUnit u j).integrity = s.integrity := rfl
@[simp] theorem State.setUnit_attention (u : UnitNo) (j : Option Job) : (s.setUnit u j).attention = s.attention := rfl
@[simp] theorem State.setUnit_hallTime (u : UnitNo) (j : Option Job) : (s.setUnit u j).hallTime = s.hallTime := rfl
@[simp] theorem State.setUnit_timers (u : UnitNo) (j : Option Job) : (s.setUnit u j).timers = s.timers := rfl
@[simp] theorem State.setUnit_resetAsserted (u : UnitNo) (j : Option Job) : (s.setUnit u j).resetAsserted = s.resetAsserted := rfl
@[simp] theorem State.setUnit_answers (u : UnitNo) (j : Option Job) : (s.setUnit u j).answers = s.answers := rfl
@[simp] theorem State.setUnit_freeCount (u : UnitNo) (j : Option Job) : (s.setUnit u j).freeCount = s.freeCount := rfl
@[simp] theorem State.setUnit_pending (u : UnitNo) (j : Option Job) : (s.setUnit u j).pending = s.pending := rfl

/-! ### setBank -/

@[simp] theorem State.setBank_links (l : BankLetter) (b : Bank) : (s.setBank l b).links = s.links := by cases l <;> rfl
@[simp] theorem State.setBank_positions (l : BankLetter) (b : Bank) : (s.setBank l b).positions = s.positions := by cases l <;> rfl
@[simp] theorem State.setBank_table (l : BankLetter) (b : Bank) : (s.setBank l b).table = s.table := by cases l <;> rfl
@[simp] theorem State.setBank_units (l : BankLetter) (b : Bank) : (s.setBank l b).units = s.units := by cases l <;> rfl
@[simp] theorem State.setBank_queue (l : BankLetter) (b : Bank) : (s.setBank l b).queue = s.queue := by cases l <;> rfl
@[simp] theorem State.setBank_grantState (l : BankLetter) (b : Bank) : (s.setBank l b).grantState = s.grantState := by cases l <;> rfl
@[simp] theorem State.setBank_pool (l : BankLetter) (b : Bank) : (s.setBank l b).pool = s.pool := by cases l <;> rfl
@[simp] theorem State.setBank_pendingReweigh (l : BankLetter) (b : Bank) : (s.setBank l b).pendingReweigh = s.pendingReweigh := by cases l <;> rfl
@[simp] theorem State.setBank_integrity (l : BankLetter) (b : Bank) : (s.setBank l b).integrity = s.integrity := by cases l <;> rfl
@[simp] theorem State.setBank_attention (l : BankLetter) (b : Bank) : (s.setBank l b).attention = s.attention := by cases l <;> rfl
@[simp] theorem State.setBank_hallTime (l : BankLetter) (b : Bank) : (s.setBank l b).hallTime = s.hallTime := by cases l <;> rfl
@[simp] theorem State.setBank_timers (l : BankLetter) (b : Bank) : (s.setBank l b).timers = s.timers := by cases l <;> rfl
@[simp] theorem State.setBank_resetAsserted (l : BankLetter) (b : Bank) : (s.setBank l b).resetAsserted = s.resetAsserted := by cases l <;> rfl
@[simp] theorem State.setBank_answers (l : BankLetter) (b : Bank) : (s.setBank l b).answers = s.answers := by cases l <;> rfl
@[simp] theorem State.setBank_freeCount (l : BankLetter) (b : Bank) : (s.setBank l b).freeCount = s.freeCount := by cases l <;> rfl
@[simp] theorem State.setBank_pending (l : BankLetter) (b : Bank) : (s.setBank l b).pending = s.pending := by cases l <;> rfl

/-! ### send -/

@[simp] theorem State.send_links (l : Link) (g : Tag) (k : Byte) (a : Answer) : (s.send l g k a).links = s.links := rfl
@[simp] theorem State.send_positions (l : Link) (g : Tag) (k : Byte) (a : Answer) : (s.send l g k a).positions = s.positions := rfl
@[simp] theorem State.send_table (l : Link) (g : Tag) (k : Byte) (a : Answer) : (s.send l g k a).table = s.table := rfl
@[simp] theorem State.send_bankA (l : Link) (g : Tag) (k : Byte) (a : Answer) : (s.send l g k a).bankA = s.bankA := rfl
@[simp] theorem State.send_bankB (l : Link) (g : Tag) (k : Byte) (a : Answer) : (s.send l g k a).bankB = s.bankB := rfl
@[simp] theorem State.send_units (l : Link) (g : Tag) (k : Byte) (a : Answer) : (s.send l g k a).units = s.units := rfl
@[simp] theorem State.send_queue (l : Link) (g : Tag) (k : Byte) (a : Answer) : (s.send l g k a).queue = s.queue := rfl
@[simp] theorem State.send_grantState (l : Link) (g : Tag) (k : Byte) (a : Answer) : (s.send l g k a).grantState = s.grantState := rfl
@[simp] theorem State.send_pool (l : Link) (g : Tag) (k : Byte) (a : Answer) : (s.send l g k a).pool = s.pool := rfl
@[simp] theorem State.send_pendingReweigh (l : Link) (g : Tag) (k : Byte) (a : Answer) : (s.send l g k a).pendingReweigh = s.pendingReweigh := rfl
@[simp] theorem State.send_integrity (l : Link) (g : Tag) (k : Byte) (a : Answer) : (s.send l g k a).integrity = s.integrity := rfl
@[simp] theorem State.send_attention (l : Link) (g : Tag) (k : Byte) (a : Answer) : (s.send l g k a).attention = s.attention := rfl
@[simp] theorem State.send_hallTime (l : Link) (g : Tag) (k : Byte) (a : Answer) : (s.send l g k a).hallTime = s.hallTime := rfl
@[simp] theorem State.send_timers (l : Link) (g : Tag) (k : Byte) (a : Answer) : (s.send l g k a).timers = s.timers := rfl
@[simp] theorem State.send_resetAsserted (l : Link) (g : Tag) (k : Byte) (a : Answer) : (s.send l g k a).resetAsserted = s.resetAsserted := rfl
@[simp] theorem State.send_freeCount (l : Link) (g : Tag) (k : Byte) (a : Answer) : (s.send l g k a).freeCount = s.freeCount := rfl
@[simp] theorem State.send_pending (l : Link) (g : Tag) (k : Byte) (a : Answer) : (s.send l g k a).pending = s.pending := rfl

/-! ### raise -/

@[simp] theorem State.raise_links (c : Cause) : (s.raise c).links = s.links := rfl
@[simp] theorem State.raise_positions (c : Cause) : (s.raise c).positions = s.positions := rfl
@[simp] theorem State.raise_table (c : Cause) : (s.raise c).table = s.table := rfl
@[simp] theorem State.raise_bankA (c : Cause) : (s.raise c).bankA = s.bankA := rfl
@[simp] theorem State.raise_bankB (c : Cause) : (s.raise c).bankB = s.bankB := rfl
@[simp] theorem State.raise_units (c : Cause) : (s.raise c).units = s.units := rfl
@[simp] theorem State.raise_queue (c : Cause) : (s.raise c).queue = s.queue := rfl
@[simp] theorem State.raise_grantState (c : Cause) : (s.raise c).grantState = s.grantState := rfl
@[simp] theorem State.raise_pool (c : Cause) : (s.raise c).pool = s.pool := rfl
@[simp] theorem State.raise_pendingReweigh (c : Cause) : (s.raise c).pendingReweigh = s.pendingReweigh := rfl
@[simp] theorem State.raise_integrity (c : Cause) : (s.raise c).integrity = s.integrity := rfl
@[simp] theorem State.raise_hallTime (c : Cause) : (s.raise c).hallTime = s.hallTime := rfl
@[simp] theorem State.raise_timers (c : Cause) : (s.raise c).timers = s.timers := rfl
@[simp] theorem State.raise_resetAsserted (c : Cause) : (s.raise c).resetAsserted = s.resetAsserted := rfl
@[simp] theorem State.raise_answers (c : Cause) : (s.raise c).answers = s.answers := rfl
@[simp] theorem State.raise_freeCount (c : Cause) : (s.raise c).freeCount = s.freeCount := rfl
@[simp] theorem State.raise_pending (c : Cause) : (s.raise c).pending = s.pending := rfl

/-! ### judge -/

@[simp] theorem State.judge_links : (s.judge).links = s.links := rfl
@[simp] theorem State.judge_positions : (s.judge).positions = s.positions := rfl
@[simp] theorem State.judge_table : (s.judge).table = s.table := rfl
@[simp] theorem State.judge_bankA : (s.judge).bankA = s.bankA := rfl
@[simp] theorem State.judge_bankB : (s.judge).bankB = s.bankB := rfl
@[simp] theorem State.judge_units : (s.judge).units = s.units := rfl
@[simp] theorem State.judge_queue : (s.judge).queue = s.queue := rfl
@[simp] theorem State.judge_grantState : (s.judge).grantState = s.grantState := rfl
@[simp] theorem State.judge_pool : (s.judge).pool = s.pool := rfl
@[simp] theorem State.judge_pendingReweigh : (s.judge).pendingReweigh = s.pendingReweigh := rfl
@[simp] theorem State.judge_integrity : (s.judge).integrity = s.integrity := rfl
@[simp] theorem State.judge_hallTime : (s.judge).hallTime = s.hallTime := rfl
@[simp] theorem State.judge_timers : (s.judge).timers = s.timers := rfl
@[simp] theorem State.judge_resetAsserted : (s.judge).resetAsserted = s.resetAsserted := rfl
@[simp] theorem State.judge_answers : (s.judge).answers = s.answers := rfl
@[simp] theorem State.judge_freeCount : (s.judge).freeCount = s.freeCount := rfl
@[simp] theorem State.judge_pending : (s.judge).pending = s.pending := rfl

/-! ### putRecord -/

@[simp] theorem State.putRecord_links (n : Nat) (r : Rec) : (s.putRecord n r).links = s.links := rfl
@[simp] theorem State.putRecord_positions (n : Nat) (r : Rec) : (s.putRecord n r).positions = s.positions := rfl
@[simp] theorem State.putRecord_bankA (n : Nat) (r : Rec) : (s.putRecord n r).bankA = s.bankA := rfl
@[simp] theorem State.putRecord_bankB (n : Nat) (r : Rec) : (s.putRecord n r).bankB = s.bankB := rfl
@[simp] theorem State.putRecord_units (n : Nat) (r : Rec) : (s.putRecord n r).units = s.units := rfl
@[simp] theorem State.putRecord_queue (n : Nat) (r : Rec) : (s.putRecord n r).queue = s.queue := rfl
@[simp] theorem State.putRecord_grantState (n : Nat) (r : Rec) : (s.putRecord n r).grantState = s.grantState := rfl
@[simp] theorem State.putRecord_pool (n : Nat) (r : Rec) : (s.putRecord n r).pool = s.pool := rfl
@[simp] theorem State.putRecord_pendingReweigh (n : Nat) (r : Rec) : (s.putRecord n r).pendingReweigh = s.pendingReweigh := rfl
@[simp] theorem State.putRecord_integrity (n : Nat) (r : Rec) : (s.putRecord n r).integrity = s.integrity := rfl
@[simp] theorem State.putRecord_attention (n : Nat) (r : Rec) : (s.putRecord n r).attention = s.attention := rfl
@[simp] theorem State.putRecord_hallTime (n : Nat) (r : Rec) : (s.putRecord n r).hallTime = s.hallTime := rfl
@[simp] theorem State.putRecord_timers (n : Nat) (r : Rec) : (s.putRecord n r).timers = s.timers := rfl
@[simp] theorem State.putRecord_resetAsserted (n : Nat) (r : Rec) : (s.putRecord n r).resetAsserted = s.resetAsserted := rfl
@[simp] theorem State.putRecord_answers (n : Nat) (r : Rec) : (s.putRecord n r).answers = s.answers := rfl
@[simp] theorem State.putRecord_freeCount (n : Nat) (r : Rec) : (s.putRecord n r).freeCount = s.freeCount := rfl
@[simp] theorem State.putRecord_pending (n : Nat) (r : Rec) : (s.putRecord n r).pending = s.pending := rfl

/-! ### freeSlot -/

@[simp] theorem State.freeSlot_links (n : Nat) : (s.freeSlot n).links = s.links := rfl
@[simp] theorem State.freeSlot_positions (n : Nat) : (s.freeSlot n).positions = s.positions := rfl
@[simp] theorem State.freeSlot_bankA (n : Nat) : (s.freeSlot n).bankA = s.bankA := rfl
@[simp] theorem State.freeSlot_bankB (n : Nat) : (s.freeSlot n).bankB = s.bankB := rfl
@[simp] theorem State.freeSlot_units (n : Nat) : (s.freeSlot n).units = s.units := rfl
@[simp] theorem State.freeSlot_queue (n : Nat) : (s.freeSlot n).queue = s.queue := rfl
@[simp] theorem State.freeSlot_grantState (n : Nat) : (s.freeSlot n).grantState = s.grantState := rfl
@[simp] theorem State.freeSlot_pool (n : Nat) : (s.freeSlot n).pool = s.pool := rfl
@[simp] theorem State.freeSlot_pendingReweigh (n : Nat) : (s.freeSlot n).pendingReweigh = s.pendingReweigh := rfl
@[simp] theorem State.freeSlot_integrity (n : Nat) : (s.freeSlot n).integrity = s.integrity := rfl
@[simp] theorem State.freeSlot_attention (n : Nat) : (s.freeSlot n).attention = s.attention := rfl
@[simp] theorem State.freeSlot_hallTime (n : Nat) : (s.freeSlot n).hallTime = s.hallTime := rfl
@[simp] theorem State.freeSlot_timers (n : Nat) : (s.freeSlot n).timers = s.timers := rfl
@[simp] theorem State.freeSlot_resetAsserted (n : Nat) : (s.freeSlot n).resetAsserted = s.resetAsserted := rfl
@[simp] theorem State.freeSlot_answers (n : Nat) : (s.freeSlot n).answers = s.answers := rfl
@[simp] theorem State.freeSlot_freeCount (n : Nat) : (s.freeSlot n).freeCount = s.freeCount := rfl
@[simp] theorem State.freeSlot_pending (n : Nat) : (s.freeSlot n).pending = s.pending := rfl

/-! ### putIndex -/

@[simp] theorem State.putIndex_links (n : Nat) (e : IndexEntry) : (s.putIndex n e).links = s.links := rfl
@[simp] theorem State.putIndex_positions (n : Nat) (e : IndexEntry) : (s.putIndex n e).positions = s.positions := rfl
@[simp] theorem State.putIndex_bankA (n : Nat) (e : IndexEntry) : (s.putIndex n e).bankA = s.bankA := rfl
@[simp] theorem State.putIndex_bankB (n : Nat) (e : IndexEntry) : (s.putIndex n e).bankB = s.bankB := rfl
@[simp] theorem State.putIndex_units (n : Nat) (e : IndexEntry) : (s.putIndex n e).units = s.units := rfl
@[simp] theorem State.putIndex_queue (n : Nat) (e : IndexEntry) : (s.putIndex n e).queue = s.queue := rfl
@[simp] theorem State.putIndex_grantState (n : Nat) (e : IndexEntry) : (s.putIndex n e).grantState = s.grantState := rfl
@[simp] theorem State.putIndex_pool (n : Nat) (e : IndexEntry) : (s.putIndex n e).pool = s.pool := rfl
@[simp] theorem State.putIndex_pendingReweigh (n : Nat) (e : IndexEntry) : (s.putIndex n e).pendingReweigh = s.pendingReweigh := rfl
@[simp] theorem State.putIndex_integrity (n : Nat) (e : IndexEntry) : (s.putIndex n e).integrity = s.integrity := rfl
@[simp] theorem State.putIndex_attention (n : Nat) (e : IndexEntry) : (s.putIndex n e).attention = s.attention := rfl
@[simp] theorem State.putIndex_hallTime (n : Nat) (e : IndexEntry) : (s.putIndex n e).hallTime = s.hallTime := rfl
@[simp] theorem State.putIndex_timers (n : Nat) (e : IndexEntry) : (s.putIndex n e).timers = s.timers := rfl
@[simp] theorem State.putIndex_resetAsserted (n : Nat) (e : IndexEntry) : (s.putIndex n e).resetAsserted = s.resetAsserted := rfl
@[simp] theorem State.putIndex_answers (n : Nat) (e : IndexEntry) : (s.putIndex n e).answers = s.answers := rfl
@[simp] theorem State.putIndex_freeCount (n : Nat) (e : IndexEntry) : (s.putIndex n e).freeCount = s.freeCount := rfl
@[simp] theorem State.putIndex_pending (n : Nat) (e : IndexEntry) : (s.putIndex n e).pending = s.pending := rfl

/-! ### eraseIndex -/

@[simp] theorem State.eraseIndex_links (n : Nat) : (s.eraseIndex n).links = s.links := rfl
@[simp] theorem State.eraseIndex_positions (n : Nat) : (s.eraseIndex n).positions = s.positions := rfl
@[simp] theorem State.eraseIndex_bankA (n : Nat) : (s.eraseIndex n).bankA = s.bankA := rfl
@[simp] theorem State.eraseIndex_bankB (n : Nat) : (s.eraseIndex n).bankB = s.bankB := rfl
@[simp] theorem State.eraseIndex_units (n : Nat) : (s.eraseIndex n).units = s.units := rfl
@[simp] theorem State.eraseIndex_queue (n : Nat) : (s.eraseIndex n).queue = s.queue := rfl
@[simp] theorem State.eraseIndex_grantState (n : Nat) : (s.eraseIndex n).grantState = s.grantState := rfl
@[simp] theorem State.eraseIndex_pool (n : Nat) : (s.eraseIndex n).pool = s.pool := rfl
@[simp] theorem State.eraseIndex_pendingReweigh (n : Nat) : (s.eraseIndex n).pendingReweigh = s.pendingReweigh := rfl
@[simp] theorem State.eraseIndex_integrity (n : Nat) : (s.eraseIndex n).integrity = s.integrity := rfl
@[simp] theorem State.eraseIndex_attention (n : Nat) : (s.eraseIndex n).attention = s.attention := rfl
@[simp] theorem State.eraseIndex_hallTime (n : Nat) : (s.eraseIndex n).hallTime = s.hallTime := rfl
@[simp] theorem State.eraseIndex_timers (n : Nat) : (s.eraseIndex n).timers = s.timers := rfl
@[simp] theorem State.eraseIndex_resetAsserted (n : Nat) : (s.eraseIndex n).resetAsserted = s.resetAsserted := rfl
@[simp] theorem State.eraseIndex_answers (n : Nat) : (s.eraseIndex n).answers = s.answers := rfl
@[simp] theorem State.eraseIndex_freeCount (n : Nat) : (s.eraseIndex n).freeCount = s.freeCount := rfl
@[simp] theorem State.eraseIndex_pending (n : Nat) : (s.eraseIndex n).pending = s.pending := rfl

/-! ### hold -/

@[simp] theorem State.hold_positions (l : Link) (k : Kind) (g : Tag) : (s.hold l k g).positions = s.positions := by cases l <;> rfl
@[simp] theorem State.hold_table (l : Link) (k : Kind) (g : Tag) : (s.hold l k g).table = s.table := by cases l <;> rfl
@[simp] theorem State.hold_bankA (l : Link) (k : Kind) (g : Tag) : (s.hold l k g).bankA = s.bankA := by cases l <;> rfl
@[simp] theorem State.hold_bankB (l : Link) (k : Kind) (g : Tag) : (s.hold l k g).bankB = s.bankB := by cases l <;> rfl
@[simp] theorem State.hold_units (l : Link) (k : Kind) (g : Tag) : (s.hold l k g).units = s.units := by cases l <;> rfl
@[simp] theorem State.hold_queue (l : Link) (k : Kind) (g : Tag) : (s.hold l k g).queue = s.queue := by cases l <;> rfl
@[simp] theorem State.hold_grantState (l : Link) (k : Kind) (g : Tag) : (s.hold l k g).grantState = s.grantState := by cases l <;> rfl
@[simp] theorem State.hold_pool (l : Link) (k : Kind) (g : Tag) : (s.hold l k g).pool = s.pool := by cases l <;> rfl
@[simp] theorem State.hold_pendingReweigh (l : Link) (k : Kind) (g : Tag) : (s.hold l k g).pendingReweigh = s.pendingReweigh := by cases l <;> rfl
@[simp] theorem State.hold_integrity (l : Link) (k : Kind) (g : Tag) : (s.hold l k g).integrity = s.integrity := by cases l <;> rfl
@[simp] theorem State.hold_attention (l : Link) (k : Kind) (g : Tag) : (s.hold l k g).attention = s.attention := by cases l <;> rfl
@[simp] theorem State.hold_hallTime (l : Link) (k : Kind) (g : Tag) : (s.hold l k g).hallTime = s.hallTime := by cases l <;> rfl
@[simp] theorem State.hold_timers (l : Link) (k : Kind) (g : Tag) : (s.hold l k g).timers = s.timers := by cases l <;> rfl
@[simp] theorem State.hold_resetAsserted (l : Link) (k : Kind) (g : Tag) : (s.hold l k g).resetAsserted = s.resetAsserted := by cases l <;> rfl
@[simp] theorem State.hold_answers (l : Link) (k : Kind) (g : Tag) : (s.hold l k g).answers = s.answers := by cases l <;> rfl
@[simp] theorem State.hold_freeCount (l : Link) (k : Kind) (g : Tag) : (s.hold l k g).freeCount = s.freeCount := by cases l <;> rfl
@[simp] theorem State.hold_pending (l : Link) (k : Kind) (g : Tag) : (s.hold l k g).pending = s.pending := by cases l <;> rfl

/-! ### What is written -/

@[simp] theorem State.setCtx_positions (p : PositionNo) (c : Context) :
    (s.setCtx p c).positions = s.positions.set p.val c p.isLt := rfl
@[simp] theorem State.setUnit_units (u : UnitNo) (j : Option Job) :
    (s.setUnit u j).units = s.units.set u.val j u.isLt := rfl
@[simp] theorem State.send_answers (l : Link) (g : Tag) (k : Byte) (a : Answer) :
    (s.send l g k a).answers = s.answers ++ [⟨l, g, answerKind k, a⟩] := rfl
@[simp] theorem State.raise_attention (c : Cause) : (s.raise c).attention = s.attention.raise c := rfl
@[simp] theorem State.judge_attention : (s.judge).attention = s.attention.judge s.conditions := rfl

/-- Reading back the place of a vector that was written. -/
theorem get_set_same {α : Type} {n : Nat} (v : Vector α n) (i : Fin n) (x : α) :
    (v.set i.val x i.isLt).get i = x := by
  show (v.set i.val x i.isLt)[i.val] = x
  simp

/-- Reading another place of a vector that was written. -/
theorem get_set_other {α : Type} {n : Nat} (v : Vector α n) (i j : Fin n) (x : α) (h : i ≠ j) :
    (v.set i.val x i.isLt).get j = v.get j := by
  show (v.set i.val x i.isLt)[j.val] = v[j.val]
  exact Vector.getElem_set_ne _ _ (fun e => h (Fin.ext e))

/-- Writing back what a place of a vector holds. -/
theorem set_get_same {α : Type} {n : Nat} (v : Vector α n) (i : Fin n) : v.set i.val (v.get i) i.isLt = v := by
  show v.set i.val v[i.val] i.isLt = v
  simp

@[simp] theorem State.link_setLink (l : Link) (x : LinkState) : (s.setLink l x).link l = x := by
  cases l
  · exact get_set_same _ _ _
  · rfl
  · rfl

theorem State.link_setLink_other (l m : Link) (x : LinkState) (h : l ≠ m) : (s.setLink l x).link m = s.link m := by
  cases l <;> cases m <;> first | rfl | exact absurd rfl h | skip
  rename_i p q
  exact get_set_other _ _ _ _ (fun e => h (by rw [e]))

@[simp] theorem State.setLink_link (l : Link) : s.setLink l (s.link l) = s := by
  cases l
  · simp only [State.setLink, State.link, set_get_same]
  · rfl
  · rfl

@[simp] theorem State.setLink_setLink (l : Link) (x y : LinkState) : (s.setLink l x).setLink l y = s.setLink l y := by
  cases l <;> simp [State.setLink]

@[simp] theorem State.ctx_setCtx (p : PositionNo) (c : Context) : (s.setCtx p c).ctx p = c := get_set_same _ _ _

theorem State.ctx_setCtx_other (p q : PositionNo) (c : Context) (h : p ≠ q) : (s.setCtx p c).ctx q = s.ctx q :=
  get_set_other _ _ _ _ h

@[simp] theorem State.unit_setUnit (u : UnitNo) (j : Option Job) : (s.setUnit u j).unit u = j := get_set_same _ _ _

theorem State.unit_setUnit_other (u v : UnitNo) (j : Option Job) (h : u ≠ v) : (s.setUnit u j).unit v = s.unit v :=
  get_set_other _ _ _ _ h

@[simp] theorem State.bank_setBank (l : BankLetter) (b : Bank) : (s.setBank l b).bank l = b := by cases l <;> rfl

theorem State.bank_setBank_other (l m : BankLetter) (b : Bank) (h : l ≠ m) : (s.setBank l b).bank m = s.bank m := by
  cases l <;> cases m <;> simp_all [State.setBank, State.bank]

@[simp] theorem State.setBank_bank (l : BankLetter) : s.setBank l (s.bank l) = s := by cases l <;> rfl

/-! ### Readers that a write leaves alone -/

@[simp] theorem State.ctx_setLink (l : Link) (x : LinkState) (p : PositionNo) : (s.setLink l x).ctx p = s.ctx p := by
  cases l <;> rfl
@[simp] theorem State.ctx_send (l : Link) (g : Tag) (k : Byte) (a : Answer) (p : PositionNo) :
    (s.send l g k a).ctx p = s.ctx p := rfl
@[simp] theorem State.ctx_hold (l : Link) (k : Kind) (g : Tag) (p : PositionNo) : (s.hold l k g).ctx p = s.ctx p := by
  cases l <;> rfl
@[simp] theorem State.halted_setLink (l : Link) (x : LinkState) : (s.setLink l x).halted = s.halted := by
  cases l <;> rfl
@[simp] theorem State.halted_hold (l : Link) (k : Kind) (g : Tag) : (s.hold l k g).halted = s.halted := by
  cases l <;> rfl
@[simp] theorem State.halted_send (l : Link) (g : Tag) (k : Byte) (a : Answer) :
    (s.send l g k a).halted = s.halted := rfl
@[simp] theorem State.halted_setCtx (p : PositionNo) (c : Context) : (s.setCtx p c).halted = s.halted := rfl
@[simp] theorem State.bank_setLink (l : Link) (x : LinkState) (m : BankLetter) :
    (s.setLink l x).bank m = s.bank m := by cases l <;> rfl
@[simp] theorem State.bank_hold (l : Link) (k : Kind) (g : Tag) (m : BankLetter) :
    (s.hold l k g).bank m = s.bank m := by cases l <;> rfl
@[simp] theorem State.bank_setCtx (p : PositionNo) (c : Context) (m : BankLetter) :
    (s.setCtx p c).bank m = s.bank m := by cases m <;> rfl
@[simp] theorem State.find_setLink (l : Link) (x : LinkState) (h : Handle) : (s.setLink l x).find h = s.find h := by
  cases l <;> rfl
@[simp] theorem State.find_hold (l : Link) (k : Kind) (g : Tag) (h : Handle) : (s.hold l k g).find h = s.find h := by
  cases l <;> rfl
@[simp] theorem State.find_setCtx (p : PositionNo) (c : Context) (h : Handle) : (s.setCtx p c).find h = s.find h := rfl

/-- A request held on a link that had none outstanding and answered at once: only the answer frame is new. -/
theorem State.answer_hold (l : Link) (k : Kind) (g : Tag) (a : Answer) (h : (s.link l).outstanding = none) :
    (s.hold l k g).answer l a = s.send l g k.code a := by
  have e : ({ s.link l with outstanding := none } : LinkState) = s.link l := by
    cases hx : s.link l; simp_all
  simp only [State.hold, State.answer, State.link_setLink, State.setLink_setLink]
  rw [e, State.setLink_link]

end Sys2Proof.Machine
end

