-- ==== Sys2Proof/Laws/Ops.lean ====
section
/-! SUPPORT. The frames of the shared operations: for each, one lemma per field of State that it leaves alone. -/
namespace Sys2Proof.Machine

variable (s : State)

/-! ### answer -/

@[simp] theorem State.answer_positions (l : Link) (a : Answer) :
    (s.answer l a).positions = s.positions := by
  unfold State.answer; split <;> simp
@[simp] theorem State.answer_table (l : Link) (a : Answer) :
    (s.answer l a).table = s.table := by
  unfold State.answer; split <;> simp
@[simp] theorem State.answer_bankA (l : Link) (a : Answer) :
    (s.answer l a).bankA = s.bankA := by
  unfold State.answer; split <;> simp
@[simp] theorem State.answer_bankB (l : Link) (a : Answer) :
    (s.answer l a).bankB = s.bankB := by
  unfold State.answer; split <;> simp
@[simp] theorem State.answer_units (l : Link) (a : Answer) :
    (s.answer l a).units = s.units := by
  unfold State.answer; split <;> simp
@[simp] theorem State.answer_queue (l : Link) (a : Answer) :
    (s.answer l a).queue = s.queue := by
  unfold State.answer; split <;> simp
@[simp] theorem State.answer_grantState (l : Link) (a : Answer) :
    (s.answer l a).grantState = s.grantState := by
  unfold State.answer; split <;> simp
@[simp] theorem State.answer_pool (l : Link) (a : Answer) :
    (s.answer l a).pool = s.pool := by
  unfold State.answer; split <;> simp
@[simp] theorem State.answer_pendingReweigh (l : Link) (a : Answer) :
    (s.answer l a).pendingReweigh = s.pendingReweigh := by
  unfold State.answer; split <;> simp
@[simp] theorem State.answer_integrity (l : Link) (a : Answer) :
    (s.answer l a).integrity = s.integrity := by
  unfold State.answer; split <;> simp
@[simp] theorem State.answer_attention (l : Link) (a : Answer) :
    (s.answer l a).attention = s.attention := by
  unfold State.answer; split <;> simp
@[simp] theorem State.answer_hallTime (l : Link) (a : Answer) :
    (s.answer l a).hallTime = s.hallTime := by
  unfold State.answer; split <;> simp
@[simp] theorem State.answer_timers (l : Link) (a : Answer) :
    (s.answer l a).timers = s.timers := by
  unfold State.answer; split <;> simp
@[simp] theorem State.answer_resetAsserted (l : Link) (a : Answer) :
    (s.answer l a).resetAsserted = s.resetAsserted := by
  unfold State.answer; split <;> simp
@[simp] theorem State.answer_freeCount (l : Link) (a : Answer) :
    (s.answer l a).freeCount = s.freeCount := by
  unfold State.answer; split <;> simp
@[simp] theorem State.answer_pending (l : Link) (a : Answer) :
    (s.answer l a).pending = s.pending := by
  unfold State.answer; split <;> simp

/-! ### answerPosition -/

@[simp] theorem State.answerPosition_table (p : PositionNo) (a : Answer) :
    (s.answerPosition p a).table = s.table := by
  simp [State.answerPosition]
@[simp] theorem State.answerPosition_bankA (p : PositionNo) (a : Answer) :
    (s.answerPosition p a).bankA = s.bankA := by
  simp [State.answerPosition]
@[simp] theorem State.answerPosition_bankB (p : PositionNo) (a : Answer) :
    (s.answerPosition p a).bankB = s.bankB := by
  simp [State.answerPosition]
@[simp] theorem State.answerPosition_units (p : PositionNo) (a : Answer) :
    (s.answerPosition p a).units = s.units := by
  simp [State.answerPosition]
@[simp] theorem State.answerPosition_queue (p : PositionNo) (a : Answer) :
    (s.answerPosition p a).queue = s.queue := by
  simp [State.answerPosition]
@[simp] theorem State.answerPosition_grantState (p : PositionNo) (a : Answer) :
    (s.answerPosition p a).grantState = s.grantState := by
  simp [State.answerPosition]
@[simp] theorem State.answerPosition_pool (p : PositionNo) (a : Answer) :
    (s.answerPosition p a).pool = s.pool := by
  simp [State.answerPosition]
@[simp] theorem State.answerPosition_pendingReweigh (p : PositionNo) (a : Answer) :
    (s.answerPosition p a).pendingReweigh = s.pendingReweigh := by
  simp [State.answerPosition]
@[simp] theorem State.answerPosition_integrity (p : PositionNo) (a : Answer) :
    (s.answerPosition p a).integrity = s.integrity := by
  simp [State.answerPosition]
@[simp] theorem State.answerPosition_attention (p : PositionNo) (a : Answer) :
    (s.answerPosition p a).attention = s.attention := by
  simp [State.answerPosition]
@[simp] theorem State.answerPosition_hallTime (p : PositionNo) (a : Answer) :
    (s.answerPosition p a).hallTime = s.hallTime := by
  simp [State.answerPosition]
@[simp] theorem State.answerPosition_timers (p : PositionNo) (a : Answer) :
    (s.answerPosition p a).timers = s.timers := by
  simp [State.answerPosition]
@[simp] theorem State.answerPosition_resetAsserted (p : PositionNo) (a : Answer) :
    (s.answerPosition p a).resetAsserted = s.resetAsserted := by
  simp [State.answerPosition]
@[simp] theorem State.answerPosition_freeCount (p : PositionNo) (a : Answer) :
    (s.answerPosition p a).freeCount = s.freeCount := by
  simp [State.answerPosition]
@[simp] theorem State.answerPosition_pending (p : PositionNo) (a : Answer) :
    (s.answerPosition p a).pending = s.pending := by
  simp [State.answerPosition]

/-! ### answerRequester -/

@[simp] theorem State.answerRequester_table (r : Requester) (a : Answer) :
    (s.answerRequester r a).table = s.table := by
  cases r <;> simp [State.answerRequester]
@[simp] theorem State.answerRequester_bankA (r : Requester) (a : Answer) :
    (s.answerRequester r a).bankA = s.bankA := by
  cases r <;> simp [State.answerRequester]
@[simp] theorem State.answerRequester_bankB (r : Requester) (a : Answer) :
    (s.answerRequester r a).bankB = s.bankB := by
  cases r <;> simp [State.answerRequester]
@[simp] theorem State.answerRequester_units (r : Requester) (a : Answer) :
    (s.answerRequester r a).units = s.units := by
  cases r <;> simp [State.answerRequester]
@[simp] theorem State.answerRequester_queue (r : Requester) (a : Answer) :
    (s.answerRequester r a).queue = s.queue := by
  cases r <;> simp [State.answerRequester]
@[simp] theorem State.answerRequester_grantState (r : Requester) (a : Answer) :
    (s.answerRequester r a).grantState = s.grantState := by
  cases r <;> simp [State.answerRequester]
@[simp] theorem State.answerRequester_pool (r : Requester) (a : Answer) :
    (s.answerRequester r a).pool = s.pool := by
  cases r <;> simp [State.answerRequester]
@[simp] theorem State.answerRequester_integrity (r : Requester) (a : Answer) :
    (s.answerRequester r a).integrity = s.integrity := by
  cases r <;> simp [State.answerRequester]
@[simp] theorem State.answerRequester_attention (r : Requester) (a : Answer) :
    (s.answerRequester r a).attention = s.attention := by
  cases r <;> simp [State.answerRequester]
@[simp] theorem State.answerRequester_hallTime (r : Requester) (a : Answer) :
    (s.answerRequester r a).hallTime = s.hallTime := by
  cases r <;> simp [State.answerRequester]
@[simp] theorem State.answerRequester_timers (r : Requester) (a : Answer) :
    (s.answerRequester r a).timers = s.timers := by
  cases r <;> simp [State.answerRequester]
@[simp] theorem State.answerRequester_resetAsserted (r : Requester) (a : Answer) :
    (s.answerRequester r a).resetAsserted = s.resetAsserted := by
  cases r <;> simp [State.answerRequester]
@[simp] theorem State.answerRequester_freeCount (r : Requester) (a : Answer) :
    (s.answerRequester r a).freeCount = s.freeCount := by
  cases r <;> simp [State.answerRequester]
@[simp] theorem State.answerRequester_pending (r : Requester) (a : Answer) :
    (s.answerRequester r a).pending = s.pending := by
  cases r <;> simp [State.answerRequester]

/-! ### markBusy -/

@[simp] theorem State.markBusy_links (n : Nat) (m : Bool) :
    (s.markBusy n m).links = s.links := by
  unfold State.markBusy; split <;> simp
@[simp] theorem State.markBusy_positions (n : Nat) (m : Bool) :
    (s.markBusy n m).positions = s.positions := by
  unfold State.markBusy; split <;> simp
@[simp] theorem State.markBusy_bankA (n : Nat) (m : Bool) :
    (s.markBusy n m).bankA = s.bankA := by
  unfold State.markBusy; split <;> simp
@[simp] theorem State.markBusy_bankB (n : Nat) (m : Bool) :
    (s.markBusy n m).bankB = s.bankB := by
  unfold State.markBusy; split <;> simp
@[simp] theorem State.markBusy_units (n : Nat) (m : Bool) :
    (s.markBusy n m).units = s.units := by
  unfold State.markBusy; split <;> simp
@[simp] theorem State.markBusy_queue (n : Nat) (m : Bool) :
    (s.markBusy n m).queue = s.queue := by
  unfold State.markBusy; split <;> simp
@[simp] theorem State.markBusy_grantState (n : Nat) (m : Bool) :
    (s.markBusy n m).grantState = s.grantState := by
  unfold State.markBusy; split <;> simp
@[simp] theorem State.markBusy_pool (n : Nat) (m : Bool) :
    (s.markBusy n m).pool = s.pool := by
  unfold State.markBusy; split <;> simp
@[simp] theorem State.markBusy_pendingReweigh (n : Nat) (m : Bool) :
    (s.markBusy n m).pendingReweigh = s.pendingReweigh := by
  unfold State.markBusy; split <;> simp
@[simp] theorem State.markBusy_integrity (n : Nat) (m : Bool) :
    (s.markBusy n m).integrity = s.integrity := by
  unfold State.markBusy; split <;> simp
@[simp] theorem State.markBusy_attention (n : Nat) (m : Bool) :
    (s.markBusy n m).attention = s.attention := by
  unfold State.markBusy; split <;> simp
@[simp] theorem State.markBusy_hallTime (n : Nat) (m : Bool) :
    (s.markBusy n m).hallTime = s.hallTime := by
  unfold State.markBusy; split <;> simp
@[simp] theorem State.markBusy_timers (n : Nat) (m : Bool) :
    (s.markBusy n m).timers = s.timers := by
  unfold State.markBusy; split <;> simp
@[simp] theorem State.markBusy_resetAsserted (n : Nat) (m : Bool) :
    (s.markBusy n m).resetAsserted = s.resetAsserted := by
  unfold State.markBusy; split <;> simp
@[simp] theorem State.markBusy_answers (n : Nat) (m : Bool) :
    (s.markBusy n m).answers = s.answers := by
  unfold State.markBusy; split <;> simp
@[simp] theorem State.markBusy_freeCount (n : Nat) (m : Bool) :
    (s.markBusy n m).freeCount = s.freeCount := by
  unfold State.markBusy; split <;> simp
@[simp] theorem State.markBusy_pending (n : Nat) (m : Bool) :
    (s.markBusy n m).pending = s.pending := by
  unfold State.markBusy; split <;> simp

/-! ### markQueued -/

@[simp] theorem State.markQueued_links (n : Nat) (m : Bool) :
    (s.markQueued n m).links = s.links := by
  unfold State.markQueued; split <;> simp
@[simp] theorem State.markQueued_positions (n : Nat) (m : Bool) :
    (s.markQueued n m).positions = s.positions := by
  unfold State.markQueued; split <;> simp
@[simp] theorem State.markQueued_bankA (n : Nat) (m : Bool) :
    (s.markQueued n m).bankA = s.bankA := by
  unfold State.markQueued; split <;> simp
@[simp] theorem State.markQueued_bankB (n : Nat) (m : Bool) :
    (s.markQueued n m).bankB = s.bankB := by
  unfold State.markQueued; split <;> simp
@[simp] theorem State.markQueued_units (n : Nat) (m : Bool) :
    (s.markQueued n m).units = s.units := by
  unfold State.markQueued; split <;> simp
@[simp] theorem State.markQueued_queue (n : Nat) (m : Bool) :
    (s.markQueued n m).queue = s.queue := by
  unfold State.markQueued; split <;> simp
@[simp] theorem State.markQueued_grantState (n : Nat) (m : Bool) :
    (s.markQueued n m).grantState = s.grantState := by
  unfold State.markQueued; split <;> simp
@[simp] theorem State.markQueued_pool (n : Nat) (m : Bool) :
    (s.markQueued n m).pool = s.pool := by
  unfold State.markQueued; split <;> simp
@[simp] theorem State.markQueued_pendingReweigh (n : Nat) (m : Bool) :
    (s.markQueued n m).pendingReweigh = s.pendingReweigh := by
  unfold State.markQueued; split <;> simp
@[simp] theorem State.markQueued_integrity (n : Nat) (m : Bool) :
    (s.markQueued n m).integrity = s.integrity := by
  unfold State.markQueued; split <;> simp
@[simp] theorem State.markQueued_attention (n : Nat) (m : Bool) :
    (s.markQueued n m).attention = s.attention := by
  unfold State.markQueued; split <;> simp
@[simp] theorem State.markQueued_hallTime (n : Nat) (m : Bool) :
    (s.markQueued n m).hallTime = s.hallTime := by
  unfold State.markQueued; split <;> simp
@[simp] theorem State.markQueued_timers (n : Nat) (m : Bool) :
    (s.markQueued n m).timers = s.timers := by
  unfold State.markQueued; split <;> simp
@[simp] theorem State.markQueued_resetAsserted (n : Nat) (m : Bool) :
    (s.markQueued n m).resetAsserted = s.resetAsserted := by
  unfold State.markQueued; split <;> simp
@[simp] theorem State.markQueued_answers (n : Nat) (m : Bool) :
    (s.markQueued n m).answers = s.answers := by
  unfold State.markQueued; split <;> simp
@[simp] theorem State.markQueued_freeCount (n : Nat) (m : Bool) :
    (s.markQueued n m).freeCount = s.freeCount := by
  unfold State.markQueued; split <;> simp
@[simp] theorem State.markQueued_pending (n : Nat) (m : Bool) :
    (s.markQueued n m).pending = s.pending := by
  unfold State.markQueued; split <;> simp

/-! ### takePin -/

@[simp] theorem State.takePin_links (l : BankLetter) :
    (s.takePin l).links = s.links := by
  simp [State.takePin]
@[simp] theorem State.takePin_positions (l : BankLetter) :
    (s.takePin l).positions = s.positions := by
  simp [State.takePin]
@[simp] theorem State.takePin_table (l : BankLetter) :
    (s.takePin l).table = s.table := by
  simp [State.takePin]
@[simp] theorem State.takePin_units (l : BankLetter) :
    (s.takePin l).units = s.units := by
  simp [State.takePin]
@[simp] theorem State.takePin_queue (l : BankLetter) :
    (s.takePin l).queue = s.queue := by
  simp [State.takePin]
@[simp] theorem State.takePin_grantState (l : BankLetter) :
    (s.takePin l).grantState = s.grantState := by
  simp [State.takePin]
@[simp] theorem State.takePin_pool (l : BankLetter) :
    (s.takePin l).pool = s.pool := by
  simp [State.takePin]
@[simp] theorem State.takePin_pendingReweigh (l : BankLetter) :
    (s.takePin l).pendingReweigh = s.pendingReweigh := by
  simp [State.takePin]
@[simp] theorem State.takePin_integrity (l : BankLetter) :
    (s.takePin l).integrity = s.integrity := by
  simp [State.takePin]
@[simp] theorem State.takePin_attention (l : BankLetter) :
    (s.takePin l).attention = s.attention := by
  simp [State.takePin]
@[simp] theorem State.takePin_hallTime (l : BankLetter) :
    (s.takePin l).hallTime = s.hallTime := by
  simp [State.takePin]
@[simp] theorem State.takePin_timers (l : BankLetter) :
    (s.takePin l).timers = s.timers := by
  simp [State.takePin]
@[simp] theorem State.takePin_resetAsserted (l : BankLetter) :
    (s.takePin l).resetAsserted = s.resetAsserted := by
  simp [State.takePin]
@[simp] theorem State.takePin_answers (l : BankLetter) :
    (s.takePin l).answers = s.answers := by
  simp [State.takePin]
@[simp] theorem State.takePin_freeCount (l : BankLetter) :
    (s.takePin l).freeCount = s.freeCount := by
  simp [State.takePin]
@[simp] theorem State.takePin_pending (l : BankLetter) :
    (s.takePin l).pending = s.pending := by
  simp [State.takePin]

/-! ### releasePin -/

@[simp] theorem State.releasePin_links (l : BankLetter) :
    (s.releasePin l).links = s.links := by
  simp only [State.releasePin]; (repeat' split) <;> simp
@[simp] theorem State.releasePin_positions (l : BankLetter) :
    (s.releasePin l).positions = s.positions := by
  simp only [State.releasePin]; (repeat' split) <;> simp
@[simp] theorem State.releasePin_table (l : BankLetter) :
    (s.releasePin l).table = s.table := by
  simp only [State.releasePin]; (repeat' split) <;> simp
@[simp] theorem State.releasePin_units (l : BankLetter) :
    (s.releasePin l).units = s.units := by
  simp only [State.releasePin]; (repeat' split) <;> simp
@[simp] theorem State.releasePin_queue (l : BankLetter) :
    (s.releasePin l).queue = s.queue := by
  simp only [State.releasePin]; (repeat' split) <;> simp
@[simp] theorem State.releasePin_grantState (l : BankLetter) :
    (s.releasePin l).grantState = s.grantState := by
  simp only [State.releasePin]; (repeat' split) <;> simp
@[simp] theorem State.releasePin_pool (l : BankLetter) :
    (s.releasePin l).pool = s.pool := by
  simp only [State.releasePin]; (repeat' split) <;> simp
@[simp] theorem State.releasePin_pendingReweigh (l : BankLetter) :
    (s.releasePin l).pendingReweigh = s.pendingReweigh := by
  simp only [State.releasePin]; (repeat' split) <;> simp
@[simp] theorem State.releasePin_integrity (l : BankLetter) :
    (s.releasePin l).integrity = s.integrity := by
  simp only [State.releasePin]; (repeat' split) <;> simp
@[simp] theorem State.releasePin_hallTime (l : BankLetter) :
    (s.releasePin l).hallTime = s.hallTime := by
  simp only [State.releasePin]; (repeat' split) <;> simp
@[simp] theorem State.releasePin_timers (l : BankLetter) :
    (s.releasePin l).timers = s.timers := by
  simp only [State.releasePin]; (repeat' split) <;> simp
@[simp] theorem State.releasePin_resetAsserted (l : BankLetter) :
    (s.releasePin l).resetAsserted = s.resetAsserted := by
  simp only [State.releasePin]; (repeat' split) <;> simp
@[simp] theorem State.releasePin_answers (l : BankLetter) :
    (s.releasePin l).answers = s.answers := by
  simp only [State.releasePin]; (repeat' split) <;> simp
@[simp] theorem State.releasePin_freeCount (l : BankLetter) :
    (s.releasePin l).freeCount = s.freeCount := by
  simp only [State.releasePin]; (repeat' split) <;> simp
@[simp] theorem State.releasePin_pending (l : BankLetter) :
    (s.releasePin l).pending = s.pending := by
  simp only [State.releasePin]; (repeat' split) <;> simp

/-! ### releaseBodyPin -/

@[simp] theorem State.releaseBodyPin_links (r : RecordBody) :
    (s.releaseBodyPin r).links = s.links := by
  unfold State.releaseBodyPin; split <;> simp
@[simp] theorem State.releaseBodyPin_positions (r : RecordBody) :
    (s.releaseBodyPin r).positions = s.positions := by
  unfold State.releaseBodyPin; split <;> simp
@[simp] theorem State.releaseBodyPin_table (r : RecordBody) :
    (s.releaseBodyPin r).table = s.table := by
  unfold State.releaseBodyPin; split <;> simp
@[simp] theorem State.releaseBodyPin_units (r : RecordBody) :
    (s.releaseBodyPin r).units = s.units := by
  unfold State.releaseBodyPin; split <;> simp
@[simp] theorem State.releaseBodyPin_queue (r : RecordBody) :
    (s.releaseBodyPin r).queue = s.queue := by
  unfold State.releaseBodyPin; split <;> simp
@[simp] theorem State.releaseBodyPin_grantState (r : RecordBody) :
    (s.releaseBodyPin r).grantState = s.grantState := by
  unfold State.releaseBodyPin; split <;> simp
@[simp] theorem State.releaseBodyPin_pool (r : RecordBody) :
    (s.releaseBodyPin r).pool = s.pool := by
  unfold State.releaseBodyPin; split <;> simp
@[simp] theorem State.releaseBodyPin_pendingReweigh (r : RecordBody) :
    (s.releaseBodyPin r).pendingReweigh = s.pendingReweigh := by
  unfold State.releaseBodyPin; split <;> simp
@[simp] theorem State.releaseBodyPin_integrity (r : RecordBody) :
    (s.releaseBodyPin r).integrity = s.integrity := by
  unfold State.releaseBodyPin; split <;> simp
@[simp] theorem State.releaseBodyPin_hallTime (r : RecordBody) :
    (s.releaseBodyPin r).hallTime = s.hallTime := by
  unfold State.releaseBodyPin; split <;> simp
@[simp] theorem State.releaseBodyPin_timers (r : RecordBody) :
    (s.releaseBodyPin r).timers = s.timers := by
  unfold State.releaseBodyPin; split <;> simp
@[simp] theorem State.releaseBodyPin_resetAsserted (r : RecordBody) :
    (s.releaseBodyPin r).resetAsserted = s.resetAsserted := by
  unfold State.releaseBodyPin; split <;> simp
@[simp] theorem State.releaseBodyPin_answers (r : RecordBody) :
    (s.releaseBodyPin r).answers = s.answers := by
  unfold State.releaseBodyPin; split <;> simp
@[simp] theorem State.releaseBodyPin_freeCount (r : RecordBody) :
    (s.releaseBodyPin r).freeCount = s.freeCount := by
  unfold State.releaseBodyPin; split <;> simp
@[simp] theorem State.releaseBodyPin_pending (r : RecordBody) :
    (s.releaseBodyPin r).pending = s.pending := by
  unfold State.releaseBodyPin; split <;> simp

/-! ### report -/

@[simp] theorem State.report_links (x : ReportSubject) (r : Reader) :
    (s.report x r).links = s.links := by
  simp only [State.report]; split <;> simp
@[simp] theorem State.report_positions (x : ReportSubject) (r : Reader) :
    (s.report x r).positions = s.positions := by
  simp only [State.report]; split <;> simp
@[simp] theorem State.report_table (x : ReportSubject) (r : Reader) :
    (s.report x r).table = s.table := by
  simp only [State.report]; split <;> simp
@[simp] theorem State.report_bankA (x : ReportSubject) (r : Reader) :
    (s.report x r).bankA = s.bankA := by
  simp only [State.report]; split <;> simp
@[simp] theorem State.report_bankB (x : ReportSubject) (r : Reader) :
    (s.report x r).bankB = s.bankB := by
  simp only [State.report]; split <;> simp
@[simp] theorem State.report_units (x : ReportSubject) (r : Reader) :
    (s.report x r).units = s.units := by
  simp only [State.report]; split <;> simp
@[simp] theorem State.report_queue (x : ReportSubject) (r : Reader) :
    (s.report x r).queue = s.queue := by
  simp only [State.report]; split <;> simp
@[simp] theorem State.report_grantState (x : ReportSubject) (r : Reader) :
    (s.report x r).grantState = s.grantState := by
  simp only [State.report]; split <;> simp
@[simp] theorem State.report_pool (x : ReportSubject) (r : Reader) :
    (s.report x r).pool = s.pool := by
  simp only [State.report]; split <;> simp
@[simp] theorem State.report_pendingReweigh (x : ReportSubject) (r : Reader) :
    (s.report x r).pendingReweigh = s.pendingReweigh := by
  simp only [State.report]; split <;> simp
@[simp] theorem State.report_hallTime (x : ReportSubject) (r : Reader) :
    (s.report x r).hallTime = s.hallTime := by
  simp only [State.report]; split <;> simp
@[simp] theorem State.report_timers (x : ReportSubject) (r : Reader) :
    (s.report x r).timers = s.timers := by
  simp only [State.report]; split <;> simp
@[simp] theorem State.report_resetAsserted (x : ReportSubject) (r : Reader) :
    (s.report x r).resetAsserted = s.resetAsserted := by
  simp only [State.report]; split <;> simp
@[simp] theorem State.report_answers (x : ReportSubject) (r : Reader) :
    (s.report x r).answers = s.answers := by
  simp only [State.report]; split <;> simp
@[simp] theorem State.report_freeCount (x : ReportSubject) (r : Reader) :
    (s.report x r).freeCount = s.freeCount := by
  simp only [State.report]; split <;> simp
@[simp] theorem State.report_pending (x : ReportSubject) (r : Reader) :
    (s.report x r).pending = s.pending := by
  simp only [State.report]; split <;> simp

/-! ### endJobOn -/

@[simp] theorem State.endJobOn_table (h : Handle) (a : Answer) :
    (s.endJobOn h a).table = s.table := by
  simp only [State.endJobOn]; (repeat' split) <;> simp
@[simp] theorem State.endJobOn_queue (h : Handle) (a : Answer) :
    (s.endJobOn h a).queue = s.queue := by
  simp only [State.endJobOn]; (repeat' split) <;> simp
@[simp] theorem State.endJobOn_grantState (h : Handle) (a : Answer) :
    (s.endJobOn h a).grantState = s.grantState := by
  simp only [State.endJobOn]; (repeat' split) <;> simp
@[simp] theorem State.endJobOn_pool (h : Handle) (a : Answer) :
    (s.endJobOn h a).pool = s.pool := by
  simp only [State.endJobOn]; (repeat' split) <;> simp
@[simp] theorem State.endJobOn_integrity (h : Handle) (a : Answer) :
    (s.endJobOn h a).integrity = s.integrity := by
  simp only [State.endJobOn]; (repeat' split) <;> simp
@[simp] theorem State.endJobOn_hallTime (h : Handle) (a : Answer) :
    (s.endJobOn h a).hallTime = s.hallTime := by
  simp only [State.endJobOn]; (repeat' split) <;> simp
@[simp] theorem State.endJobOn_timers (h : Handle) (a : Answer) :
    (s.endJobOn h a).timers = s.timers := by
  simp only [State.endJobOn]; (repeat' split) <;> simp
@[simp] theorem State.endJobOn_resetAsserted (h : Handle) (a : Answer) :
    (s.endJobOn h a).resetAsserted = s.resetAsserted := by
  simp only [State.endJobOn]; (repeat' split) <;> simp
@[simp] theorem State.endJobOn_freeCount (h : Handle) (a : Answer) :
    (s.endJobOn h a).freeCount = s.freeCount := by
  simp only [State.endJobOn]; (repeat' split) <;> simp
@[simp] theorem State.endJobOn_pending (h : Handle) (a : Answer) :
    (s.endJobOn h a).pending = s.pending := by
  simp only [State.endJobOn]; (repeat' split) <;> simp

/-! ### dropEntryOn -/

@[simp] theorem State.dropEntryOn_table (h : Handle) (a : Answer) :
    (s.dropEntryOn h a).table = s.table := by
  unfold State.dropEntryOn; split <;> simp
@[simp] theorem State.dropEntryOn_bankA (h : Handle) (a : Answer) :
    (s.dropEntryOn h a).bankA = s.bankA := by
  unfold State.dropEntryOn; split <;> simp
@[simp] theorem State.dropEntryOn_bankB (h : Handle) (a : Answer) :
    (s.dropEntryOn h a).bankB = s.bankB := by
  unfold State.dropEntryOn; split <;> simp
@[simp] theorem State.dropEntryOn_units (h : Handle) (a : Answer) :
    (s.dropEntryOn h a).units = s.units := by
  unfold State.dropEntryOn; split <;> simp
@[simp] theorem State.dropEntryOn_grantState (h : Handle) (a : Answer) :
    (s.dropEntryOn h a).grantState = s.grantState := by
  unfold State.dropEntryOn; split <;> simp
@[simp] theorem State.dropEntryOn_pool (h : Handle) (a : Answer) :
    (s.dropEntryOn h a).pool = s.pool := by
  unfold State.dropEntryOn; split <;> simp
@[simp] theorem State.dropEntryOn_integrity (h : Handle) (a : Answer) :
    (s.dropEntryOn h a).integrity = s.integrity := by
  unfold State.dropEntryOn; split <;> simp
@[simp] theorem State.dropEntryOn_attention (h : Handle) (a : Answer) :
    (s.dropEntryOn h a).attention = s.attention := by
  unfold State.dropEntryOn; split <;> simp
@[simp] theorem State.dropEntryOn_hallTime (h : Handle) (a : Answer) :
    (s.dropEntryOn h a).hallTime = s.hallTime := by
  unfold State.dropEntryOn; split <;> simp
@[simp] theorem State.dropEntryOn_timers (h : Handle) (a : Answer) :
    (s.dropEntryOn h a).timers = s.timers := by
  unfold State.dropEntryOn; split <;> simp
@[simp] theorem State.dropEntryOn_resetAsserted (h : Handle) (a : Answer) :
    (s.dropEntryOn h a).resetAsserted = s.resetAsserted := by
  unfold State.dropEntryOn; split <;> simp
@[simp] theorem State.dropEntryOn_freeCount (h : Handle) (a : Answer) :
    (s.dropEntryOn h a).freeCount = s.freeCount := by
  unfold State.dropEntryOn; split <;> simp
@[simp] theorem State.dropEntryOn_pending (h : Handle) (a : Answer) :
    (s.dropEntryOn h a).pending = s.pending := by
  unfold State.dropEntryOn; split <;> simp

/-! ### damageRecord -/

@[simp] theorem State.damageRecord_grantState (n : Nat) (r : Rec) (x : ReportSubject) :
    (s.damageRecord n r x).grantState = s.grantState := by
  simp only [State.damageRecord]; (repeat' split) <;> simp
@[simp] theorem State.damageRecord_pool (n : Nat) (r : Rec) (x : ReportSubject) :
    (s.damageRecord n r x).pool = s.pool := by
  simp only [State.damageRecord]; (repeat' split) <;> simp
@[simp] theorem State.damageRecord_integrity (n : Nat) (r : Rec) (x : ReportSubject) :
    (s.damageRecord n r x).integrity = s.integrity := by
  simp only [State.damageRecord]; (repeat' split) <;> simp
@[simp] theorem State.damageRecord_hallTime (n : Nat) (r : Rec) (x : ReportSubject) :
    (s.damageRecord n r x).hallTime = s.hallTime := by
  simp only [State.damageRecord]; (repeat' split) <;> simp
@[simp] theorem State.damageRecord_timers (n : Nat) (r : Rec) (x : ReportSubject) :
    (s.damageRecord n r x).timers = s.timers := by
  simp only [State.damageRecord]; (repeat' split) <;> simp
@[simp] theorem State.damageRecord_resetAsserted (n : Nat) (r : Rec) (x : ReportSubject) :
    (s.damageRecord n r x).resetAsserted = s.resetAsserted := by
  simp only [State.damageRecord]; (repeat' split) <;> simp
@[simp] theorem State.damageRecord_freeCount (n : Nat) (r : Rec) (x : ReportSubject) :
    (s.damageRecord n r x).freeCount = s.freeCount := by
  simp only [State.damageRecord]; (repeat' split) <;> simp
@[simp] theorem State.damageRecord_pending (n : Nat) (r : Rec) (x : ReportSubject) :
    (s.damageRecord n r x).pending = s.pending := by
  simp only [State.damageRecord]; (repeat' split) <;> simp

/-! ### upsetRecord -/

@[simp] theorem State.upsetRecord_links (n : Nat) :
    (s.upsetRecord n).links = s.links := by
  unfold State.upsetRecord; split <;> simp
@[simp] theorem State.upsetRecord_positions (n : Nat) :
    (s.upsetRecord n).positions = s.positions := by
  unfold State.upsetRecord; split <;> simp
@[simp] theorem State.upsetRecord_bankA (n : Nat) :
    (s.upsetRecord n).bankA = s.bankA := by
  unfold State.upsetRecord; split <;> simp
@[simp] theorem State.upsetRecord_bankB (n : Nat) :
    (s.upsetRecord n).bankB = s.bankB := by
  unfold State.upsetRecord; split <;> simp
@[simp] theorem State.upsetRecord_units (n : Nat) :
    (s.upsetRecord n).units = s.units := by
  unfold State.upsetRecord; split <;> simp
@[simp] theorem State.upsetRecord_queue (n : Nat) :
    (s.upsetRecord n).queue = s.queue := by
  unfold State.upsetRecord; split <;> simp
@[simp] theorem State.upsetRecord_grantState (n : Nat) :
    (s.upsetRecord n).grantState = s.grantState := by
  unfold State.upsetRecord; split <;> simp
@[simp] theorem State.upsetRecord_pool (n : Nat) :
    (s.upsetRecord n).pool = s.pool := by
  unfold State.upsetRecord; split <;> simp
@[simp] theorem State.upsetRecord_pendingReweigh (n : Nat) :
    (s.upsetRecord n).pendingReweigh = s.pendingReweigh := by
  unfold State.upsetRecord; split <;> simp
@[simp] theorem State.upsetRecord_integrity (n : Nat) :
    (s.upsetRecord n).integrity = s.integrity := by
  unfold State.upsetRecord; split <;> simp
@[simp] theorem State.upsetRecord_attention (n : Nat) :
    (s.upsetRecord n).attention = s.attention := by
  unfold State.upsetRecord; split <;> simp
@[simp] theorem State.upsetRecord_hallTime (n : Nat) :
    (s.upsetRecord n).hallTime = s.hallTime := by
  unfold State.upsetRecord; split <;> simp
@[simp] theorem State.upsetRecord_timers (n : Nat) :
    (s.upsetRecord n).timers = s.timers := by
  unfold State.upsetRecord; split <;> simp
@[simp] theorem State.upsetRecord_resetAsserted (n : Nat) :
    (s.upsetRecord n).resetAsserted = s.resetAsserted := by
  unfold State.upsetRecord; split <;> simp
@[simp] theorem State.upsetRecord_answers (n : Nat) :
    (s.upsetRecord n).answers = s.answers := by
  unfold State.upsetRecord; split <;> simp
@[simp] theorem State.upsetRecord_freeCount (n : Nat) :
    (s.upsetRecord n).freeCount = s.freeCount := by
  unfold State.upsetRecord; split <;> simp
@[simp] theorem State.upsetRecord_pending (n : Nat) :
    (s.upsetRecord n).pending = s.pending := by
  unfold State.upsetRecord; split <;> simp

/-! ### readAt -/

@[simp] theorem State.readAt_grantState (rd : Reader) (n : Nat) (r : Rec) :
    ((s.readAt rd n r).1).grantState = s.grantState := by
  simp only [State.readAt]; split <;> simp
@[simp] theorem State.readAt_pool (rd : Reader) (n : Nat) (r : Rec) :
    ((s.readAt rd n r).1).pool = s.pool := by
  simp only [State.readAt]; split <;> simp
@[simp] theorem State.readAt_hallTime (rd : Reader) (n : Nat) (r : Rec) :
    ((s.readAt rd n r).1).hallTime = s.hallTime := by
  simp only [State.readAt]; split <;> simp
@[simp] theorem State.readAt_timers (rd : Reader) (n : Nat) (r : Rec) :
    ((s.readAt rd n r).1).timers = s.timers := by
  simp only [State.readAt]; split <;> simp
@[simp] theorem State.readAt_resetAsserted (rd : Reader) (n : Nat) (r : Rec) :
    ((s.readAt rd n r).1).resetAsserted = s.resetAsserted := by
  simp only [State.readAt]; split <;> simp
@[simp] theorem State.readAt_freeCount (rd : Reader) (n : Nat) (r : Rec) :
    ((s.readAt rd n r).1).freeCount = s.freeCount := by
  simp only [State.readAt]; split <;> simp
@[simp] theorem State.readAt_pending (rd : Reader) (n : Nat) (r : Rec) :
    ((s.readAt rd n r).1).pending = s.pending := by
  simp only [State.readAt]; split <;> simp

/-! ### lookupHandle -/

@[simp] theorem State.lookupHandle_grantState (rd : Reader) (h : Handle) :
    ((s.lookupHandle rd h).1).grantState = s.grantState := by
  unfold State.lookupHandle; split <;> simp
@[simp] theorem State.lookupHandle_pool (rd : Reader) (h : Handle) :
    ((s.lookupHandle rd h).1).pool = s.pool := by
  unfold State.lookupHandle; split <;> simp
@[simp] theorem State.lookupHandle_hallTime (rd : Reader) (h : Handle) :
    ((s.lookupHandle rd h).1).hallTime = s.hallTime := by
  unfold State.lookupHandle; split <;> simp
@[simp] theorem State.lookupHandle_timers (rd : Reader) (h : Handle) :
    ((s.lookupHandle rd h).1).timers = s.timers := by
  unfold State.lookupHandle; split <;> simp
@[simp] theorem State.lookupHandle_resetAsserted (rd : Reader) (h : Handle) :
    ((s.lookupHandle rd h).1).resetAsserted = s.resetAsserted := by
  unfold State.lookupHandle; split <;> simp
@[simp] theorem State.lookupHandle_freeCount (rd : Reader) (h : Handle) :
    ((s.lookupHandle rd h).1).freeCount = s.freeCount := by
  unfold State.lookupHandle; split <;> simp
@[simp] theorem State.lookupHandle_pending (rd : Reader) (h : Handle) :
    ((s.lookupHandle rd h).1).pending = s.pending := by
  unfold State.lookupHandle; split <;> simp

/-! ### failIndexEntry -/

@[simp] theorem State.failIndexEntry_grantState (rd : Reader) (n : Nat) (e : IndexEntry) :
    ((s.failIndexEntry rd n e).1).grantState = s.grantState := by
  simp only [State.failIndexEntry]; (repeat' split) <;> simp
@[simp] theorem State.failIndexEntry_pool (rd : Reader) (n : Nat) (e : IndexEntry) :
    ((s.failIndexEntry rd n e).1).pool = s.pool := by
  simp only [State.failIndexEntry]; (repeat' split) <;> simp
@[simp] theorem State.failIndexEntry_hallTime (rd : Reader) (n : Nat) (e : IndexEntry) :
    ((s.failIndexEntry rd n e).1).hallTime = s.hallTime := by
  simp only [State.failIndexEntry]; (repeat' split) <;> simp
@[simp] theorem State.failIndexEntry_timers (rd : Reader) (n : Nat) (e : IndexEntry) :
    ((s.failIndexEntry rd n e).1).timers = s.timers := by
  simp only [State.failIndexEntry]; (repeat' split) <;> simp
@[simp] theorem State.failIndexEntry_resetAsserted (rd : Reader) (n : Nat) (e : IndexEntry) :
    ((s.failIndexEntry rd n e).1).resetAsserted = s.resetAsserted := by
  simp only [State.failIndexEntry]; (repeat' split) <;> simp
@[simp] theorem State.failIndexEntry_freeCount (rd : Reader) (n : Nat) (e : IndexEntry) :
    ((s.failIndexEntry rd n e).1).freeCount = s.freeCount := by
  simp only [State.failIndexEntry]; (repeat' split) <;> simp
@[simp] theorem State.failIndexEntry_pending (rd : Reader) (n : Nat) (e : IndexEntry) :
    ((s.failIndexEntry rd n e).1).pending = s.pending := by
  simp only [State.failIndexEntry]; (repeat' split) <;> simp

/-! ### lookupSerial -/

@[simp] theorem State.lookupSerial_grantState (rd : Reader) (n : Nat) :
    ((s.lookupSerial rd n).1).grantState = s.grantState := by
  simp only [State.lookupSerial]; (repeat' split) <;> simp
@[simp] theorem State.lookupSerial_pool (rd : Reader) (n : Nat) :
    ((s.lookupSerial rd n).1).pool = s.pool := by
  simp only [State.lookupSerial]; (repeat' split) <;> simp
@[simp] theorem State.lookupSerial_hallTime (rd : Reader) (n : Nat) :
    ((s.lookupSerial rd n).1).hallTime = s.hallTime := by
  simp only [State.lookupSerial]; (repeat' split) <;> simp
@[simp] theorem State.lookupSerial_timers (rd : Reader) (n : Nat) :
    ((s.lookupSerial rd n).1).timers = s.timers := by
  simp only [State.lookupSerial]; (repeat' split) <;> simp
@[simp] theorem State.lookupSerial_resetAsserted (rd : Reader) (n : Nat) :
    ((s.lookupSerial rd n).1).resetAsserted = s.resetAsserted := by
  simp only [State.lookupSerial]; (repeat' split) <;> simp
@[simp] theorem State.lookupSerial_freeCount (rd : Reader) (n : Nat) :
    ((s.lookupSerial rd n).1).freeCount = s.freeCount := by
  simp only [State.lookupSerial]; (repeat' split) <;> simp
@[simp] theorem State.lookupSerial_pending (rd : Reader) (n : Nat) :
    ((s.lookupSerial rd n).1).pending = s.pending := by
  simp only [State.lookupSerial]; (repeat' split) <;> simp

/-! ### lookupItems -/

@[simp] theorem State.lookupItems_grantState (rd : Reader) (is : List Item) :
    ((s.lookupItems rd is).1).grantState = s.grantState := by
  simp only [State.lookupItems]; (repeat' split) <;> simp
@[simp] theorem State.lookupItems_pool (rd : Reader) (is : List Item) :
    ((s.lookupItems rd is).1).pool = s.pool := by
  simp only [State.lookupItems]; (repeat' split) <;> simp
@[simp] theorem State.lookupItems_hallTime (rd : Reader) (is : List Item) :
    ((s.lookupItems rd is).1).hallTime = s.hallTime := by
  simp only [State.lookupItems]; (repeat' split) <;> simp
@[simp] theorem State.lookupItems_timers (rd : Reader) (is : List Item) :
    ((s.lookupItems rd is).1).timers = s.timers := by
  simp only [State.lookupItems]; (repeat' split) <;> simp
@[simp] theorem State.lookupItems_resetAsserted (rd : Reader) (is : List Item) :
    ((s.lookupItems rd is).1).resetAsserted = s.resetAsserted := by
  simp only [State.lookupItems]; (repeat' split) <;> simp
@[simp] theorem State.lookupItems_freeCount (rd : Reader) (is : List Item) :
    ((s.lookupItems rd is).1).freeCount = s.freeCount := by
  simp only [State.lookupItems]; (repeat' split) <;> simp
@[simp] theorem State.lookupItems_pending (rd : Reader) (is : List Item) :
    ((s.lookupItems rd is).1).pending = s.pending := by
  simp only [State.lookupItems]; (repeat' split) <;> simp

/-! ### readEach -/

@[simp] theorem State.readEach_grantState (rd : Reader) (ns : List Nat) :
    (readEach rd ns s).grantState = s.grantState := by
  induction ns generalizing s with
  | nil => rfl
  | cons n rest ih => unfold readEach; split <;> simp [ih]
@[simp] theorem State.readEach_pool (rd : Reader) (ns : List Nat) :
    (readEach rd ns s).pool = s.pool := by
  induction ns generalizing s with
  | nil => rfl
  | cons n rest ih => unfold readEach; split <;> simp [ih]
@[simp] theorem State.readEach_hallTime (rd : Reader) (ns : List Nat) :
    (readEach rd ns s).hallTime = s.hallTime := by
  induction ns generalizing s with
  | nil => rfl
  | cons n rest ih => unfold readEach; split <;> simp [ih]
@[simp] theorem State.readEach_timers (rd : Reader) (ns : List Nat) :
    (readEach rd ns s).timers = s.timers := by
  induction ns generalizing s with
  | nil => rfl
  | cons n rest ih => unfold readEach; split <;> simp [ih]
@[simp] theorem State.readEach_resetAsserted (rd : Reader) (ns : List Nat) :
    (readEach rd ns s).resetAsserted = s.resetAsserted := by
  induction ns generalizing s with
  | nil => rfl
  | cons n rest ih => unfold readEach; split <;> simp [ih]
@[simp] theorem State.readEach_freeCount (rd : Reader) (ns : List Nat) :
    (readEach rd ns s).freeCount = s.freeCount := by
  induction ns generalizing s with
  | nil => rfl
  | cons n rest ih => unfold readEach; split <;> simp [ih]
@[simp] theorem State.readEach_pending (rd : Reader) (ns : List Nat) :
    (readEach rd ns s).pending = s.pending := by
  induction ns generalizing s with
  | nil => rfl
  | cons n rest ih => unfold readEach; split <;> simp [ih]

/-! ### readAll -/

@[simp] theorem State.readAll_grantState (rd : Reader) :
    (s.readAll rd).grantState = s.grantState := by
  simp [State.readAll]
@[simp] theorem State.readAll_pool (rd : Reader) :
    (s.readAll rd).pool = s.pool := by
  simp [State.readAll]
@[simp] theorem State.readAll_hallTime (rd : Reader) :
    (s.readAll rd).hallTime = s.hallTime := by
  simp [State.readAll]
@[simp] theorem State.readAll_timers (rd : Reader) :
    (s.readAll rd).timers = s.timers := by
  simp [State.readAll]
@[simp] theorem State.readAll_resetAsserted (rd : Reader) :
    (s.readAll rd).resetAsserted = s.resetAsserted := by
  simp [State.readAll]
@[simp] theorem State.readAll_freeCount (rd : Reader) :
    (s.readAll rd).freeCount = s.freeCount := by
  simp [State.readAll]
@[simp] theorem State.readAll_pending (rd : Reader) :
    (s.readAll rd).pending = s.pending := by
  simp [State.readAll]

/-! ### endUnread -/

@[simp] theorem State.endUnread_queue (h : Handle) (x : ReportSubject) :
    (s.endUnread h x).queue = s.queue := by
  unfold State.endUnread; split <;> simp
@[simp] theorem State.endUnread_grantState (h : Handle) (x : ReportSubject) :
    (s.endUnread h x).grantState = s.grantState := by
  unfold State.endUnread; split <;> simp
@[simp] theorem State.endUnread_pool (h : Handle) (x : ReportSubject) :
    (s.endUnread h x).pool = s.pool := by
  unfold State.endUnread; split <;> simp
@[simp] theorem State.endUnread_integrity (h : Handle) (x : ReportSubject) :
    (s.endUnread h x).integrity = s.integrity := by
  unfold State.endUnread; split <;> simp
@[simp] theorem State.endUnread_hallTime (h : Handle) (x : ReportSubject) :
    (s.endUnread h x).hallTime = s.hallTime := by
  unfold State.endUnread; split <;> simp
@[simp] theorem State.endUnread_timers (h : Handle) (x : ReportSubject) :
    (s.endUnread h x).timers = s.timers := by
  unfold State.endUnread; split <;> simp
@[simp] theorem State.endUnread_resetAsserted (h : Handle) (x : ReportSubject) :
    (s.endUnread h x).resetAsserted = s.resetAsserted := by
  unfold State.endUnread; split <;> simp
@[simp] theorem State.endUnread_freeCount (h : Handle) (x : ReportSubject) :
    (s.endUnread h x).freeCount = s.freeCount := by
  unfold State.endUnread; split <;> simp
@[simp] theorem State.endUnread_pending (h : Handle) (x : ReportSubject) :
    (s.endUnread h x).pending = s.pending := by
  unfold State.endUnread; split <;> simp

/-! ### readAhead -/

@[simp] theorem State.readAhead_links (l : BankLetter) (e : BankEntry) (own : Option UnitNo) (u : UnitNo) :
    (readAhead l e own s u).links = s.links := by
  unfold readAhead; (repeat' split) <;> simp
@[simp] theorem State.readAhead_positions (l : BankLetter) (e : BankEntry) (own : Option UnitNo) (u : UnitNo) :
    (readAhead l e own s u).positions = s.positions := by
  unfold readAhead; (repeat' split) <;> simp
@[simp] theorem State.readAhead_table (l : BankLetter) (e : BankEntry) (own : Option UnitNo) (u : UnitNo) :
    (readAhead l e own s u).table = s.table := by
  unfold readAhead; (repeat' split) <;> simp
@[simp] theorem State.readAhead_bankA (l : BankLetter) (e : BankEntry) (own : Option UnitNo) (u : UnitNo) :
    (readAhead l e own s u).bankA = s.bankA := by
  unfold readAhead; (repeat' split) <;> simp
@[simp] theorem State.readAhead_bankB (l : BankLetter) (e : BankEntry) (own : Option UnitNo) (u : UnitNo) :
    (readAhead l e own s u).bankB = s.bankB := by
  unfold readAhead; (repeat' split) <;> simp
@[simp] theorem State.readAhead_queue (l : BankLetter) (e : BankEntry) (own : Option UnitNo) (u : UnitNo) :
    (readAhead l e own s u).queue = s.queue := by
  unfold readAhead; (repeat' split) <;> simp
@[simp] theorem State.readAhead_grantState (l : BankLetter) (e : BankEntry) (own : Option UnitNo) (u : UnitNo) :
    (readAhead l e own s u).grantState = s.grantState := by
  unfold readAhead; (repeat' split) <;> simp
@[simp] theorem State.readAhead_pool (l : BankLetter) (e : BankEntry) (own : Option UnitNo) (u : UnitNo) :
    (readAhead l e own s u).pool = s.pool := by
  unfold readAhead; (repeat' split) <;> simp
@[simp] theorem State.readAhead_pendingReweigh (l : BankLetter) (e : BankEntry) (own : Option UnitNo) (u : UnitNo) :
    (readAhead l e own s u).pendingReweigh = s.pendingReweigh := by
  unfold readAhead; (repeat' split) <;> simp
@[simp] theorem State.readAhead_integrity (l : BankLetter) (e : BankEntry) (own : Option UnitNo) (u : UnitNo) :
    (readAhead l e own s u).integrity = s.integrity := by
  unfold readAhead; (repeat' split) <;> simp
@[simp] theorem State.readAhead_attention (l : BankLetter) (e : BankEntry) (own : Option UnitNo) (u : UnitNo) :
    (readAhead l e own s u).attention = s.attention := by
  unfold readAhead; (repeat' split) <;> simp
@[simp] theorem State.readAhead_hallTime (l : BankLetter) (e : BankEntry) (own : Option UnitNo) (u : UnitNo) :
    (readAhead l e own s u).hallTime = s.hallTime := by
  unfold readAhead; (repeat' split) <;> simp
@[simp] theorem State.readAhead_timers (l : BankLetter) (e : BankEntry) (own : Option UnitNo) (u : UnitNo) :
    (readAhead l e own s u).timers = s.timers := by
  unfold readAhead; (repeat' split) <;> simp
@[simp] theorem State.readAhead_resetAsserted (l : BankLetter) (e : BankEntry) (own : Option UnitNo) (u : UnitNo) :
    (readAhead l e own s u).resetAsserted = s.resetAsserted := by
  unfold readAhead; (repeat' split) <;> simp
@[simp] theorem State.readAhead_answers (l : BankLetter) (e : BankEntry) (own : Option UnitNo) (u : UnitNo) :
    (readAhead l e own s u).answers = s.answers := by
  unfold readAhead; (repeat' split) <;> simp
@[simp] theorem State.readAhead_pending (l : BankLetter) (e : BankEntry) (own : Option UnitNo) (u : UnitNo) :
    (readAhead l e own s u).pending = s.pending := by
  unfold readAhead; (repeat' split) <;> simp

/-! ### jobsReadOn -/

@[simp] theorem State.jobsReadOn_links (l : BankLetter) (e : BankEntry) (own : Option UnitNo) :
    (s.jobsReadOn l e own).links = s.links := by
  simp [State.jobsReadOn]
@[simp] theorem State.jobsReadOn_positions (l : BankLetter) (e : BankEntry) (own : Option UnitNo) :
    (s.jobsReadOn l e own).positions = s.positions := by
  simp [State.jobsReadOn]
@[simp] theorem State.jobsReadOn_table (l : BankLetter) (e : BankEntry) (own : Option UnitNo) :
    (s.jobsReadOn l e own).table = s.table := by
  simp [State.jobsReadOn]
@[simp] theorem State.jobsReadOn_bankA (l : BankLetter) (e : BankEntry) (own : Option UnitNo) :
    (s.jobsReadOn l e own).bankA = s.bankA := by
  simp [State.jobsReadOn]
@[simp] theorem State.jobsReadOn_bankB (l : BankLetter) (e : BankEntry) (own : Option UnitNo) :
    (s.jobsReadOn l e own).bankB = s.bankB := by
  simp [State.jobsReadOn]
@[simp] theorem State.jobsReadOn_queue (l : BankLetter) (e : BankEntry) (own : Option UnitNo) :
    (s.jobsReadOn l e own).queue = s.queue := by
  simp [State.jobsReadOn]
@[simp] theorem State.jobsReadOn_grantState (l : BankLetter) (e : BankEntry) (own : Option UnitNo) :
    (s.jobsReadOn l e own).grantState = s.grantState := by
  simp [State.jobsReadOn]
@[simp] theorem State.jobsReadOn_pool (l : BankLetter) (e : BankEntry) (own : Option UnitNo) :
    (s.jobsReadOn l e own).pool = s.pool := by
  simp [State.jobsReadOn]
@[simp] theorem State.jobsReadOn_pendingReweigh (l : BankLetter) (e : BankEntry) (own : Option UnitNo) :
    (s.jobsReadOn l e own).pendingReweigh = s.pendingReweigh := by
  simp [State.jobsReadOn]
@[simp] theorem State.jobsReadOn_integrity (l : BankLetter) (e : BankEntry) (own : Option UnitNo) :
    (s.jobsReadOn l e own).integrity = s.integrity := by
  simp [State.jobsReadOn]
@[simp] theorem State.jobsReadOn_attention (l : BankLetter) (e : BankEntry) (own : Option UnitNo) :
    (s.jobsReadOn l e own).attention = s.attention := by
  simp [State.jobsReadOn]
@[simp] theorem State.jobsReadOn_hallTime (l : BankLetter) (e : BankEntry) (own : Option UnitNo) :
    (s.jobsReadOn l e own).hallTime = s.hallTime := by
  simp [State.jobsReadOn]
@[simp] theorem State.jobsReadOn_timers (l : BankLetter) (e : BankEntry) (own : Option UnitNo) :
    (s.jobsReadOn l e own).timers = s.timers := by
  simp [State.jobsReadOn]
@[simp] theorem State.jobsReadOn_resetAsserted (l : BankLetter) (e : BankEntry) (own : Option UnitNo) :
    (s.jobsReadOn l e own).resetAsserted = s.resetAsserted := by
  simp [State.jobsReadOn]
@[simp] theorem State.jobsReadOn_answers (l : BankLetter) (e : BankEntry) (own : Option UnitNo) :
    (s.jobsReadOn l e own).answers = s.answers := by
  simp [State.jobsReadOn]
@[simp] theorem State.jobsReadOn_pending (l : BankLetter) (e : BankEntry) (own : Option UnitNo) :
    (s.jobsReadOn l e own).pending = s.pending := by
  simp [State.jobsReadOn]

/-! ### failBankEntry -/

@[simp] theorem State.failBankEntry_links (l : BankLetter) (e : BankEntry) (rd : Reader) (own : Option UnitNo) :
    (s.failBankEntry l e rd own).links = s.links := by
  simp [State.failBankEntry]
@[simp] theorem State.failBankEntry_positions (l : BankLetter) (e : BankEntry) (rd : Reader) (own : Option UnitNo) :
    (s.failBankEntry l e rd own).positions = s.positions := by
  simp [State.failBankEntry]
@[simp] theorem State.failBankEntry_table (l : BankLetter) (e : BankEntry) (rd : Reader) (own : Option UnitNo) :
    (s.failBankEntry l e rd own).table = s.table := by
  simp [State.failBankEntry]
@[simp] theorem State.failBankEntry_queue (l : BankLetter) (e : BankEntry) (rd : Reader) (own : Option UnitNo) :
    (s.failBankEntry l e rd own).queue = s.queue := by
  simp [State.failBankEntry]
@[simp] theorem State.failBankEntry_grantState (l : BankLetter) (e : BankEntry) (rd : Reader) (own : Option UnitNo) :
    (s.failBankEntry l e rd own).grantState = s.grantState := by
  simp [State.failBankEntry]
@[simp] theorem State.failBankEntry_pool (l : BankLetter) (e : BankEntry) (rd : Reader) (own : Option UnitNo) :
    (s.failBankEntry l e rd own).pool = s.pool := by
  simp [State.failBankEntry]
@[simp] theorem State.failBankEntry_pendingReweigh (l : BankLetter) (e : BankEntry) (rd : Reader) (own : Option UnitNo) :
    (s.failBankEntry l e rd own).pendingReweigh = s.pendingReweigh := by
  simp [State.failBankEntry]
@[simp] theorem State.failBankEntry_hallTime (l : BankLetter) (e : BankEntry) (rd : Reader) (own : Option UnitNo) :
    (s.failBankEntry l e rd own).hallTime = s.hallTime := by
  simp [State.failBankEntry]
@[simp] theorem State.failBankEntry_timers (l : BankLetter) (e : BankEntry) (rd : Reader) (own : Option UnitNo) :
    (s.failBankEntry l e rd own).timers = s.timers := by
  simp [State.failBankEntry]
@[simp] theorem State.failBankEntry_resetAsserted (l : BankLetter) (e : BankEntry) (rd : Reader) (own : Option UnitNo) :
    (s.failBankEntry l e rd own).resetAsserted = s.resetAsserted := by
  simp [State.failBankEntry]
@[simp] theorem State.failBankEntry_answers (l : BankLetter) (e : BankEntry) (rd : Reader) (own : Option UnitNo) :
    (s.failBankEntry l e rd own).answers = s.answers := by
  simp [State.failBankEntry]
@[simp] theorem State.failBankEntry_pending (l : BankLetter) (e : BankEntry) (rd : Reader) (own : Option UnitNo) :
    (s.failBankEntry l e rd own).pending = s.pending := by
  simp [State.failBankEntry]

/-! ### upsetEntry -/

@[simp] theorem State.upsetEntry_links (l : BankLetter) (e : BankEntry) :
    (s.upsetEntry l e).links = s.links := by
  simp [State.upsetEntry]
@[simp] theorem State.upsetEntry_positions (l : BankLetter) (e : BankEntry) :
    (s.upsetEntry l e).positions = s.positions := by
  simp [State.upsetEntry]
@[simp] theorem State.upsetEntry_table (l : BankLetter) (e : BankEntry) :
    (s.upsetEntry l e).table = s.table := by
  simp [State.upsetEntry]
@[simp] theorem State.upsetEntry_queue (l : BankLetter) (e : BankEntry) :
    (s.upsetEntry l e).queue = s.queue := by
  simp [State.upsetEntry]
@[simp] theorem State.upsetEntry_grantState (l : BankLetter) (e : BankEntry) :
    (s.upsetEntry l e).grantState = s.grantState := by
  simp [State.upsetEntry]
@[simp] theorem State.upsetEntry_pool (l : BankLetter) (e : BankEntry) :
    (s.upsetEntry l e).pool = s.pool := by
  simp [State.upsetEntry]
@[simp] theorem State.upsetEntry_pendingReweigh (l : BankLetter) (e : BankEntry) :
    (s.upsetEntry l e).pendingReweigh = s.pendingReweigh := by
  simp [State.upsetEntry]
@[simp] theorem State.upsetEntry_integrity (l : BankLetter) (e : BankEntry) :
    (s.upsetEntry l e).integrity = s.integrity := by
  simp [State.upsetEntry]
@[simp] theorem State.upsetEntry_attention (l : BankLetter) (e : BankEntry) :
    (s.upsetEntry l e).attention = s.attention := by
  simp [State.upsetEntry]
@[simp] theorem State.upsetEntry_hallTime (l : BankLetter) (e : BankEntry) :
    (s.upsetEntry l e).hallTime = s.hallTime := by
  simp [State.upsetEntry]
@[simp] theorem State.upsetEntry_timers (l : BankLetter) (e : BankEntry) :
    (s.upsetEntry l e).timers = s.timers := by
  simp [State.upsetEntry]
@[simp] theorem State.upsetEntry_resetAsserted (l : BankLetter) (e : BankEntry) :
    (s.upsetEntry l e).resetAsserted = s.resetAsserted := by
  simp [State.upsetEntry]
@[simp] theorem State.upsetEntry_answers (l : BankLetter) (e : BankEntry) :
    (s.upsetEntry l e).answers = s.answers := by
  simp [State.upsetEntry]
@[simp] theorem State.upsetEntry_pending (l : BankLetter) (e : BankEntry) :
    (s.upsetEntry l e).pending = s.pending := by
  simp [State.upsetEntry]

/-! ### retire -/

@[simp] theorem State.retire_units (n : Nat) (r : Rec) :
    (s.retire n r).units = s.units := by
  simp only [State.retire]; (repeat' split) <;> simp
@[simp] theorem State.retire_grantState (n : Nat) (r : Rec) :
    (s.retire n r).grantState = s.grantState := by
  simp only [State.retire]; (repeat' split) <;> simp
@[simp] theorem State.retire_pool (n : Nat) (r : Rec) :
    (s.retire n r).pool = s.pool := by
  simp only [State.retire]; (repeat' split) <;> simp
@[simp] theorem State.retire_integrity (n : Nat) (r : Rec) :
    (s.retire n r).integrity = s.integrity := by
  simp only [State.retire]; (repeat' split) <;> simp
@[simp] theorem State.retire_hallTime (n : Nat) (r : Rec) :
    (s.retire n r).hallTime = s.hallTime := by
  simp only [State.retire]; (repeat' split) <;> simp
@[simp] theorem State.retire_timers (n : Nat) (r : Rec) :
    (s.retire n r).timers = s.timers := by
  simp only [State.retire]; (repeat' split) <;> simp
@[simp] theorem State.retire_resetAsserted (n : Nat) (r : Rec) :
    (s.retire n r).resetAsserted = s.resetAsserted := by
  simp only [State.retire]; (repeat' split) <;> simp
@[simp] theorem State.retire_freeCount (n : Nat) (r : Rec) :
    (s.retire n r).freeCount = s.freeCount := by
  simp only [State.retire]; (repeat' split) <;> simp
@[simp] theorem State.retire_pending (n : Nat) (r : Rec) :
    (s.retire n r).pending = s.pending := by
  simp only [State.retire]; (repeat' split) <;> simp

/-! ### toDraft -/

@[simp] theorem State.toDraft_links (n : Nat) (r : Rec) (e : Entered) :
    (s.toDraft n r e).links = s.links := by
  simp [State.toDraft]
@[simp] theorem State.toDraft_positions (n : Nat) (r : Rec) (e : Entered) :
    (s.toDraft n r e).positions = s.positions := by
  simp [State.toDraft]
@[simp] theorem State.toDraft_units (n : Nat) (r : Rec) (e : Entered) :
    (s.toDraft n r e).units = s.units := by
  simp [State.toDraft]
@[simp] theorem State.toDraft_queue (n : Nat) (r : Rec) (e : Entered) :
    (s.toDraft n r e).queue = s.queue := by
  simp [State.toDraft]
@[simp] theorem State.toDraft_grantState (n : Nat) (r : Rec) (e : Entered) :
    (s.toDraft n r e).grantState = s.grantState := by
  simp [State.toDraft]
@[simp] theorem State.toDraft_pool (n : Nat) (r : Rec) (e : Entered) :
    (s.toDraft n r e).pool = s.pool := by
  simp [State.toDraft]
@[simp] theorem State.toDraft_pendingReweigh (n : Nat) (r : Rec) (e : Entered) :
    (s.toDraft n r e).pendingReweigh = s.pendingReweigh := by
  simp [State.toDraft]
@[simp] theorem State.toDraft_integrity (n : Nat) (r : Rec) (e : Entered) :
    (s.toDraft n r e).integrity = s.integrity := by
  simp [State.toDraft]
@[simp] theorem State.toDraft_hallTime (n : Nat) (r : Rec) (e : Entered) :
    (s.toDraft n r e).hallTime = s.hallTime := by
  simp [State.toDraft]
@[simp] theorem State.toDraft_timers (n : Nat) (r : Rec) (e : Entered) :
    (s.toDraft n r e).timers = s.timers := by
  simp [State.toDraft]
@[simp] theorem State.toDraft_resetAsserted (n : Nat) (r : Rec) (e : Entered) :
    (s.toDraft n r e).resetAsserted = s.resetAsserted := by
  simp [State.toDraft]
@[simp] theorem State.toDraft_answers (n : Nat) (r : Rec) (e : Entered) :
    (s.toDraft n r e).answers = s.answers := by
  simp [State.toDraft]
@[simp] theorem State.toDraft_freeCount (n : Nat) (r : Rec) (e : Entered) :
    (s.toDraft n r e).freeCount = s.freeCount := by
  simp [State.toDraft]
@[simp] theorem State.toDraft_pending (n : Nat) (r : Rec) (e : Entered) :
    (s.toDraft n r e).pending = s.pending := by
  simp [State.toDraft]

/-! ### unprint -/

@[simp] theorem State.unprint_links (n : Nat) (r : Rec) (e : Entered) (q : Quote) (l : Label) :
    (s.unprint n r e q l).links = s.links := by
  simp only [State.unprint]; split <;> simp
@[simp] theorem State.unprint_positions (n : Nat) (r : Rec) (e : Entered) (q : Quote) (l : Label) :
    (s.unprint n r e q l).positions = s.positions := by
  simp only [State.unprint]; split <;> simp
@[simp] theorem State.unprint_units (n : Nat) (r : Rec) (e : Entered) (q : Quote) (l : Label) :
    (s.unprint n r e q l).units = s.units := by
  simp only [State.unprint]; split <;> simp
@[simp] theorem State.unprint_queue (n : Nat) (r : Rec) (e : Entered) (q : Quote) (l : Label) :
    (s.unprint n r e q l).queue = s.queue := by
  simp only [State.unprint]; split <;> simp
@[simp] theorem State.unprint_grantState (n : Nat) (r : Rec) (e : Entered) (q : Quote) (l : Label) :
    (s.unprint n r e q l).grantState = s.grantState := by
  simp only [State.unprint]; split <;> simp
@[simp] theorem State.unprint_pool (n : Nat) (r : Rec) (e : Entered) (q : Quote) (l : Label) :
    (s.unprint n r e q l).pool = s.pool := by
  simp only [State.unprint]; split <;> simp
@[simp] theorem State.unprint_pendingReweigh (n : Nat) (r : Rec) (e : Entered) (q : Quote) (l : Label) :
    (s.unprint n r e q l).pendingReweigh = s.pendingReweigh := by
  simp only [State.unprint]; split <;> simp
@[simp] theorem State.unprint_integrity (n : Nat) (r : Rec) (e : Entered) (q : Quote) (l : Label) :
    (s.unprint n r e q l).integrity = s.integrity := by
  simp only [State.unprint]; split <;> simp
@[simp] theorem State.unprint_hallTime (n : Nat) (r : Rec) (e : Entered) (q : Quote) (l : Label) :
    (s.unprint n r e q l).hallTime = s.hallTime := by
  simp only [State.unprint]; split <;> simp
@[simp] theorem State.unprint_timers (n : Nat) (r : Rec) (e : Entered) (q : Quote) (l : Label) :
    (s.unprint n r e q l).timers = s.timers := by
  simp only [State.unprint]; split <;> simp
@[simp] theorem State.unprint_resetAsserted (n : Nat) (r : Rec) (e : Entered) (q : Quote) (l : Label) :
    (s.unprint n r e q l).resetAsserted = s.resetAsserted := by
  simp only [State.unprint]; split <;> simp
@[simp] theorem State.unprint_answers (n : Nat) (r : Rec) (e : Entered) (q : Quote) (l : Label) :
    (s.unprint n r e q l).answers = s.answers := by
  simp only [State.unprint]; split <;> simp
@[simp] theorem State.unprint_freeCount (n : Nat) (r : Rec) (e : Entered) (q : Quote) (l : Label) :
    (s.unprint n r e q l).freeCount = s.freeCount := by
  simp only [State.unprint]; split <;> simp
@[simp] theorem State.unprint_pending (n : Nat) (r : Rec) (e : Entered) (q : Quote) (l : Label) :
    (s.unprint n r e q l).pending = s.pending := by
  simp only [State.unprint]; split <;> simp

/-! ### join -/

@[simp] theorem State.join_links (e : QueueEntry) :
    (s.join e).links = s.links := by
  simp [State.join]
@[simp] theorem State.join_positions (e : QueueEntry) :
    (s.join e).positions = s.positions := by
  simp [State.join]
@[simp] theorem State.join_bankA (e : QueueEntry) :
    (s.join e).bankA = s.bankA := by
  simp [State.join]
@[simp] theorem State.join_bankB (e : QueueEntry) :
    (s.join e).bankB = s.bankB := by
  simp [State.join]
@[simp] theorem State.join_units (e : QueueEntry) :
    (s.join e).units = s.units := by
  simp [State.join]
@[simp] theorem State.join_grantState (e : QueueEntry) :
    (s.join e).grantState = s.grantState := by
  simp [State.join]
@[simp] theorem State.join_pool (e : QueueEntry) :
    (s.join e).pool = s.pool := by
  simp [State.join]
@[simp] theorem State.join_pendingReweigh (e : QueueEntry) :
    (s.join e).pendingReweigh = s.pendingReweigh := by
  simp [State.join]
@[simp] theorem State.join_integrity (e : QueueEntry) :
    (s.join e).integrity = s.integrity := by
  simp [State.join]
@[simp] theorem State.join_attention (e : QueueEntry) :
    (s.join e).attention = s.attention := by
  simp [State.join]
@[simp] theorem State.join_hallTime (e : QueueEntry) :
    (s.join e).hallTime = s.hallTime := by
  simp [State.join]
@[simp] theorem State.join_timers (e : QueueEntry) :
    (s.join e).timers = s.timers := by
  simp [State.join]
@[simp] theorem State.join_resetAsserted (e : QueueEntry) :
    (s.join e).resetAsserted = s.resetAsserted := by
  simp [State.join]
@[simp] theorem State.join_answers (e : QueueEntry) :
    (s.join e).answers = s.answers := by
  simp [State.join]
@[simp] theorem State.join_freeCount (e : QueueEntry) :
    (s.join e).freeCount = s.freeCount := by
  simp [State.join]
@[simp] theorem State.join_pending (e : QueueEntry) :
    (s.join e).pending = s.pending := by
  simp [State.join]

/-! ### removeEntryOf -/

@[simp] theorem State.removeEntryOf_links (r : Requester) :
    (s.removeEntryOf r).links = s.links := by
  unfold State.removeEntryOf; split <;> simp
@[simp] theorem State.removeEntryOf_positions (r : Requester) :
    (s.removeEntryOf r).positions = s.positions := by
  unfold State.removeEntryOf; split <;> simp
@[simp] theorem State.removeEntryOf_bankA (r : Requester) :
    (s.removeEntryOf r).bankA = s.bankA := by
  unfold State.removeEntryOf; split <;> simp
@[simp] theorem State.removeEntryOf_bankB (r : Requester) :
    (s.removeEntryOf r).bankB = s.bankB := by
  unfold State.removeEntryOf; split <;> simp
@[simp] theorem State.removeEntryOf_units (r : Requester) :
    (s.removeEntryOf r).units = s.units := by
  unfold State.removeEntryOf; split <;> simp
@[simp] theorem State.removeEntryOf_grantState (r : Requester) :
    (s.removeEntryOf r).grantState = s.grantState := by
  unfold State.removeEntryOf; split <;> simp
@[simp] theorem State.removeEntryOf_pool (r : Requester) :
    (s.removeEntryOf r).pool = s.pool := by
  unfold State.removeEntryOf; split <;> simp
@[simp] theorem State.removeEntryOf_pendingReweigh (r : Requester) :
    (s.removeEntryOf r).pendingReweigh = s.pendingReweigh := by
  unfold State.removeEntryOf; split <;> simp
@[simp] theorem State.removeEntryOf_integrity (r : Requester) :
    (s.removeEntryOf r).integrity = s.integrity := by
  unfold State.removeEntryOf; split <;> simp
@[simp] theorem State.removeEntryOf_attention (r : Requester) :
    (s.removeEntryOf r).attention = s.attention := by
  unfold State.removeEntryOf; split <;> simp
@[simp] theorem State.removeEntryOf_hallTime (r : Requester) :
    (s.removeEntryOf r).hallTime = s.hallTime := by
  unfold State.removeEntryOf; split <;> simp
@[simp] theorem State.removeEntryOf_timers (r : Requester) :
    (s.removeEntryOf r).timers = s.timers := by
  unfold State.removeEntryOf; split <;> simp
@[simp] theorem State.removeEntryOf_resetAsserted (r : Requester) :
    (s.removeEntryOf r).resetAsserted = s.resetAsserted := by
  unfold State.removeEntryOf; split <;> simp
@[simp] theorem State.removeEntryOf_answers (r : Requester) :
    (s.removeEntryOf r).answers = s.answers := by
  unfold State.removeEntryOf; split <;> simp
@[simp] theorem State.removeEntryOf_freeCount (r : Requester) :
    (s.removeEntryOf r).freeCount = s.freeCount := by
  unfold State.removeEntryOf; split <;> simp
@[simp] theorem State.removeEntryOf_pending (r : Requester) :
    (s.removeEntryOf r).pending = s.pending := by
  unfold State.removeEntryOf; split <;> simp

/-! ### discardJobOf -/

@[simp] theorem State.discardJobOf_links (r : Requester) :
    (s.discardJobOf r).links = s.links := by
  unfold State.discardJobOf; split <;> simp
@[simp] theorem State.discardJobOf_positions (r : Requester) :
    (s.discardJobOf r).positions = s.positions := by
  unfold State.discardJobOf; split <;> simp
@[simp] theorem State.discardJobOf_table (r : Requester) :
    (s.discardJobOf r).table = s.table := by
  unfold State.discardJobOf; split <;> simp
@[simp] theorem State.discardJobOf_bankA (r : Requester) :
    (s.discardJobOf r).bankA = s.bankA := by
  unfold State.discardJobOf; split <;> simp
@[simp] theorem State.discardJobOf_bankB (r : Requester) :
    (s.discardJobOf r).bankB = s.bankB := by
  unfold State.discardJobOf; split <;> simp
@[simp] theorem State.discardJobOf_queue (r : Requester) :
    (s.discardJobOf r).queue = s.queue := by
  unfold State.discardJobOf; split <;> simp
@[simp] theorem State.discardJobOf_grantState (r : Requester) :
    (s.discardJobOf r).grantState = s.grantState := by
  unfold State.discardJobOf; split <;> simp
@[simp] theorem State.discardJobOf_pool (r : Requester) :
    (s.discardJobOf r).pool = s.pool := by
  unfold State.discardJobOf; split <;> simp
@[simp] theorem State.discardJobOf_pendingReweigh (r : Requester) :
    (s.discardJobOf r).pendingReweigh = s.pendingReweigh := by
  unfold State.discardJobOf; split <;> simp
@[simp] theorem State.discardJobOf_integrity (r : Requester) :
    (s.discardJobOf r).integrity = s.integrity := by
  unfold State.discardJobOf; split <;> simp
@[simp] theorem State.discardJobOf_attention (r : Requester) :
    (s.discardJobOf r).attention = s.attention := by
  unfold State.discardJobOf; split <;> simp
@[simp] theorem State.discardJobOf_hallTime (r : Requester) :
    (s.discardJobOf r).hallTime = s.hallTime := by
  unfold State.discardJobOf; split <;> simp
@[simp] theorem State.discardJobOf_timers (r : Requester) :
    (s.discardJobOf r).timers = s.timers := by
  unfold State.discardJobOf; split <;> simp
@[simp] theorem State.discardJobOf_resetAsserted (r : Requester) :
    (s.discardJobOf r).resetAsserted = s.resetAsserted := by
  unfold State.discardJobOf; split <;> simp
@[simp] theorem State.discardJobOf_answers (r : Requester) :
    (s.discardJobOf r).answers = s.answers := by
  unfold State.discardJobOf; split <;> simp
@[simp] theorem State.discardJobOf_freeCount (r : Requester) :
    (s.discardJobOf r).freeCount = s.freeCount := by
  unfold State.discardJobOf; split <;> simp
@[simp] theorem State.discardJobOf_pending (r : Requester) :
    (s.discardJobOf r).pending = s.pending := by
  unfold State.discardJobOf; split <;> simp

/-! ### endEscalation -/

@[simp] theorem State.endEscalation_table (p : PositionNo) (x : Session) (a : Answer) :
    (s.endEscalation p x a).table = s.table := by
  simp [State.endEscalation]
@[simp] theorem State.endEscalation_bankA (p : PositionNo) (x : Session) (a : Answer) :
    (s.endEscalation p x a).bankA = s.bankA := by
  simp [State.endEscalation]
@[simp] theorem State.endEscalation_bankB (p : PositionNo) (x : Session) (a : Answer) :
    (s.endEscalation p x a).bankB = s.bankB := by
  simp [State.endEscalation]
@[simp] theorem State.endEscalation_units (p : PositionNo) (x : Session) (a : Answer) :
    (s.endEscalation p x a).units = s.units := by
  simp [State.endEscalation]
@[simp] theorem State.endEscalation_queue (p : PositionNo) (x : Session) (a : Answer) :
    (s.endEscalation p x a).queue = s.queue := by
  simp [State.endEscalation]
@[simp] theorem State.endEscalation_grantState (p : PositionNo) (x : Session) (a : Answer) :
    (s.endEscalation p x a).grantState = s.grantState := by
  simp [State.endEscalation]
@[simp] theorem State.endEscalation_pool (p : PositionNo) (x : Session) (a : Answer) :
    (s.endEscalation p x a).pool = s.pool := by
  simp [State.endEscalation]
@[simp] theorem State.endEscalation_pendingReweigh (p : PositionNo) (x : Session) (a : Answer) :
    (s.endEscalation p x a).pendingReweigh = s.pendingReweigh := by
  simp [State.endEscalation]
@[simp] theorem State.endEscalation_integrity (p : PositionNo) (x : Session) (a : Answer) :
    (s.endEscalation p x a).integrity = s.integrity := by
  simp [State.endEscalation]
@[simp] theorem State.endEscalation_attention (p : PositionNo) (x : Session) (a : Answer) :
    (s.endEscalation p x a).attention = s.attention := by
  simp [State.endEscalation]
@[simp] theorem State.endEscalation_hallTime (p : PositionNo) (x : Session) (a : Answer) :
    (s.endEscalation p x a).hallTime = s.hallTime := by
  simp [State.endEscalation]
@[simp] theorem State.endEscalation_timers (p : PositionNo) (x : Session) (a : Answer) :
    (s.endEscalation p x a).timers = s.timers := by
  simp [State.endEscalation]
@[simp] theorem State.endEscalation_resetAsserted (p : PositionNo) (x : Session) (a : Answer) :
    (s.endEscalation p x a).resetAsserted = s.resetAsserted := by
  simp [State.endEscalation]
@[simp] theorem State.endEscalation_freeCount (p : PositionNo) (x : Session) (a : Answer) :
    (s.endEscalation p x a).freeCount = s.freeCount := by
  simp [State.endEscalation]
@[simp] theorem State.endEscalation_pending (p : PositionNo) (x : Session) (a : Answer) :
    (s.endEscalation p x a).pending = s.pending := by
  simp [State.endEscalation]

/-! ### escalate -/

@[simp] theorem State.escalate_table (p : PositionNo) (x : Session) (m : Bool) (q : HeldRequest) (n : Nat) (f : FaultReport) :
    (s.escalate p x m q n f).table = s.table := by
  simp only [State.escalate]; (repeat' split) <;> simp
@[simp] theorem State.escalate_bankA (p : PositionNo) (x : Session) (m : Bool) (q : HeldRequest) (n : Nat) (f : FaultReport) :
    (s.escalate p x m q n f).bankA = s.bankA := by
  simp only [State.escalate]; (repeat' split) <;> simp
@[simp] theorem State.escalate_bankB (p : PositionNo) (x : Session) (m : Bool) (q : HeldRequest) (n : Nat) (f : FaultReport) :
    (s.escalate p x m q n f).bankB = s.bankB := by
  simp only [State.escalate]; (repeat' split) <;> simp
@[simp] theorem State.escalate_units (p : PositionNo) (x : Session) (m : Bool) (q : HeldRequest) (n : Nat) (f : FaultReport) :
    (s.escalate p x m q n f).units = s.units := by
  simp only [State.escalate]; (repeat' split) <;> simp
@[simp] theorem State.escalate_queue (p : PositionNo) (x : Session) (m : Bool) (q : HeldRequest) (n : Nat) (f : FaultReport) :
    (s.escalate p x m q n f).queue = s.queue := by
  simp only [State.escalate]; (repeat' split) <;> simp
@[simp] theorem State.escalate_grantState (p : PositionNo) (x : Session) (m : Bool) (q : HeldRequest) (n : Nat) (f : FaultReport) :
    (s.escalate p x m q n f).grantState = s.grantState := by
  simp only [State.escalate]; (repeat' split) <;> simp
@[simp] theorem State.escalate_pool (p : PositionNo) (x : Session) (m : Bool) (q : HeldRequest) (n : Nat) (f : FaultReport) :
    (s.escalate p x m q n f).pool = s.pool := by
  simp only [State.escalate]; (repeat' split) <;> simp
@[simp] theorem State.escalate_pendingReweigh (p : PositionNo) (x : Session) (m : Bool) (q : HeldRequest) (n : Nat) (f : FaultReport) :
    (s.escalate p x m q n f).pendingReweigh = s.pendingReweigh := by
  simp only [State.escalate]; (repeat' split) <;> simp
@[simp] theorem State.escalate_integrity (p : PositionNo) (x : Session) (m : Bool) (q : HeldRequest) (n : Nat) (f : FaultReport) :
    (s.escalate p x m q n f).integrity = s.integrity := by
  simp only [State.escalate]; (repeat' split) <;> simp
@[simp] theorem State.escalate_attention (p : PositionNo) (x : Session) (m : Bool) (q : HeldRequest) (n : Nat) (f : FaultReport) :
    (s.escalate p x m q n f).attention = s.attention := by
  simp only [State.escalate]; (repeat' split) <;> simp
@[simp] theorem State.escalate_hallTime (p : PositionNo) (x : Session) (m : Bool) (q : HeldRequest) (n : Nat) (f : FaultReport) :
    (s.escalate p x m q n f).hallTime = s.hallTime := by
  simp only [State.escalate]; (repeat' split) <;> simp
@[simp] theorem State.escalate_timers (p : PositionNo) (x : Session) (m : Bool) (q : HeldRequest) (n : Nat) (f : FaultReport) :
    (s.escalate p x m q n f).timers = s.timers := by
  simp only [State.escalate]; (repeat' split) <;> simp
@[simp] theorem State.escalate_resetAsserted (p : PositionNo) (x : Session) (m : Bool) (q : HeldRequest) (n : Nat) (f : FaultReport) :
    (s.escalate p x m q n f).resetAsserted = s.resetAsserted := by
  simp only [State.escalate]; (repeat' split) <;> simp
@[simp] theorem State.escalate_freeCount (p : PositionNo) (x : Session) (m : Bool) (q : HeldRequest) (n : Nat) (f : FaultReport) :
    (s.escalate p x m q n f).freeCount = s.freeCount := by
  simp only [State.escalate]; (repeat' split) <;> simp
@[simp] theorem State.escalate_pending (p : PositionNo) (x : Session) (m : Bool) (q : HeldRequest) (n : Nat) (f : FaultReport) :
    (s.escalate p x m q n f).pending = s.pending := by
  simp only [State.escalate]; (repeat' split) <;> simp

/-! ### lapseEach -/

@[simp] theorem State.lapseEach_grantState (ns : List Nat) :
    ((lapseEach ns s).1).grantState = s.grantState := by
  induction ns generalizing s with
  | nil => rfl
  | cons n rest ih =>
    unfold lapseEach
    split
    · exact ih s
    · rename_i r _
      have h := State.readAt_grantState s .graceExpiry n r
      split
      · rename_i e; rw [e] at h
        split <;> simp_all
      · rename_i e; rw [e] at h; simp_all
@[simp] theorem State.lapseEach_pool (ns : List Nat) :
    ((lapseEach ns s).1).pool = s.pool := by
  induction ns generalizing s with
  | nil => rfl
  | cons n rest ih =>
    unfold lapseEach
    split
    · exact ih s
    · rename_i r _
      have h := State.readAt_pool s .graceExpiry n r
      split
      · rename_i e; rw [e] at h
        split <;> simp_all
      · rename_i e; rw [e] at h; simp_all
@[simp] theorem State.lapseEach_hallTime (ns : List Nat) :
    ((lapseEach ns s).1).hallTime = s.hallTime := by
  induction ns generalizing s with
  | nil => rfl
  | cons n rest ih =>
    unfold lapseEach
    split
    · exact ih s
    · rename_i r _
      have h := State.readAt_hallTime s .graceExpiry n r
      split
      · rename_i e; rw [e] at h
        split <;> simp_all
      · rename_i e; rw [e] at h; simp_all
@[simp] theorem State.lapseEach_timers (ns : List Nat) :
    ((lapseEach ns s).1).timers = s.timers := by
  induction ns generalizing s with
  | nil => rfl
  | cons n rest ih =>
    unfold lapseEach
    split
    · exact ih s
    · rename_i r _
      have h := State.readAt_timers s .graceExpiry n r
      split
      · rename_i e; rw [e] at h
        split <;> simp_all
      · rename_i e; rw [e] at h; simp_all
@[simp] theorem State.lapseEach_resetAsserted (ns : List Nat) :
    ((lapseEach ns s).1).resetAsserted = s.resetAsserted := by
  induction ns generalizing s with
  | nil => rfl
  | cons n rest ih =>
    unfold lapseEach
    split
    · exact ih s
    · rename_i r _
      have h := State.readAt_resetAsserted s .graceExpiry n r
      split
      · rename_i e; rw [e] at h
        split <;> simp_all
      · rename_i e; rw [e] at h; simp_all
@[simp] theorem State.lapseEach_freeCount (ns : List Nat) :
    ((lapseEach ns s).1).freeCount = s.freeCount := by
  induction ns generalizing s with
  | nil => rfl
  | cons n rest ih =>
    unfold lapseEach
    split
    · exact ih s
    · rename_i r _
      have h := State.readAt_freeCount s .graceExpiry n r
      split
      · rename_i e; rw [e] at h
        split <;> simp_all
      · rename_i e; rw [e] at h; simp_all
@[simp] theorem State.lapseEach_pending (ns : List Nat) :
    ((lapseEach ns s).1).pending = s.pending := by
  induction ns generalizing s with
  | nil => rfl
  | cons n rest ih =>
    unfold lapseEach
    split
    · exact ih s
    · rename_i r _
      have h := State.readAt_pending s .graceExpiry n r
      split
      · rename_i e; rw [e] at h
        split <;> simp_all
      · rename_i e; rw [e] at h; simp_all

/-! ### expireGrace -/

@[simp] theorem State.expireGrace_grantState (l : BankLetter) :
    (s.expireGrace l).grantState = s.grantState := by
  simp only [State.expireGrace]; (repeat' split) <;> simp
@[simp] theorem State.expireGrace_pool (l : BankLetter) :
    (s.expireGrace l).pool = s.pool := by
  simp only [State.expireGrace]; (repeat' split) <;> simp
@[simp] theorem State.expireGrace_hallTime (l : BankLetter) :
    (s.expireGrace l).hallTime = s.hallTime := by
  simp only [State.expireGrace]; (repeat' split) <;> simp
@[simp] theorem State.expireGrace_timers (l : BankLetter) :
    (s.expireGrace l).timers = s.timers := by
  simp only [State.expireGrace]; (repeat' split) <;> simp
@[simp] theorem State.expireGrace_resetAsserted (l : BankLetter) :
    (s.expireGrace l).resetAsserted = s.resetAsserted := by
  simp only [State.expireGrace]; (repeat' split) <;> simp
@[simp] theorem State.expireGrace_freeCount (l : BankLetter) :
    (s.expireGrace l).freeCount = s.freeCount := by
  simp only [State.expireGrace]; (repeat' split) <;> simp
@[simp] theorem State.expireGrace_pending (l : BankLetter) :
    (s.expireGrace l).pending = s.pending := by
  simp only [State.expireGrace]; (repeat' split) <;> simp

/-! ### retireOutgoing -/

@[simp] theorem State.retireOutgoing_links (l : BankLetter) (g : Nat) :
    (s.retireOutgoing l g).links = s.links := by
  simp only [State.retireOutgoing]; (repeat' split) <;> simp
@[simp] theorem State.retireOutgoing_positions (l : BankLetter) (g : Nat) :
    (s.retireOutgoing l g).positions = s.positions := by
  simp only [State.retireOutgoing]; (repeat' split) <;> simp
@[simp] theorem State.retireOutgoing_table (l : BankLetter) (g : Nat) :
    (s.retireOutgoing l g).table = s.table := by
  simp only [State.retireOutgoing]; (repeat' split) <;> simp
@[simp] theorem State.retireOutgoing_units (l : BankLetter) (g : Nat) :
    (s.retireOutgoing l g).units = s.units := by
  simp only [State.retireOutgoing]; (repeat' split) <;> simp
@[simp] theorem State.retireOutgoing_queue (l : BankLetter) (g : Nat) :
    (s.retireOutgoing l g).queue = s.queue := by
  simp only [State.retireOutgoing]; (repeat' split) <;> simp
@[simp] theorem State.retireOutgoing_grantState (l : BankLetter) (g : Nat) :
    (s.retireOutgoing l g).grantState = s.grantState := by
  simp only [State.retireOutgoing]; (repeat' split) <;> simp
@[simp] theorem State.retireOutgoing_pool (l : BankLetter) (g : Nat) :
    (s.retireOutgoing l g).pool = s.pool := by
  simp only [State.retireOutgoing]; (repeat' split) <;> simp
@[simp] theorem State.retireOutgoing_pendingReweigh (l : BankLetter) (g : Nat) :
    (s.retireOutgoing l g).pendingReweigh = s.pendingReweigh := by
  simp only [State.retireOutgoing]; (repeat' split) <;> simp
@[simp] theorem State.retireOutgoing_integrity (l : BankLetter) (g : Nat) :
    (s.retireOutgoing l g).integrity = s.integrity := by
  simp only [State.retireOutgoing]; (repeat' split) <;> simp
@[simp] theorem State.retireOutgoing_attention (l : BankLetter) (g : Nat) :
    (s.retireOutgoing l g).attention = s.attention := by
  simp only [State.retireOutgoing]; (repeat' split) <;> simp
@[simp] theorem State.retireOutgoing_hallTime (l : BankLetter) (g : Nat) :
    (s.retireOutgoing l g).hallTime = s.hallTime := by
  simp only [State.retireOutgoing]; (repeat' split) <;> simp
@[simp] theorem State.retireOutgoing_timers (l : BankLetter) (g : Nat) :
    (s.retireOutgoing l g).timers = s.timers := by
  simp only [State.retireOutgoing]; (repeat' split) <;> simp
@[simp] theorem State.retireOutgoing_resetAsserted (l : BankLetter) (g : Nat) :
    (s.retireOutgoing l g).resetAsserted = s.resetAsserted := by
  simp only [State.retireOutgoing]; (repeat' split) <;> simp
@[simp] theorem State.retireOutgoing_answers (l : BankLetter) (g : Nat) :
    (s.retireOutgoing l g).answers = s.answers := by
  simp only [State.retireOutgoing]; (repeat' split) <;> simp
@[simp] theorem State.retireOutgoing_freeCount (l : BankLetter) (g : Nat) :
    (s.retireOutgoing l g).freeCount = s.freeCount := by
  simp only [State.retireOutgoing]; (repeat' split) <;> simp
@[simp] theorem State.retireOutgoing_pending (l : BankLetter) (g : Nat) :
    (s.retireOutgoing l g).pending = s.pending := by
  simp only [State.retireOutgoing]; (repeat' split) <;> simp

/-! ### takeSwitch -/

@[simp] theorem State.takeSwitch_grantState (l : BankLetter) :
    (s.takeSwitch l).grantState = s.grantState := by
  simp only [State.takeSwitch]; (repeat' split) <;> simp
@[simp] theorem State.takeSwitch_pool (l : BankLetter) :
    (s.takeSwitch l).pool = s.pool := by
  simp only [State.takeSwitch]; (repeat' split) <;> simp
@[simp] theorem State.takeSwitch_hallTime (l : BankLetter) :
    (s.takeSwitch l).hallTime = s.hallTime := by
  simp only [State.takeSwitch]; (repeat' split) <;> simp
@[simp] theorem State.takeSwitch_timers (l : BankLetter) :
    (s.takeSwitch l).timers = s.timers := by
  simp only [State.takeSwitch]; (repeat' split) <;> simp
@[simp] theorem State.takeSwitch_resetAsserted (l : BankLetter) :
    (s.takeSwitch l).resetAsserted = s.resetAsserted := by
  simp only [State.takeSwitch]; (repeat' split) <;> simp
@[simp] theorem State.takeSwitch_freeCount (l : BankLetter) :
    (s.takeSwitch l).freeCount = s.freeCount := by
  simp only [State.takeSwitch]; (repeat' split) <;> simp
@[simp] theorem State.takeSwitch_pending (l : BankLetter) :
    (s.takeSwitch l).pending = s.pending := by
  simp only [State.takeSwitch]; (repeat' split) <;> simp

/-! ### endJob -/

@[simp] theorem State.endJob_links (u : UnitNo) (j : Job) :
    (s.endJob u j).links = s.links := by
  simp [State.endJob]
@[simp] theorem State.endJob_positions (u : UnitNo) (j : Job) :
    (s.endJob u j).positions = s.positions := by
  simp [State.endJob]
@[simp] theorem State.endJob_queue (u : UnitNo) (j : Job) :
    (s.endJob u j).queue = s.queue := by
  simp [State.endJob]
@[simp] theorem State.endJob_grantState (u : UnitNo) (j : Job) :
    (s.endJob u j).grantState = s.grantState := by
  simp [State.endJob]
@[simp] theorem State.endJob_pool (u : UnitNo) (j : Job) :
    (s.endJob u j).pool = s.pool := by
  simp [State.endJob]
@[simp] theorem State.endJob_pendingReweigh (u : UnitNo) (j : Job) :
    (s.endJob u j).pendingReweigh = s.pendingReweigh := by
  simp [State.endJob]
@[simp] theorem State.endJob_integrity (u : UnitNo) (j : Job) :
    (s.endJob u j).integrity = s.integrity := by
  simp [State.endJob]
@[simp] theorem State.endJob_hallTime (u : UnitNo) (j : Job) :
    (s.endJob u j).hallTime = s.hallTime := by
  simp [State.endJob]
@[simp] theorem State.endJob_timers (u : UnitNo) (j : Job) :
    (s.endJob u j).timers = s.timers := by
  simp [State.endJob]
@[simp] theorem State.endJob_resetAsserted (u : UnitNo) (j : Job) :
    (s.endJob u j).resetAsserted = s.resetAsserted := by
  simp [State.endJob]
@[simp] theorem State.endJob_answers (u : UnitNo) (j : Job) :
    (s.endJob u j).answers = s.answers := by
  simp [State.endJob]
@[simp] theorem State.endJob_freeCount (u : UnitNo) (j : Job) :
    (s.endJob u j).freeCount = s.freeCount := by
  simp [State.endJob]
@[simp] theorem State.endJob_pending (u : UnitNo) (j : Job) :
    (s.endJob u j).pending = s.pending := by
  simp [State.endJob]

/-! ### jobReadFails -/

@[simp] theorem State.jobReadFails_links (u : UnitNo) (j : Job) (e : BankEntry) (f : FaultReport) :
    (s.jobReadFails u j e f).links = s.links := by
  simp [State.jobReadFails]
@[simp] theorem State.jobReadFails_positions (u : UnitNo) (j : Job) (e : BankEntry) (f : FaultReport) :
    (s.jobReadFails u j e f).positions = s.positions := by
  simp [State.jobReadFails]
@[simp] theorem State.jobReadFails_table (u : UnitNo) (j : Job) (e : BankEntry) (f : FaultReport) :
    (s.jobReadFails u j e f).table = s.table := by
  simp [State.jobReadFails]
@[simp] theorem State.jobReadFails_queue (u : UnitNo) (j : Job) (e : BankEntry) (f : FaultReport) :
    (s.jobReadFails u j e f).queue = s.queue := by
  simp [State.jobReadFails]
@[simp] theorem State.jobReadFails_grantState (u : UnitNo) (j : Job) (e : BankEntry) (f : FaultReport) :
    (s.jobReadFails u j e f).grantState = s.grantState := by
  simp [State.jobReadFails]
@[simp] theorem State.jobReadFails_pool (u : UnitNo) (j : Job) (e : BankEntry) (f : FaultReport) :
    (s.jobReadFails u j e f).pool = s.pool := by
  simp [State.jobReadFails]
@[simp] theorem State.jobReadFails_pendingReweigh (u : UnitNo) (j : Job) (e : BankEntry) (f : FaultReport) :
    (s.jobReadFails u j e f).pendingReweigh = s.pendingReweigh := by
  simp [State.jobReadFails]
@[simp] theorem State.jobReadFails_hallTime (u : UnitNo) (j : Job) (e : BankEntry) (f : FaultReport) :
    (s.jobReadFails u j e f).hallTime = s.hallTime := by
  simp [State.jobReadFails]
@[simp] theorem State.jobReadFails_timers (u : UnitNo) (j : Job) (e : BankEntry) (f : FaultReport) :
    (s.jobReadFails u j e f).timers = s.timers := by
  simp [State.jobReadFails]
@[simp] theorem State.jobReadFails_resetAsserted (u : UnitNo) (j : Job) (e : BankEntry) (f : FaultReport) :
    (s.jobReadFails u j e f).resetAsserted = s.resetAsserted := by
  simp [State.jobReadFails]
@[simp] theorem State.jobReadFails_answers (u : UnitNo) (j : Job) (e : BankEntry) (f : FaultReport) :
    (s.jobReadFails u j e f).answers = s.answers := by
  simp [State.jobReadFails]
@[simp] theorem State.jobReadFails_pending (u : UnitNo) (j : Job) (e : BankEntry) (f : FaultReport) :
    (s.jobReadFails u j e f).pending = s.pending := by
  simp [State.jobReadFails]

end Sys2Proof.Machine
end

