-- ==== Sys2Proof/Laws/Jobs.lean ====
section
/-! SUPPORT. What the shared operations of jobs and requests can do: damage where no job and no entry stands on the record,
what a job has read, and that each of them answers a next state where its body does. -/
namespace Sys2Proof.Machine

variable (s : State)

/-! ### Damage (R17, R74, R77) -/

/-- With no job on a record nothing ends. -/
theorem State.endJobOn_none (h : Handle) (a : Answer) (hn : s.unitOn h = none) : s.endJobOn h a = s := by
  simp [State.endJobOn, hn]

/-- With no entry on a record nothing is dropped. -/
theorem State.dropEntryOn_none (h : Handle) (a : Answer) (hq : ∀ e ∈ s.queue, e.handle ≠ h) :
    s.dropEntryOn h a = s := by
  have : s.queue.find? (fun e => e.handle == h) = none :=
    List.find?_eq_none.2 fun e he => by simpa using hq e he
  simp [State.dropEntryOn, this]

/-- A record that is DAMAGED stays as it is. -/
theorem State.damageRecord_damaged (slot : Nat) (r : Rec) (subject : ReportSubject) (l : Option Label)
    (hb : r.body = .damaged l) : s.damageRecord slot r subject = s := by
  simp [State.damageRecord, hb]

/-! ### What a job has read (R47) -/

/-- A job that has read nothing sees its bank as it stands. -/
theorem Job.view_unread (j : Job) (b : Bank) (reading : Nat) (h : j.seen = []) : j.view b reading = b := by
  simp [Job.view, h]

/-- A job's reads are its earlier ones with those it goes on to make in front. -/
theorem Job.readOn_extends (j : Job) (b hidden : Bank) (n : Nat) (seen : List JobRead) :
    ∃ more, j.readOn b hidden n seen = more ++ seen := by
  induction n generalizing seen with
  | zero => exact ⟨[], rfl⟩
  | succ n ih =>
    unfold Job.readOn
    split
    · split
      · rename_i reading e _ _ _
        obtain ⟨more, hm⟩ := ih (⟨reading, b.seenEntry e⟩ :: seen)
        exact ⟨more ++ [⟨reading, b.seenEntry e⟩], by rw [hm]; simp⟩
      · exact ⟨[], rfl⟩
    · exact ⟨[], rfl⟩

/-! ### Commands go on (log entry 18) -/

/-- A request goes on where its body does. -/
theorem request_goesOn (k : Kind) (h : Header) (ok : Bool) (body : State → Outcome)
    (hb : ∀ s, ∃ t, body s = .next t) : ∃ t, request k h ok s body = .next t := by
  unfold request
  split
  · exact ⟨_, rfl⟩
  · split
    · exact ⟨_, rfl⟩
    · exact hb _

/-- A request that HALTED refuses goes on where its body does. -/
theorem haltedRequest_goesOn (k : Kind) (h : Header) (ok : Bool) (body : State → Outcome)
    (hb : ∀ s, ∃ t, body s = .next t) : ∃ t, haltedRequest k h ok s body = .next t :=
  request_goesOn s k h ok _ fun s => by
    split
    · exact ⟨_, rfl⟩
    · exact hb s

/-- A position request goes on where its body does. -/
theorem positionRequest_goesOn (k : Kind) (h : Header) (ok : Bool)
    (body : PositionNo → Session → Option Reservation → State → Outcome)
    (hb : ∀ p session res s, ∃ t, body p session res s = .next t) :
    ∃ t, positionRequest k h ok s body = .next t :=
  request_goesOn s k h ok _ fun s => by
    (repeat' split) <;> first | exact ⟨_, rfl⟩ | exact hb _ _ _ s

/-- A request on a record goes on where its body does. -/
theorem withRecord_goesOn (p : PositionNo) (items : List Item) (refusing : Rec → Bool)
    (body : Handle → Rec → State → Outcome) (hb : ∀ h r s, ∃ t, body h r s = .next t) :
    ∃ t, withRecord p items s refusing body = .next t := by
  unfold withRecord
  (repeat' split) <;> first | exact ⟨_, rfl⟩ | exact hb _ _ _

/-- A job that has found its fault reads nothing more and ends with it. -/
theorem State.runJob_found (s : State) (u : UnitNo) (j : Job) (f : FaultReport) (h : j.found = some f) :
    s.runJob u j = (s, some (.fault f)) := by
  simp only [State.runJob, h]

/-- A procedure that meets a failing read leaves the job with its fault, which it hands on unless the report halts. -/
theorem State.runJob_badRead (s : State) (u : UnitNo) (j : Job) (e : BankEntry) (f : FaultReport) (h : j.found = none)
    (hp : j.procedure (s.bank j.bank) = .error (.badRead e f)) :
    s.runJob u j = (s.jobReadFails u j e f, if (s.jobReadFails u j e f).halted then none else some (.fault f)) := by
  simp only [State.runJob, h, hp]

/-- A completion goes on where the application of its result does. -/
theorem completion_goesOn (u : UnitNo) (kind : JobKind → Bool) (apply : Job → Rec → JobResult → State → Outcome)
    (ha : ∀ j r result s, ∃ t, apply j r result s = .next t) : ∃ t, completion u kind s apply = .next t := by
  unfold completion
  (repeat' split) <;> first | exact ⟨_, rfl⟩ | exact ha _ _ _ _

/-- A job that ends in a fault goes on. -/
theorem positionFault_goesOn (u : UnitNo) (j : Job) (f : FaultReport) : ∃ t, positionFault u j f s = .next t := by
  unfold positionFault
  (repeat' split) <;> exact ⟨_, rfl⟩

end Sys2Proof.Machine
end

