-- ==== Sys2Proof/Laws/Requests.lean ====
section
/-! SUPPORT. What the path of a request does: which answers the link gives, and that a request admitted reaches its
body with the link holding it. -/
namespace Sys2Proof.Machine

variable {s t : State}

/-- A state is determined by its fields: the part of `answer` on a held request. Whatever the body did to other
blocks, the link is as it was before the frame and one answer frame is new. -/
theorem State.answer_of_held (l : Link) (k : Kind) (g : Tag) (a : Answer) (hl : t.links = (s.hold l k g).links)
    (h : (s.link l).outstanding = none) :
    t.answer l a = { t with links := s.links, answers := t.answers ++ [⟨l, g, answerKind k.code, a⟩] } := by
  have e : ({ s.link l with outstanding := none } : LinkState) = s.link l := by
    cases hx : s.link l; simp_all
  have ho : (t.link l).outstanding = some ⟨k, g⟩ := by
    have : t.link l = (s.hold l k g).link l := by cases l <;> simp [State.link, hl]
    rw [this]; simp [State.hold]
  have hs : (t.setLink l { t.link l with outstanding := none }).links = s.links := by
    have hx : t.link l = { s.link l with outstanding := some ⟨k, g⟩ } := by
      have : t.link l = (s.hold l k g).link l := by cases l <;> simp [State.link, hl]
      rw [this]; simp [State.hold]
    have : (t.setLink l { t.link l with outstanding := none }).links
        = ((s.hold l k g).setLink l { t.link l with outstanding := none }).links := by
      cases l <;> simp [State.setLink, hl]
    rw [this, hx]
    simp only [State.hold, State.setLink_setLink]
    rw [e, State.setLink_link]
  unfold State.answer
  rw [ho]
  simp only [State.send]
  rw [State.mk.injEq]
  simp [hs]

/-- Answering and judging a held request. -/
theorem State.finish_of_held (l : Link) (k : Kind) (g : Tag) (a : Answer) (hl : t.links = (s.hold l k g).links)
    (h : (s.link l).outstanding = none) :
    t.finish l a = .next ({ t with links := s.links }.judge.send l g k.code a) := by
  unfold State.finish
  rw [State.answer_of_held l k g a hl h]
  rfl

/-- Answering a held request. -/
theorem State.reply_of_held (l : Link) (k : Kind) (g : Tag) (a : Answer) (hl : t.links = (s.hold l k g).links)
    (h : (s.link l).outstanding = none) :
    t.reply l a = .next ({ t with links := s.links }.send l g k.code a) := by
  unfold State.reply
  rw [State.answer_of_held l k g a hl h]
  rfl

/-- No frame is taken while the reset input is asserted. -/
theorem request_asserted (k : Kind) (h : Header) (ok : Bool) (body : State → Outcome)
    (ha : s.resetAsserted = true) : request k h ok s body = .next s := by
  simp [request, ha]

/-- A frame the link refuses is answered at once. -/
theorem request_refused (k : Kind) (h : Header) (ok : Bool) (body : State → Outcome) (a : Answer)
    (ha : s.resetAsserted = false) (hr : linkRefusal s k h.link ok = some a) :
    request k h ok s body = .next (s.send h.link h.tag k.code a) := by
  simp [request, ha, hr]

/-- A frame that passes reaches its body, the link holding it. -/
theorem request_admitted (k : Kind) (h : Header) (items : List Item) (body : State → Outcome)
    (ha : s.Admits k h.link items) :
    request k h (itemsAccepted k items) s body = body (s.hold h.link k h.tag) := by
  obtain ⟨h1, h2, h3, h4⟩ := ha
  simp [request, linkRefusal, h1, h2, h3, h4]

/-- In HALTED a request that passes the link checks is answered HALTED (R183). -/
theorem haltedRequest_halted (k : Kind) (h : Header) (items : List Item) (body : State → Outcome)
    (ha : s.Admits k h.link items) (hh : s.halted = true) :
    haltedRequest k h (itemsAccepted k items) s body = .next (s.send h.link h.tag k.code .halted) := by
  unfold haltedRequest
  rw [request_admitted k h items _ ha]
  simp only [State.halted_hold, hh, if_true]
  unfold State.reply
  rw [State.answer_hold _ _ _ _ _ ha.2.2.1]

/-- Outside HALTED it reaches its body. -/
theorem haltedRequest_serves (k : Kind) (h : Header) (items : List Item) (body : State → Outcome)
    (ha : s.Serves k h.link items) :
    haltedRequest k h (itemsAccepted k items) s body = body (s.hold h.link k h.tag) := by
  unfold haltedRequest
  rw [request_admitted k h items _ ha.1]
  simp [ha.2]

/-- A position request at an OPEN position reaches its body. -/
theorem positionRequest_servesAt (k : Kind) (p : PositionNo) (g : Tag) (items : List Item) (session : Session)
    (res : Option Reservation) (body : PositionNo → Session → Option Reservation → State → Outcome)
    (ha : s.ServesAt k p items session res) :
    positionRequest k ⟨.position p, g⟩ (itemsAccepted k items) s body
      = body p session res (s.hold (.position p) k g) := by
  unfold positionRequest
  rw [request_admitted k ⟨.position p, g⟩ items _ ha.1.1]
  simp [ha.1.2, ha.2]

/-- In HALTED a position request is answered HALTED before its position is looked at (R117). -/
theorem positionRequest_halted (k : Kind) (h : Header) (items : List Item)
    (body : PositionNo → Session → Option Reservation → State → Outcome) (ha : s.Admits k h.link items)
    (hk : linkSort k = .position) (hh : s.halted = true) :
    positionRequest k h (itemsAccepted k items) s body = .next (s.send h.link h.tag k.code .halted) := by
  unfold positionRequest
  rw [request_admitted k h items _ ha]
  obtain ⟨l, g⟩ := h
  cases l with
  | position p =>
    simp only [State.halted_hold, hh, if_true]
    unfold State.reply
    rw [State.answer_hold _ _ _ _ _ ha.2.2.1]
  | dispatch => simp [State.Admits, sortOf, hk] at ha
  | supervisor => simp [State.Admits, sortOf, hk] at ha

/-- The record a handle names, found with its check and carrying no mark that refuses the request. -/
theorem withRecord_found (p : PositionNo) (items : List Item) (refusing : Rec → Bool)
    (body : Handle → Rec → State → Outcome) (h : Handle) (r : Rec) (hh : handleOf items = some h)
    (hf : s.Finds h r) (hr : refusing r = false) (hd : ∀ l, r.body ≠ .damaged l) :
    withRecord p items s refusing body = body h r s := by
  obtain ⟨hf, hs⟩ := hf
  unfold withRecord
  simp only [hh, State.lookupHandle, hf, State.readAt, hs, if_true, hr]
  cases hb : r.body <;> simp_all

/-- Everything reading the index for a range can find (R138, checks 6 and 7). -/
theorem scanIndex_cases (first last : Nat) (cells : List (Nat × IndexEntry)) :
    match scanIndex first last cells with
    | .carried => ∃ c ∈ cells, c.2.carries c.1 first last = true
    | .failing n e => (n, e) ∈ cells ∧ e.fails = true ∧ ∀ c ∈ cells, c.2.carries c.1 first last = false
    | .clear => ∀ c ∈ cells, c.2.carries c.1 first last = false ∧ c.2.fails = false := by
  unfold scanIndex
  by_cases h : cells.any fun c => c.2.carries c.1 first last
  · rw [if_pos h]
    exact List.any_eq_true.1 h
  · rw [if_neg h]
    have h : ∀ c ∈ cells, c.2.carries c.1 first last = false := by simpa using h
    cases hf : cells.find? fun c => c.2.fails with
    | none => exact fun c hc => ⟨h c hc, by simpa using List.find?_eq_none.1 hf c hc⟩
    | some c => exact ⟨List.mem_of_find?_eq_some hf, by simpa using List.find?_some hf, h⟩

/-- A serial of the range that is carried is found, whatever else the index holds. -/
theorem scanIndex_carried {first last : Nat} {cells : List (Nat × IndexEntry)} {c : Nat × IndexEntry} (hc : c ∈ cells)
    (h : c.2.carries c.1 first last = true) : scanIndex first last cells = .carried := by
  rw [scanIndex, if_pos (List.any_eq_true.2 ⟨c, hc, h⟩)]

end Sys2Proof.Machine
end

