-- ==== Sys2Proof/Laws/Tables.lean ====
section
/-! SUPPORT. The sparse stores: reading after writing, and every operation keeps the canonical form. -/
namespace Sys2Proof.Machine

variable {α : Type}

/-! ### Cells -/

theorem getCell_insertCell_same (k : Nat) (v : α) (l : List (Nat × α)) : getCell k (insertCell k v l) = some v := by
  induction l with
  | nil => simp [insertCell, getCell]
  | cons c rest ih =>
    obtain ⟨j, w⟩ := c
    simp only [insertCell]
    split
    · simp [getCell]
    · split
      · simp [getCell]
      · rename_i h1 h2
        simp [getCell, Ne.symm h2, ih]

theorem getCell_insertCell_other (k m : Nat) (v : α) (l : List (Nat × α)) (h : m ≠ k) :
    getCell m (insertCell k v l) = getCell m l := by
  induction l with
  | nil => simp [insertCell, getCell, Ne.symm h]
  | cons c rest ih =>
    obtain ⟨j, w⟩ := c
    simp only [insertCell]
    split
    · simp [getCell, Ne.symm h]
    · split
      · rename_i h2
        subst h2
        simp [getCell, Ne.symm h]
      · simp only [getCell, ih]

theorem getCell_eraseCell_other (k m : Nat) (l : List (Nat × α)) (h : m ≠ k) :
    getCell m (eraseCell k l) = getCell m l := by
  induction l with
  | nil => rfl
  | cons c rest ih =>
    obtain ⟨j, w⟩ := c
    simp only [eraseCell]
    split
    · rename_i h2
      subst h2
      simp [getCell, Ne.symm h]
    · simp only [getCell, ih]

/-- A list begins above a key. -/
def above (k : Nat) (l : List (Nat × α)) : Prop := ∀ c ∈ l.head?, k < c.1

theorem risingKeys_cons (c : Nat × α) (l : List (Nat × α)) :
    risingKeys (c :: l) = true ↔ above c.1 l ∧ risingKeys l = true := by
  obtain ⟨j, w⟩ := c
  cases l <;> simp [risingKeys, above]

theorem above_trans {j k : Nat} {l : List (Nat × α)} (h : j < k) (a : above k l) : above j l :=
  fun c hc => Nat.lt_trans h (a c hc)

theorem getCell_above (k : Nat) : ∀ l : List (Nat × α), risingKeys l = true → above k l → getCell k l = none
  | [], _, _ => rfl
  | (j, w) :: rest, hr, ha => by
    have hj : k < j := ha (j, w) (by simp)
    rw [risingKeys_cons] at hr
    simp only [getCell]
    rw [if_neg (by omega)]
    exact getCell_above k rest hr.2 (above_trans hj hr.1)

theorem getCell_eraseCell_same (k : Nat) (l : List (Nat × α)) (h : risingKeys l = true) :
    getCell k (eraseCell k l) = none := by
  induction l with
  | nil => rfl
  | cons c rest ih =>
    obtain ⟨j, w⟩ := c
    rw [risingKeys_cons] at h
    simp only [eraseCell]
    split
    · rename_i e
      subst e
      exact getCell_above _ _ h.2 h.1
    · rename_i e
      simp only [getCell, if_neg e]
      exact ih h.2

theorem above_insertCell {j k : Nat} (v : α) (l : List (Nat × α)) (h : j < k) (a : above j l) :
    above j (insertCell k v l) := by
  cases l with
  | nil => simpa [above, insertCell] using h
  | cons c rest =>
    obtain ⟨m, w⟩ := c
    simp only [insertCell]
    have hm : j < m := a (m, w) (by simp)
    split
    · simpa [above] using h
    · split
      · simpa [above] using h
      · simpa [above] using hm

theorem risingKeys_insertCell (k : Nat) (v : α) (l : List (Nat × α)) (h : risingKeys l = true) :
    risingKeys (insertCell k v l) = true := by
  induction l with
  | nil => rfl
  | cons c rest ih =>
    obtain ⟨j, w⟩ := c
    have hr := (risingKeys_cons _ _).1 h
    simp only [insertCell]
    split
    · rename_i hk
      rw [risingKeys_cons]
      exact ⟨by simpa [above] using hk, h⟩
    · split
      · rename_i hk
        subst hk
        rw [risingKeys_cons]
        exact hr
      · rw [risingKeys_cons]
        exact ⟨above_insertCell v rest (by omega) hr.1, ih hr.2⟩

theorem above_rising {j : Nat} {l : List (Nat × α)} (h : risingKeys l = true) (a : above j l) :
    ∀ c ∈ l, j < c.1 := by
  induction l generalizing j with
  | nil => simp
  | cons d rest ih =>
    rw [risingKeys_cons] at h
    have hd : j < d.1 := a d (by simp)
    intro c hc
    rcases List.mem_cons.1 hc with rfl | hc
    · exact hd
    · exact ih h.2 (above_trans hd h.1) c hc

theorem above_of_forall {j : Nat} {l : List (Nat × α)} (h : ∀ c ∈ l, j < c.1) : above j l :=
  fun c hc => h c (List.mem_of_mem_head? hc)

theorem eraseCell_subset (k : Nat) (l : List (Nat × α)) : ∀ c ∈ eraseCell k l, c ∈ l := by
  induction l with
  | nil => simp [eraseCell]
  | cons d rest ih =>
    obtain ⟨j, w⟩ := d
    simp only [eraseCell]
    split
    · intro c hc; exact List.mem_cons_of_mem _ hc
    · intro c hc
      rcases List.mem_cons.1 hc with rfl | hc
      · simp
      · exact List.mem_cons_of_mem _ (ih c hc)

theorem risingKeys_eraseCell (k : Nat) (l : List (Nat × α)) (h : risingKeys l = true) :
    risingKeys (eraseCell k l) = true := by
  induction l with
  | nil => rfl
  | cons c rest ih =>
    obtain ⟨j, w⟩ := c
    have hr := (risingKeys_cons _ _).1 h
    simp only [eraseCell]
    split
    · exact hr.2
    · rw [risingKeys_cons]
      exact ⟨above_of_forall fun c hc => above_rising hr.2 hr.1 c (eraseCell_subset k rest c hc), ih hr.2⟩

theorem risingKeys_filter (p : Nat × α → Bool) (l : List (Nat × α)) (h : risingKeys l = true) :
    risingKeys (l.filter p) = true := by
  induction l with
  | nil => rfl
  | cons c rest ih =>
    have hr := (risingKeys_cons _ _).1 h
    simp only [List.filter_cons]
    split
    · rw [risingKeys_cons]
      exact ⟨above_of_forall fun d hd => above_rising hr.2 hr.1 d (List.mem_filter.1 hd).1, ih hr.2⟩
    · exact ih hr.2

theorem risingKeys_map (f : α → α) (l : List (Nat × α)) (h : risingKeys l = true) :
    risingKeys (l.map fun c => (c.1, f c.2)) = true := by
  induction l with
  | nil => rfl
  | cons c rest ih =>
    have hr := (risingKeys_cons _ _).1 h
    rw [List.map_cons, risingKeys_cons]
    refine ⟨above_of_forall fun d hd => ?_, ih hr.2⟩
    obtain ⟨e, he, rfl⟩ := List.mem_map.1 hd
    exact above_rising hr.2 hr.1 e he

theorem mem_insertCell (k : Nat) (v : α) (l : List (Nat × α)) :
    ∀ c ∈ insertCell k v l, c = (k, v) ∨ c ∈ l := by
  induction l with
  | nil => simp [insertCell]
  | cons d rest ih =>
    obtain ⟨j, w⟩ := d
    intro c hc
    simp only [insertCell] at hc
    split at hc
    · rcases List.mem_cons.1 hc with rfl | hc
      · exact Or.inl rfl
      · exact Or.inr hc
    · split at hc
      · rcases List.mem_cons.1 hc with rfl | hc
        · exact Or.inl rfl
        · exact Or.inr (List.mem_cons_of_mem _ hc)
      · rcases List.mem_cons.1 hc with rfl | hc
        · exact Or.inr (by simp)
        · rcases ih c hc with e | hc
          · exact Or.inl e
          · exact Or.inr (List.mem_cons_of_mem _ hc)

/-! ### Tables -/

namespace Table

@[simp] theorem get_insert_same (t : Table α) (k : Nat) (v : α) : (t.insert k v).get k = some v :=
  getCell_insertCell_same k v t.cells

theorem get_insert_other (t : Table α) (k m : Nat) (v : α) (h : m ≠ k) : (t.insert k v).get m = t.get m :=
  getCell_insertCell_other k m v t.cells h

theorem get_erase_other (t : Table α) (k m : Nat) (h : m ≠ k) : (t.erase k).get m = t.get m :=
  getCell_eraseCell_other k m t.cells h

theorem get_erase_same (t : Table α) (k : Nat) (h : risingKeys t.cells = true) : (t.erase k).get k = none :=
  getCell_eraseCell_same k t.cells h

theorem canonical_iff (t : Table α) (isDefault : α → Bool) :
    t.canonical isDefault = true ↔ risingKeys t.cells = true ∧ ∀ c ∈ t.cells, isDefault c.2 = false := by
  simp [canonical, List.all_eq_true]

theorem canonical_empty (isDefault : α → Bool) : (Table.empty : Table α).canonical isDefault = true := rfl

/-- Listing a content that is not the unlisted one keeps the canonical form. -/
theorem canonical_insert (t : Table α) (isDefault : α → Bool) (k : Nat) (v : α) (hv : isDefault v = false)
    (h : t.canonical isDefault = true) : (t.insert k v).canonical isDefault = true := by
  rw [canonical_iff] at h ⊢
  refine ⟨risingKeys_insertCell k v t.cells h.1, fun c hc => ?_⟩
  rcases mem_insertCell k v t.cells c hc with rfl | hc
  · exact hv
  · exact h.2 c hc

/-- Unlisting a key keeps it. -/
theorem canonical_erase (t : Table α) (isDefault : α → Bool) (k : Nat) (h : t.canonical isDefault = true) :
    (t.erase k).canonical isDefault = true := by
  rw [canonical_iff] at h ⊢
  exact ⟨risingKeys_eraseCell k t.cells h.1, fun c hc => h.2 c (eraseCell_subset k t.cells c hc)⟩

/-- Writing a key keeps it. -/
theorem canonical_put [DecidableEq α] (t : Table α) (k : Nat) (v d : α) (h : t.canonical (· == d) = true) :
    (t.put k v d).canonical (· == d) = true := by
  unfold put
  split
  · exact canonical_erase t _ k h
  · rename_i hv
    exact canonical_insert t _ k v (by simpa using hv) h

/-- Keeping some of the listed cells keeps it. -/
theorem canonical_filter (t : Table α) (isDefault : α → Bool) (p : Nat × α → Bool)
    (h : t.canonical isDefault = true) : (⟨t.cells.filter p⟩ : Table α).canonical isDefault = true := by
  rw [canonical_iff] at h ⊢
  exact ⟨risingKeys_filter p t.cells h.1, fun c hc => h.2 c (List.mem_filter.1 hc).1⟩

/-- Changing every listed content of a store in which no content is left out keeps it. -/
theorem canonical_mapValues (t : Table α) (f : α → α) (h : t.canonical (fun _ => false) = true) :
    (t.mapValues f).canonical (fun _ => false) = true := by
  rw [canonical_iff] at h ⊢
  exact ⟨risingKeys_map f t.cells h.1, fun _ _ => rfl⟩

/-- Writing a key and reading it back. -/
theorem getD_put_same [DecidableEq α] (t : Table α) (k : Nat) (v d : α) (h : risingKeys t.cells = true) :
    (t.put k v d).getD k d = v := by
  unfold put getD
  split
  · rename_i e
    rw [get_erase_same t k h, e]; rfl
  · rw [get_insert_same]; rfl

/-- Writing a key leaves what every other key holds. -/
theorem getD_put_other [DecidableEq α] (t : Table α) (k m : Nat) (v d : α) (h : m ≠ k) :
    (t.put k v d).getD m d = t.getD m d := by
  unfold put getD
  split
  · rw [get_erase_other t k m h]
  · rw [get_insert_other t k m v h]

end Table

/-- No free key in a range that is listed whole. -/
theorem Table.lowestFree_none {α : Type} (t : Table α) (fuel k : Nat) (h : ∀ n, k ≤ n → n < k + fuel → t.get n ≠ none) :
    t.lowestFree fuel k = none := by
  induction fuel generalizing k with
  | zero => rfl
  | succ fuel ih =>
    simp only [Table.lowestFree]
    split
    · exact absurd ‹_› (h k (by omega) (by omega))
    · exact ih (k + 1) fun n h1 h2 => h n (by omega) (by omega)

/-- The lowest free key of a range. -/
theorem Table.lowestFree_some {α : Type} (t : Table α) {fuel k n : Nat} (h1 : k ≤ n) (h2 : n < k + fuel)
    (hn : t.get n = none) (h : ∀ m, k ≤ m → m < n → t.get m ≠ none) : t.lowestFree fuel k = some n := by
  induction fuel generalizing k with
  | zero => omega
  | succ fuel ih =>
    simp only [Table.lowestFree]
    rcases Nat.lt_or_ge k n with hk | hk
    · split
      · exact absurd ‹_› (h k (by omega) hk)
      · exact ih (by omega) (by omega) fun m a b => h m (by omega) b
    · obtain rfl : k = n := by omega
      rw [hn]

end Sys2Proof.Machine
end

