-- ==== Sys2Proof/Laws/Damage.lean ====
section
/-! SUPPORT. What a failing read can do (R177, R178): damage of one record, the reading of every live record, the grace
expiry, the lookups of requests, and that none of them touches the supervisor link. -/
namespace Sys2Proof.Machine

variable (s : State)

/-! ### One record -/

/-- Damage writes the DAMAGED record and nothing else of the table. -/
theorem State.damageRecord_table (slot : Nat) (r : Rec) (subject : ReportSubject) (h : ∀ l, r.body ≠ .damaged l) :
    (s.damageRecord slot r subject).table = (s.putRecord slot r.damage).table := by
  unfold State.damageRecord
  split
  · exact absurd ‹_› (h _)
  · simp

/-- Damage writes the record of its slot alone. -/
theorem State.damageRecord_record_other (slot m : Nat) (r : Rec) (subject : ReportSubject) (h : m ≠ slot) :
    (s.damageRecord slot r subject).record m = s.record m := by
  by_cases hd : ∃ l, r.body = .damaged l
  · obtain ⟨l, hl⟩ := hd
    rw [s.damageRecord_damaged slot r subject l hl]
  · have ht := s.damageRecord_table slot r subject fun l hl => hd ⟨l, hl⟩
    simp only [State.record, ht]
    exact Table.get_insert_other _ slot m r.damage h

/-- Damage keeps the generations. -/
@[simp] theorem State.damageRecord_generations (slot : Nat) (r : Rec) (subject : ReportSubject) :
    (s.damageRecord slot r subject).table.generations = s.table.generations := by
  unfold State.damageRecord
  split
  · rfl
  · simp [State.putRecord]

/-- Damage keeps the label index. -/
@[simp] theorem State.damageRecord_index (slot : Nat) (r : Rec) (subject : ReportSubject) :
    (s.damageRecord slot r subject).table.index = s.table.index := by
  unfold State.damageRecord
  split
  · rfl
  · simp [State.putRecord]

/-- A damaged record as R17 leaves it. -/
theorem Rec.damage_eq (r : Rec) :
    r.damage = ⟨r.owner, (r.changeCount + 1) % 65536, false, false, true, .damaged r.body.label⟩ := rfl

/-- With neither job nor entry on a record, damage writes it and releases its pin. -/
theorem State.damageRecord_idle (slot : Nat) (r : Rec) (subject : ReportSubject) (h : ∀ l, r.body ≠ .damaged l)
    (hu : s.unitOn (s.handleAt slot) = none) (hq : ∀ e ∈ s.queue, e.handle ≠ s.handleAt slot) :
    s.damageRecord slot r subject = (s.putRecord slot r.damage).releaseBodyPin r.body := by
  have hu' : ((s.putRecord slot r.damage).releaseBodyPin r.body).unitOn (s.handleAt slot) = none := by
    simpa [State.unitOn, State.unit] using hu
  unfold State.damageRecord
  split
  · exact absurd ‹_› (h _)
  · show State.dropEntryOn (State.endJobOn _ _ _) _ _ = _
    rw [State.endJobOn_none _ _ _ hu', State.dropEntryOn_none _ _ _ (by simpa using hq)]

/-- A read that passes its check finds the record. -/
theorem State.readAt_sound (reader : Reader) (slot : Nat) (r : Rec) (h : r.sound = true) :
    s.readAt reader slot r = (s, .found slot r) := by
  simp [State.readAt, h]

/-- A read that fails damages the record and reports it. -/
theorem State.readAt_failing (reader : Reader) (slot : Nat) (r : Rec) (h : r.sound = false) :
    s.readAt reader slot r =
      ((s.damageRecord slot r (.record (s.handleAt slot))).report (.record (s.handleAt slot)) reader,
        .damaged (.record (s.handleAt slot))) := by
  simp [State.readAt, h]

/-! ### Records in turn -/

/-- A cell of a rising list is what its key holds. -/
theorem getCell_of_mem {α : Type} {l : List (Nat × α)} (h : risingKeys l = true) {c : Nat × α} (hc : c ∈ l) :
    getCell c.1 l = some c.2 := by
  induction l with
  | nil => cases hc
  | cons d rest ih =>
    obtain ⟨ha, hr⟩ := (risingKeys_cons _ _).1 h
    obtain ⟨j, w⟩ := d
    rcases List.mem_cons.1 hc with rfl | hm
    · simp [getCell]
    · have : j < c.1 := above_rising hr ha c hm
      simp only [getCell]
      rw [if_neg (by omega)]
      exact ih hr hm

/-- What a key holds is listed. -/
theorem mem_of_getCell {α : Type} {l : List (Nat × α)} {k : Nat} {v : α} (h : getCell k l = some v) : (k, v) ∈ l := by
  induction l with
  | nil => cases h
  | cons c rest ih =>
    simp only [getCell] at h
    split at h
    · rename_i hk
      exact List.mem_cons.2 (.inl (Prod.ext hk.symm (Option.some.inj h).symm))
    · exact List.mem_cons_of_mem _ (ih h)

/-- Two rising lists that hold the same at every key are one list. -/
theorem eq_of_getCell {α : Type} {l m : List (Nat × α)} (hl : risingKeys l = true) (hm : risingKeys m = true)
    (h : ∀ k, getCell k l = getCell k m) : l = m := by
  induction l generalizing m with
  | nil =>
    cases m with
    | nil => rfl
    | cons d rest => simpa [getCell] using h d.1
  | cons c rest ih =>
    obtain ⟨hc, hr⟩ := (risingKeys_cons _ _).1 hl
    cases m with
    | nil => simpa [getCell] using h c.1
    | cons d more =>
      obtain ⟨hd, hq⟩ := (risingKeys_cons _ _).1 hm
      have first : c.1 = d.1 := by
        by_contra hne
        rcases Nat.lt_or_gt_of_ne hne with hlt | hlt
        · have := h c.1
          simp [getCell, Ne.symm hne, getCell_above c.1 more hq (above_trans hlt hd)] at this
        · have := h d.1
          simp [getCell, hne, getCell_above d.1 rest hr (above_trans hlt hc)] at this
      have second : c.2 = d.2 := by simpa [getCell, first] using h c.1
      have tail : rest = more := ih hr hq fun k => by
        by_cases hk : c.1 = k
        · rw [← hk, getCell_above c.1 rest hr hc, first, getCell_above d.1 more hq hd]
        · have := h k
          simpa [getCell, hk, ← first] using this
      rw [tail, show c = d from Prod.ext first second]

/-- What a key holds after every content is changed. -/
theorem getCell_mapValues {α : Type} (f : α → α) (k : Nat) (l : List (Nat × α)) :
    getCell k (l.map fun c => (c.1, f c.2)) = (getCell k l).map f := by
  induction l with
  | nil => rfl
  | cons c rest ih =>
    simp only [List.map_cons, getCell]
    split <;> simp [ih]

/-- Steps over the listed records, each of which writes at most its own slot, change every record by itself. -/
theorem foldl_records (f : State → Nat × Rec → State) (g : Rec → Rec) (l : List (Nat × Rec)) (hl : risingKeys l = true)
    (hf : ∀ u c, ((f u c).table.records = u.table.records ∧ g c.2 = c.2) ∨
      (f u c).table.records = u.table.records.insert c.1 (g c.2))
    (hr : risingKeys s.table.records.cells = true) (hs : ∀ c ∈ l, s.record c.1 = some c.2) :
    risingKeys (l.foldl f s).table.records.cells = true ∧ ∀ m, (l.foldl f s).record m =
      match getCell m l with
      | some r => some (g r)
      | none => s.record m := by
  induction l generalizing s with
  | nil => exact ⟨hr, fun m => rfl⟩
  | cons c rest ih =>
    obtain ⟨ha, hrest⟩ := (risingKeys_cons _ _).1 hl
    have rising : risingKeys (f s c).table.records.cells = true := by
      rcases hf s c with ⟨e, _⟩ | e
      · rw [e]; exact hr
      · rw [e]; exact risingKeys_insertCell _ _ _ hr
    have own : (f s c).record c.1 = some (g c.2) := by
      rcases hf s c with ⟨e, hg⟩ | e
      · rw [hg, ← hs c (List.mem_cons_self ..)]; exact congrArg (Table.get · c.1) e
      · exact (congrArg (Table.get · c.1) e).trans (Table.get_insert_same _ _ _)
    have other (m : Nat) (hm : m ≠ c.1) : (f s c).record m = s.record m := by
      rcases hf s c with ⟨e, _⟩ | e
      · exact congrArg (Table.get · m) e
      · exact (congrArg (Table.get · m) e).trans (Table.get_insert_other _ _ _ _ hm)
    obtain ⟨hrise, hrec⟩ := ih (f s c) hrest rising fun d hd =>
      (other d.1 (by have := above_rising hrest ha d hd; omega)).trans (hs d (List.mem_cons_of_mem _ hd))
    refine ⟨hrise, fun m => ?_⟩
    rw [List.foldl_cons, hrec m]
    by_cases hm : c.1 = m
    · subst hm
      simp [getCell, getCell_above c.1 rest hrest ha, own]
    · simp [getCell, hm, other m (Ne.symm hm)]

/-- Steps over every listed record. -/
theorem foldl_records_eq (f : State → Nat × Rec → State) (g : Rec → Rec)
    (hf : ∀ u c, ((f u c).table.records = u.table.records ∧ g c.2 = c.2) ∨
      (f u c).table.records = u.table.records.insert c.1 (g c.2))
    (hr : risingKeys s.table.records.cells = true) :
    (s.table.records.cells.foldl f s).table.records = s.table.records.mapValues g := by
  obtain ⟨h1, h2⟩ := foldl_records s f g s.table.records.cells hr hf hr fun c hc => getCell_of_mem hr hc
  refine congrArg Table.mk (eq_of_getCell h1 (risingKeys_map g _ hr) fun k => ?_)
  refine (h2 k).trans ?_
  rw [getCell_mapValues]
  show (match getCell k s.table.records.cells with
    | some r => some (g r)
    | none => getCell k s.table.records.cells) = _
  cases getCell k s.table.records.cells <;> rfl

/-- The reading of a list of cells: each record that fails damaged and reported in turn. -/
theorem readEach_eq_foldl (reader : Reader) (handles : Nat → Handle) (l : List (Nat × Rec)) (hl : risingKeys l = true)
    (hs : ∀ c ∈ l, s.record c.1 = some c.2) (hh : ∀ n, s.handleAt n = handles n) :
    readEach reader (l.map (·.1)) s = (l.filter fun c => !c.2.sound).foldl (fun u c =>
      (u.damageRecord c.1 c.2 (.record (handles c.1))).report (.record (handles c.1)) reader) s := by
  induction l generalizing s with
  | nil => rfl
  | cons c rest ih =>
    obtain ⟨ha, hr⟩ := (risingKeys_cons _ _).1 hl
    have keep (t : State) (ht : ∀ m, m ≠ c.1 → t.record m = s.record m) : ∀ d ∈ rest, t.record d.1 = some d.2 :=
      fun d hd => (ht d.1 (by have := above_rising hr ha d hd; omega)).trans (hs d (List.mem_cons_of_mem _ hd))
    rw [List.map_cons, readEach, hs c (List.mem_cons_self ..)]
    show readEach reader (rest.map (·.1)) (s.readAt reader c.1 c.2).1 = _
    cases hc : c.2.sound
    · rw [State.readAt_failing _ _ _ _ hc, hh, List.filter_cons_of_pos (by simp [hc]), List.foldl_cons]
      exact ih _ hr
        (keep _ fun m hm => (congrArg (fun t : RecordTable => t.records.get m) (State.report_table _ _ _)).trans
          (s.damageRecord_record_other _ _ _ _ hm))
        fun n => by rw [← hh n]; simp [State.handleAt, State.generation]
    · rw [State.readAt_sound _ _ _ _ hc, List.filter_cons_of_neg (by simp [hc])]
      exact ih s hr (keep s fun _ _ => rfl) hh

/-- The grace expiry over a list of cells: each RATED record of the bank returned, or damaged and reported where its read
fails; the flag says whether one returned. -/
theorem lapseEach_eq_foldl (bank : BankLetter) (handles : Nat → Handle) (l : List (Nat × Rec)) (hl : risingKeys l = true)
    (hs : ∀ c ∈ l, s.record c.1 = some c.2) (hh : ∀ n, s.handleAt n = handles n) :
    lapseEach (ratedOn bank l) s = (l.foldl (fun u c =>
      match c.2.body with
      | .rated e q =>
        if q.bank = bank then
          if c.2.sound then u.toDraft c.1 c.2 e
          else (u.damageRecord c.1 c.2 (.record (handles c.1))).report (.record (handles c.1)) .graceExpiry
        else u
      | _ => u) s,
      l.any fun c => match c.2.body with
        | .rated _ q => decide (q.bank = bank) && c.2.sound
        | _ => false) := by
  induction l generalizing s with
  | nil => rfl
  | cons c rest ih =>
    obtain ⟨ha, hr⟩ := (risingKeys_cons _ _).1 hl
    have keep (t : State) (ht : ∀ m, m ≠ c.1 → t.record m = s.record m) : ∀ d ∈ rest, t.record d.1 = some d.2 :=
      fun d hd => (ht d.1 (by have := above_rising hr ha d hd; omega)).trans (hs d (List.mem_cons_of_mem _ hd))
    have hc := hs c (List.mem_cons_self ..)
    obtain ⟨slot, r⟩ := c
    cases hb : r.body with
    | rated e q =>
      by_cases hq : q.bank = bank
      · simp only [ratedOn, hb, hq, if_true, lapseEach, hc, List.foldl_cons, List.any_cons]
        cases hr' : r.sound
        · simp only [State.readAt_failing _ _ _ _ hr', hh]
          rw [ih _ hr
            (keep _ fun m hm => (congrArg (fun t : RecordTable => t.records.get m) (State.report_table _ _ _)).trans
              (s.damageRecord_record_other _ _ _ _ hm))
            fun n => by rw [← hh n]; simp [State.handleAt, State.generation]]
          simp
        · simp only [State.readAt_sound _ _ _ _ hr', hb]
          rw [ih _ hr
            (keep _ fun m hm => (congrArg (fun t : RecordTable => t.records.get m) (by simp [State.toDraft]; rfl)).trans
              (Table.get_insert_other _ slot m _ hm))
            fun n => by rw [← hh n]; simp [State.handleAt, State.generation, State.toDraft, State.putRecord]]
          simp
      · simp only [ratedOn, hb, hq, if_false, List.foldl_cons, List.any_cons]
        rw [ih s hr (keep s fun _ _ => rfl) hh]
        simp
    | _ =>
      simp only [ratedOn, hb, List.foldl_cons, List.any_cons]
      rw [ih s hr (keep s fun _ _ => rfl) hh]
      simp

/-! ### The reading of every live record -/

/-- A canonical state's records rise. -/
theorem State.canonical_records (h : s.canonical = true) : risingKeys s.table.records.cells = true := by
  simp only [State.canonical, Bool.and_eq_true] at h
  exact ((Table.canonical_iff _ _).1 h.1.1.1.1).1

/-- What the read of a record leaves of it. -/
def Rec.afterRead (r : Rec) : Rec :=
  match r.sound, r.body with
  | true, _ => r
  | false, .damaged _ => r
  | false, _ => r.damage

/-- The reading of every live record: each that fails damaged and reported in turn. -/
theorem State.readAll_eq_foldl (reader : Reader) (h : risingKeys s.table.records.cells = true) :
    s.readAll reader = (s.table.records.cells.filter fun c => !c.2.sound).foldl (fun u c =>
      (u.damageRecord c.1 c.2 (.record (s.handleAt c.1))).report (.record (s.handleAt c.1)) reader) s :=
  readEach_eq_foldl s reader s.handleAt s.table.records.cells h (fun _ hc => getCell_of_mem h hc) fun _ => rfl

/-- The reading of every live record changes each failing one by itself. -/
theorem State.readAll_records (reader : Reader) (h : risingKeys s.table.records.cells = true) :
    (s.readAll reader).table.records = s.table.records.mapValues Rec.afterRead := by
  rw [s.readAll_eq_foldl reader h, List.foldl_filter]
  refine foldl_records_eq s _ _ (fun u c => ?_) h
  obtain ⟨slot, r⟩ := c
  unfold Rec.afterRead
  cases hs : r.sound <;> simp only [Bool.not_false, Bool.not_true, if_true, Bool.false_eq_true, if_false]
  · cases hb : r.body with
    | damaged l => exact .inl ⟨by simp [State.damageRecord_damaged _ _ _ _ _ hb], rfl⟩
    | _ =>
      refine .inr ?_
      rw [State.report_table, State.damageRecord_table _ _ _ _ (by simp [hb])]
      rfl
  · exact .inl (by simp)

/-- The reading of every live record, record by record. -/
theorem State.readAll_record (reader : Reader) (h : risingKeys s.table.records.cells = true) (n : Nat) :
    (s.readAll reader).record n = (s.record n).map Rec.afterRead := by
  unfold State.record
  rw [s.readAll_records reader h]
  exact getCell_mapValues _ _ _

/-- The reading of every live record keeps the generations and the label index. -/
theorem State.readAll_table (reader : Reader) (h : risingKeys s.table.records.cells = true) :
    (s.readAll reader).table.generations = s.table.generations ∧ (s.readAll reader).table.index = s.table.index := by
  rw [s.readAll_eq_foldl reader h]
  generalize s.handleAt = handles
  generalize (s.table.records.cells.filter fun c => !c.2.sound) = l
  clear h
  induction l generalizing s with
  | nil => exact ⟨rfl, rfl⟩
  | cons c rest ih =>
    rw [List.foldl_cons]
    obtain ⟨h1, h2⟩ := ih ((s.damageRecord c.1 c.2 (.record (handles c.1))).report (.record (handles c.1)) reader)
    exact ⟨h1.trans (by simp), h2.trans (by simp)⟩

/-- Where every record passes nothing happens. -/
theorem State.readAll_sound (reader : Reader) (h : s.RecordsSound) : s.readAll reader = s := by
  have each (l : List Nat) : readEach reader l s = s := by
    induction l with
    | nil => rfl
    | cons n rest ih =>
      cases hr : s.record n with
      | none => simpa only [readEach, hr] using ih
      | some r =>
        simpa only [readEach, hr, State.readAt_sound _ _ _ _ (h _ (mem_of_getCell hr))] using ih
  exact each _

/-- What a position owns after the reading: the records that pass, for a sort that takes no DAMAGED one. -/
theorem State.owned_readAll (reader : Reader) (p : PositionNo) (sort : RecordBody → Bool)
    (hd : ∀ l, sort (.damaged l) = false) (h : risingKeys s.table.records.cells = true ∨ s.RecordsSound) :
    (s.readAll reader).owned p sort =
      s.table.records.cells.countP fun c => c.2.sound && (c.2.owner == p && sort c.2.body) := by
  rcases h with h | h
  · simp only [State.owned, s.readAll_records reader h, Table.mapValues, List.countP_map]
    refine List.countP_congr fun c _ => ?_
    obtain ⟨n, r⟩ := c
    simp only [Function.comp, Rec.afterRead]
    cases hr : r.sound
    · cases hb : r.body <;> simp [hb, Rec.damage, Rec.change, hd]
    · simp
  · rw [s.readAll_sound reader h]
    exact List.countP_congr fun c hc => by simp [h c hc]

/-! ### The grace expiry -/

/-- What the grace expiry of a bank leaves of a record. -/
def Rec.afterLapse (bank : BankLetter) (r : Rec) : Rec :=
  match r.body with
  | .rated e q => if q.bank = bank then if r.sound then r.change (.draft e) else r.damage else r
  | _ => r

/-- The grace expiry of a bank changes each RATED record of the bank by itself. -/
theorem State.expireGrace_records (bank : BankLetter) (h : risingKeys s.table.records.cells = true) :
    (s.expireGrace bank).table.records = s.table.records.mapValues (Rec.afterLapse bank) := by
  have hl := lapseEach_eq_foldl s bank s.handleAt s.table.records.cells h (fun _ hc => getCell_of_mem h hc) fun _ => rfl
  have he : (s.expireGrace bank).table = (lapseEach (ratedOn bank s.table.records.cells) s).1.table := by
    simp only [State.expireGrace]
    (repeat' split) <;> simp
  rw [he, hl]
  refine foldl_records_eq s _ _ (fun u c => ?_) h
  obtain ⟨slot, r⟩ := c
  unfold Rec.afterLapse
  cases hb : r.body with
  | rated e q =>
    by_cases hq : q.bank = bank
    · simp only [hq, if_true]
      cases hs : r.sound
      · refine .inr ?_
        rw [if_neg Bool.false_ne_true, State.report_table, State.damageRecord_table _ _ _ _ (by simp [hb])]
        rfl
      · refine .inr ?_
        rw [if_pos rfl, State.toDraft, State.releaseBodyPin_table]
        rfl
    · simp [hq]
  | _ => exact .inl ⟨rfl, rfl⟩

/-! ### The supervisor link stands aside -/

variable (x : LinkState)

/-- An answer to a requester leaves the supervisor link. -/
theorem State.answerRequester_supervisor (r : Requester) (a : Answer) :
    (s.setLink .supervisor x).answerRequester r a = (s.answerRequester r a).setLink .supervisor x := by
  cases r with
  | position p =>
    show State.setCtx (State.answer (s.setLink .supervisor x) (.position p) a) p _ = _
    cases h : (s.link (.position p)).outstanding
    all_goals
      have h' : ((s.setLink .supervisor x).link (.position p)).outstanding = _ := h
      simp only [State.answerRequester, State.answerPosition, State.answer, h, h']
      rfl
  | dispatch =>
    cases h : s.links.dispatch.outstanding
    all_goals
      have h' : ((s.setLink .supervisor x).link .dispatch).outstanding = _ := h
      have h'' : (s.link .dispatch).outstanding = _ := h
      simp only [State.answerRequester, State.answer, h', h'']
      rfl

/-- So does the release of a pin. -/
theorem State.releasePin_supervisor (l : BankLetter) :
    (s.setLink .supervisor x).releasePin l = (s.releasePin l).setLink .supervisor x := by
  cases l
  all_goals
    simp only [State.releasePin, State.bank_setLink]
    (repeat' split) <;> rfl

/-- So does the release of a record's pin. -/
theorem State.releaseBodyPin_supervisor (body : RecordBody) :
    (s.setLink .supervisor x).releaseBodyPin body = (s.releaseBodyPin body).setLink .supervisor x := by
  unfold State.releaseBodyPin
  split
  · exact State.releasePin_supervisor s x _
  · rfl

/-- So does the return of a record to DRAFT. -/
theorem State.toDraft_supervisor (slot : Nat) (r : Rec) (e : Entered) :
    (s.setLink .supervisor x).toDraft slot r e = (s.toDraft slot r e).setLink .supervisor x :=
  State.releaseBodyPin_supervisor (s.putRecord slot (r.change (.draft e))) x r.body

/-- So does the end of a job on a record. -/
theorem State.endJobOn_supervisor (h : Handle) (a : Answer) :
    (s.setLink .supervisor x).endJobOn h a = (s.endJobOn h a).setLink .supervisor x := by
  have hu : (s.setLink .supervisor x).unitOn h = s.unitOn h := rfl
  have hv (u : UnitNo) : (s.setLink .supervisor x).unit u = s.unit u := rfl
  simp only [State.endJobOn, hu, hv]
  split
  · rfl
  · rename_i u _
    split
    · rfl
    · rename_i j _
      have e : ((s.setLink .supervisor x).setUnit u none).releasePin j.bank =
          ((s.setUnit u none).releasePin j.bank).setLink .supervisor x :=
        State.releasePin_supervisor (s.setUnit u none) x j.bank
      rw [e]
      split
      · rfl
      · exact State.answerRequester_supervisor _ x _ _

/-- So does the removal of an entry on a record. -/
theorem State.dropEntryOn_supervisor (h : Handle) (a : Answer) :
    (s.setLink .supervisor x).dropEntryOn h a = (s.dropEntryOn h a).setLink .supervisor x := by
  have hq : (s.setLink .supervisor x).queue = s.queue := rfl
  simp only [State.dropEntryOn, hq]
  split
  · rfl
  · exact State.answerRequester_supervisor { s with queue := s.queue.filter fun x => x.handle != h } x _ _

/-- So does damage of a record. -/
theorem State.damageRecord_supervisor (slot : Nat) (r : Rec) (subject : ReportSubject) :
    (s.setLink .supervisor x).damageRecord slot r subject = (s.damageRecord slot r subject).setLink .supervisor x := by
  unfold State.damageRecord
  split
  · rfl
  · show State.dropEntryOn (State.endJobOn (State.releaseBodyPin ((s.putRecord slot r.damage).setLink .supervisor x) _)
      _ _) _ _ = _
    rw [State.releaseBodyPin_supervisor, State.endJobOn_supervisor, State.dropEntryOn_supervisor]
    rfl

/-- So does a report. -/
theorem State.report_supervisor (subject : ReportSubject) (reader : Reader) :
    (s.setLink .supervisor x).report subject reader = (s.report subject reader).setLink .supervisor x := by
  unfold State.report
  by_cases h : (s.integrity.take subject reader s.hallTime).state = .alert
  · simp [h]; rfl
  · simp [h]; rfl

/-- So does the read of a record. -/
theorem State.readAt_supervisor (reader : Reader) (slot : Nat) (r : Rec) :
    (s.setLink .supervisor x).readAt reader slot r =
      ((s.readAt reader slot r).1.setLink .supervisor x, (s.readAt reader slot r).2) := by
  cases h : r.sound
  · rw [State.readAt_failing _ _ _ _ h, State.readAt_failing _ _ _ _ h, State.damageRecord_supervisor,
      State.report_supervisor]
    rfl
  · rw [State.readAt_sound _ _ _ _ h, State.readAt_sound _ _ _ _ h]

/-- So does the reading of every live record. -/
theorem State.readAll_supervisor (reader : Reader) :
    (s.setLink .supervisor x).readAll reader = (s.readAll reader).setLink .supervisor x := by
  have each (l : List Nat) (t : State) :
      readEach reader l (t.setLink .supervisor x) = (readEach reader l t).setLink .supervisor x := by
    induction l generalizing t with
    | nil => rfl
    | cons n rest ih =>
      have hr : (t.setLink .supervisor x).record n = t.record n := rfl
      simp only [readEach, hr]
      split
      · exact ih t
      · rw [State.readAt_supervisor]
        exact ih _
  exact each _ s

/-- So does the grace expiry. -/
theorem State.expireGrace_supervisor (bank : BankLetter) :
    (s.setLink .supervisor x).expireGrace bank = (s.expireGrace bank).setLink .supervisor x := by
  have each (l : List Nat) (t : State) : lapseEach l (t.setLink .supervisor x) =
      ((lapseEach l t).1.setLink .supervisor x, (lapseEach l t).2) := by
    induction l generalizing t with
    | nil => rfl
    | cons n rest ih =>
      have hr : (t.setLink .supervisor x).record n = t.record n := rfl
      simp only [lapseEach, hr]
      cases t.record n with
      | none => exact ih t
      | some r =>
        simp only [State.readAt_supervisor]
        cases hx : t.readAt .graceExpiry n r with
        | mk u found =>
          cases found with
          | found m r' =>
            cases hb : r'.body with
            | rated e q =>
              simp only [hb]
              rw [State.toDraft_supervisor, ih]
            | _ =>
              simp only [hb]
              exact ih u
          | _ => exact ih u
  simp only [State.expireGrace, State.setLink_table, each, State.bank_setLink]
  cases bank <;> (repeat' split) <;> rfl

/-- So does taking the switch. -/
theorem State.takeSwitch_supervisor (bank : BankLetter) :
    (s.setLink .supervisor x).takeSwitch bank = (s.takeSwitch bank).setLink .supervisor x := by
  have out (t : State) (l : BankLetter) (grace : Nat) :
      (t.setLink .supervisor x).retireOutgoing l grace = (t.retireOutgoing l grace).setLink .supervisor x := by
    unfold State.retireOutgoing
    dsimp only
    rw [State.bank_setLink]
    cases l <;> (repeat' split) <;> rfl
  unfold State.takeSwitch
  rw [State.bank_setLink]
  split
  · rename_i ed time grace _
    have step : ((s.setLink .supervisor x).setBank bank { s.bank bank with state := .active ed }).retireOutgoing
        (otherBank bank) grace = ((s.setBank bank { s.bank bank with state := .active ed }).retireOutgoing
        (otherBank bank) grace).setLink .supervisor x := by
      rw [← out]
      cases bank <;> rfl
    dsimp only
    rw [step]
    have raised (t : State) (c : Cause) : (t.setLink .supervisor x).raise c = (t.raise c).setLink .supervisor x := rfl
    simp only [raised, State.bank_setLink]
    split
    · exact State.expireGrace_supervisor _ x _
    · rfl
  · rfl

/-! ### What a request's lookup does -/

/-- The handle that finds a record is the handle of its slot. -/
theorem State.handleAt_of_find {h : Handle} {r : Rec} (hf : s.find h = some r) : s.handleAt h.slot = h := by
  unfold State.find at hf
  split at hf
  · split at hf
    · rename_i hg
      show (⟨h.slot, s.generation h.slot⟩ : Handle) = h
      rw [hg]
    · cases hf
  · cases hf

/-- The lookup of a handle whose record fails its check. -/
theorem State.lookupHandle_failing (reader : Reader) {h : Handle} {r : Rec} (hf : s.find h = some r)
    (hs : r.sound = false) :
    s.lookupHandle reader h =
      ((s.damageRecord h.slot r (.record h)).report (.record h) reader, .damaged (.record h)) := by
  simp only [State.lookupHandle, hf]
  rw [State.readAt_failing _ _ _ _ hs, s.handleAt_of_find hf]

/-- The lookup of a serial whose index entry failed before. -/
theorem State.lookupSerial_failed (reader : Reader) {serial : Nat} {e : IndexEntry}
    (hi : s.table.index.get serial = some e) (hf : e.failed = true) :
    s.lookupSerial reader serial = (s, .damaged (.indexEntry serial ((s.carrier serial).map s.handleAt))) := by
  simp [State.lookupSerial, hi, hf]

/-- The lookup of a serial whose index entry fails now. -/
theorem State.lookupSerial_failing (reader : Reader) {serial : Nat} {e : IndexEntry}
    (hi : s.table.index.get serial = some e) (hf : e.failed = false) (hs : e.sound = false) :
    s.lookupSerial reader serial =
      ((s.failIndexEntry reader serial e).1, .damaged (s.failIndexEntry reader serial e).2) := by
  simp [State.lookupSerial, hi, hf, hs]

/-- The lookup of a serial whose index entry passes and whose record fails. -/
theorem State.lookupSerial_record (reader : Reader) {serial : Nat} {e : IndexEntry} {r : Rec}
    (hi : s.table.index.get serial = some e) (hf : e.failed = false) (hs : e.sound = true)
    (hr : s.record e.slot = some r) (hb : r.sound = false) :
    s.lookupSerial reader serial =
      ((s.damageRecord e.slot r (.record (s.handleAt e.slot))).report (.record (s.handleAt e.slot)) reader,
        .damaged (.record (s.handleAt e.slot))) := by
  simp only [State.lookupSerial, hi, hf, hs, hr, if_true, Bool.false_eq_true, if_false]
  exact State.readAt_failing _ _ _ _ hb

/-- A failing index entry that a record carries: kept and marked, the record damaged, the failure reported. -/
theorem State.failIndexEntry_carried (reader : Reader) {serial slot : Nat} (e : IndexEntry) {r : Rec}
    (hc : s.carrier serial = some slot) (hr : s.record slot = some r) :
    s.failIndexEntry reader serial e =
      (((s.putIndex serial { e with failed := true }).damageRecord slot r
        (.indexEntry serial (some (s.handleAt slot)))).report (.indexEntry serial (some (s.handleAt slot))) reader,
        .indexEntry serial (some (s.handleAt slot))) := by
  have hr' : (s.putIndex serial { e with failed := true }).record slot = some r := hr
  simp [State.failIndexEntry, hc, hr']

/-- A failing index entry that no record carries: kept and marked, the failure reported. -/
theorem State.failIndexEntry_alone (reader : Reader) {serial : Nat} (e : IndexEntry) (hc : s.carrier serial = none) :
    s.failIndexEntry reader serial e =
      ((s.putIndex serial { e with failed := true }).report (.indexEntry serial none) reader,
        .indexEntry serial none) := by
  simp [State.failIndexEntry, hc]

/-- A position request on a record that fails its check, whatever its marks (R80, log entry 5). -/
theorem withRecord_failing (p : PositionNo) (items : List Item) (refusing : Rec → Bool)
    (body : Handle → Rec → State → Outcome) {h : Handle} {r : Rec} (hh : handleOf items = some h)
    (hf : s.find h = some r) (hs : r.sound = false) :
    withRecord p items s refusing body =
      ((s.damageRecord h.slot r (.record h)).report (.record h) (.position p)).finish (.position p)
        (.damaged (.record h)) := by
  simp only [withRecord, hh, s.lookupHandle_failing _ hf hs]

/-- Judging twice is judging once. -/
theorem Attention.judge_judge (a : Attention) (c : Conditions) : (a.judge c).judge c = a.judge c := by
  simp [Attention.judge]

/-- Every item a link accepts that its table does not judge is in range, and every required code is there (R189). -/
theorem required_of_accepted {k : Kind} {items : List Item} (h : itemsAccepted k items = true) {c : Nat}
    (hc : c ∈ (itemRule k).required) (hj : judgedByTable k c = false) :
    ∃ i ∈ items, i.code = c ∧ itemInRange k i = true := by
  simp only [itemsAccepted, Bool.and_eq_true, List.all_eq_true] at h
  obtain ⟨⟨⟨⟨hall, hreq⟩, -⟩, -⟩, -⟩ := h
  have hn := hreq c hc
  have : 0 < items.countP fun i => i.code == c := by
    have : codeCount c items ≠ 0 := by simpa using hn
    exact Nat.pos_of_ne_zero this
  obtain ⟨i, hi, he⟩ := List.countP_pos_iff.1 this
  have he : i.code = c := by simpa using he
  refine ⟨i, hi, he, ?_⟩
  have := (hall i hi).1.2
  rw [he, hj] at this
  simpa using this

/-- An accepted SETTLE carries one of the two forms. -/
theorem settleForm_of_accepted {items : List Item} (h : itemsAccepted .settle items = true) :
    settleFormOf items = some 1 ∨ settleFormOf items = some 2 := by
  obtain ⟨i, hi, hc, hr⟩ := required_of_accepted h (c := 0x1E) (by decide) (by decide)
  have found : (settleFormOf items).isSome = true := by
    refine List.findSome?_isSome_iff.2 ⟨i, hi, ?_⟩
    cases i <;> simp_all [Item.code, itemInRange]
  obtain ⟨n, hn⟩ := Option.isSome_iff_exists.1 found
  obtain ⟨j, hj, he⟩ := List.exists_of_findSome?_eq_some hn
  have hr : itemInRange .settle j = true := by
    simp only [itemsAccepted, Bool.and_eq_true, List.all_eq_true] at h
    simpa [judgedByTable] using (h.1.1.1.1 j hj).1.2
  rw [hn]
  cases j <;> simp only [reduceCtorEq, Option.some.injEq] at he
  subst he
  rename_i n
  have hr : 1 ≤ n ∧ n ≤ 2 := by simpa [itemInRange, within] using hr
  rcases Nat.lt_or_ge n 2 with h2 | h2
  · exact .inl (congrArg some (by omega))
  · exact .inr (congrArg some (by omega))

/-- An accepted REWEIGH carries a mass and sides. -/
theorem measures_of_accepted {items : List Item} (h : itemsAccepted .reweigh items = true) :
    (∃ m, massOf items = some m) ∧ ∃ d, sidesOf items = some d := by
  constructor
  · obtain ⟨i, hi, hc, hr⟩ := required_of_accepted h (c := 0x07) (by decide) (by decide)
    refine Option.isSome_iff_exists.1 (List.findSome?_isSome_iff.2 ⟨i, hi, ?_⟩)
    cases i <;> simp_all [Item.code, itemInRange]
  · obtain ⟨i, hi, hc, hr⟩ := required_of_accepted h (c := 0x08) (by decide) (by decide)
    refine Option.isSome_iff_exists.1 (List.findSome?_isSome_iff.2 ⟨i, hi, ?_⟩)
    cases i <;> simp_all [Item.code, itemInRange]

end Sys2Proof.Machine
end

