-- ==== Sys2Proof/Laws/PerInstr.lean ====
section
/-! SUPPORT. The family `RowOf`: which request frame, if any, each command is, and that a well-formed command is the one
its own frame gives. -/
namespace Sys2Proof.Laws.RowOf

/-- The request frame a command is: its kind, header and items; none for a command that is no request frame. -/
def frameOf : Instr → Option (Kind × Header × List Item)
  | .newParcel h items => some (.newParcel, h, items)
  | .setAttributes h items => some (.setAttributes, h, items)
  | .rate h items => some (.rate, h, items)
  | .commit h items => some (.commit, h, items)
  | .printed h items => some (.printed, h, items)
  | .spoilt h items => some (.spoilt, h, items)
  | .query h items => some (.query, h, items)
  | .amendAddOption h items => some (.amend, h, items)
  | .takeOver h items => some (.takeOver, h, items)
  | .void h items => some (.void, h, items)
  | .cancel h items => some (.cancel, h, items)
  | .reweigh h items => some (.reweigh, h, items)
  | .handover h items => some (.handover, h, items)
  | .setTime h items => some (.setTime, h, items)
  | .setTimers h items => some (.setTimers, h, items)
  | .setEnables h items => some (.setEnables, h, items)
  | .acknowledge h items => some (.acknowledge, h, items)
  | .status h items => some (.status, h, items)
  | .openPosition h items => some (.openPosition, h, items)
  | .closePosition h items => some (.closePosition, h, items)
  | .resetPosition h items => some (.resetPosition, h, items)
  | .suspend h items => some (.suspend, h, items)
  | .resume h items => some (.resume, h, items)
  | .grant h items => some (.grant, h, items)
  | .deny h items => some (.deny, h, items)
  | .loadBlock h items => some (.loadBlock, h, items)
  | .bankClear h items => some (.bankClear, h, items)
  | .bankWrite h items => some (.bankWrite, h, items)
  | .bankCopy h items => some (.bankCopy, h, items)
  | .bankVerify h items => some (.bankVerify, h, items)
  | .scheduleSwitch h items => some (.scheduleSwitch, h, items)
  | .unschedule h items => some (.unschedule, h, items)
  | .patchWithdraw h items => some (.patch, h, items)
  | .patchRestore h items => some (.patch, h, items)
  | .patchRegrade h items => some (.patch, h, items)
  | .patchApplied => none
  | .settleAccept h items => some (.settle, h, items)
  | .settleVoid h items => some (.settle, h, items)
  | .querySupervisor h items => some (.querySupervisor, h, items)
  | .voidSupervisor h items => some (.voidSupervisor, h, items)
  | .softReset h items => some (.softReset, h, items)
  | .drainEnd => none
  | .frameDiscarded _ _ => none
  | .unknownRequest _ _ => none
  | .hardReset => none
  | .resetRelease => none
  | .hallTimeTick => none
  | .printDeadlineExpiry _ => none
  | .escalationTimeout _ => none
  | .graceExpiry _ => none
  | .switch => none
  | .grantOfJob => none
  | .rateJobCompletion _ => none
  | .rateOptionCompletion _ => none
  | .rerateReweighCompletion _ => none
  | .discardedJobCompletion _ => none
  | .jobReadFailsCheck _ _ => none

/-- A well-formed command that is a request frame carries the items of some body, and is the command of that frame. -/
def Statement (i : Instr) : Prop :=
  i.wf = true → ∀ f, frameOf i = some f → itemsWf f.2.2 = true ∧ requestCommand f.1 f.2.1 f.2.2 = i

theorem newParcel (h : Header) (items : List Item) : Statement (.newParcel h items) := by
  intro w f hf
  cases hf
  exact ⟨w, rfl⟩

theorem setAttributes (h : Header) (items : List Item) : Statement (.setAttributes h items) := by
  intro w f hf
  cases hf
  exact ⟨w, rfl⟩

theorem rate (h : Header) (items : List Item) : Statement (.rate h items) := by
  intro w f hf
  cases hf
  exact ⟨w, rfl⟩

theorem commit (h : Header) (items : List Item) : Statement (.commit h items) := by
  intro w f hf
  cases hf
  exact ⟨w, rfl⟩

theorem printed (h : Header) (items : List Item) : Statement (.printed h items) := by
  intro w f hf
  cases hf
  exact ⟨w, rfl⟩

theorem spoilt (h : Header) (items : List Item) : Statement (.spoilt h items) := by
  intro w f hf
  cases hf
  exact ⟨w, rfl⟩

theorem query (h : Header) (items : List Item) : Statement (.query h items) := by
  intro w f hf
  cases hf
  exact ⟨w, rfl⟩

theorem amendAddOption (h : Header) (items : List Item) : Statement (.amendAddOption h items) := by
  intro w f hf
  cases hf
  exact ⟨w, rfl⟩

theorem takeOver (h : Header) (items : List Item) : Statement (.takeOver h items) := by
  intro w f hf
  cases hf
  exact ⟨w, rfl⟩

theorem void (h : Header) (items : List Item) : Statement (.void h items) := by
  intro w f hf
  cases hf
  exact ⟨w, rfl⟩

theorem cancel (h : Header) (items : List Item) : Statement (.cancel h items) := by
  intro w f hf
  cases hf
  exact ⟨w, rfl⟩

theorem reweigh (h : Header) (items : List Item) : Statement (.reweigh h items) := by
  intro w f hf
  cases hf
  exact ⟨w, rfl⟩

theorem handover (h : Header) (items : List Item) : Statement (.handover h items) := by
  intro w f hf
  cases hf
  exact ⟨w, rfl⟩

theorem setTime (h : Header) (items : List Item) : Statement (.setTime h items) := by
  intro w f hf
  cases hf
  exact ⟨w, rfl⟩

theorem setTimers (h : Header) (items : List Item) : Statement (.setTimers h items) := by
  intro w f hf
  cases hf
  exact ⟨w, rfl⟩

theorem setEnables (h : Header) (items : List Item) : Statement (.setEnables h items) := by
  intro w f hf
  cases hf
  exact ⟨w, rfl⟩

theorem acknowledge (h : Header) (items : List Item) : Statement (.acknowledge h items) := by
  intro w f hf
  cases hf
  exact ⟨w, rfl⟩

theorem status (h : Header) (items : List Item) : Statement (.status h items) := by
  intro w f hf
  cases hf
  exact ⟨w, rfl⟩

theorem openPosition (h : Header) (items : List Item) : Statement (.openPosition h items) := by
  intro w f hf
  cases hf
  exact ⟨w, rfl⟩

theorem closePosition (h : Header) (items : List Item) : Statement (.closePosition h items) := by
  intro w f hf
  cases hf
  exact ⟨w, rfl⟩

theorem resetPosition (h : Header) (items : List Item) : Statement (.resetPosition h items) := by
  intro w f hf
  cases hf
  exact ⟨w, rfl⟩

theorem suspend (h : Header) (items : List Item) : Statement (.suspend h items) := by
  intro w f hf
  cases hf
  exact ⟨w, rfl⟩

theorem resume (h : Header) (items : List Item) : Statement (.resume h items) := by
  intro w f hf
  cases hf
  exact ⟨w, rfl⟩

theorem grant (h : Header) (items : List Item) : Statement (.grant h items) := by
  intro w f hf
  cases hf
  exact ⟨w, rfl⟩

theorem deny (h : Header) (items : List Item) : Statement (.deny h items) := by
  intro w f hf
  cases hf
  exact ⟨w, rfl⟩

theorem loadBlock (h : Header) (items : List Item) : Statement (.loadBlock h items) := by
  intro w f hf
  cases hf
  exact ⟨w, rfl⟩

theorem bankClear (h : Header) (items : List Item) : Statement (.bankClear h items) := by
  intro w f hf
  cases hf
  exact ⟨w, rfl⟩

theorem bankWrite (h : Header) (items : List Item) : Statement (.bankWrite h items) := by
  intro w f hf
  cases hf
  exact ⟨w, rfl⟩

theorem bankCopy (h : Header) (items : List Item) : Statement (.bankCopy h items) := by
  intro w f hf
  cases hf
  exact ⟨w, rfl⟩

theorem bankVerify (h : Header) (items : List Item) : Statement (.bankVerify h items) := by
  intro w f hf
  cases hf
  exact ⟨w, rfl⟩

theorem scheduleSwitch (h : Header) (items : List Item) : Statement (.scheduleSwitch h items) := by
  intro w f hf
  cases hf
  exact ⟨w, rfl⟩

theorem unschedule (h : Header) (items : List Item) : Statement (.unschedule h items) := by
  intro w f hf
  cases hf
  exact ⟨w, rfl⟩

theorem patchWithdraw (h : Header) (items : List Item) : Statement (.patchWithdraw h items) := by
  intro w f hf
  simp only [Instr.wf, Bool.and_eq_true, beq_iff_eq] at w
  cases hf
  exact w

theorem patchRestore (h : Header) (items : List Item) : Statement (.patchRestore h items) := by
  intro w f hf
  simp only [Instr.wf, Bool.and_eq_true, beq_iff_eq] at w
  cases hf
  exact w

theorem patchRegrade (h : Header) (items : List Item) : Statement (.patchRegrade h items) := by
  intro w f hf
  simp only [Instr.wf, Bool.and_eq_true, beq_iff_eq] at w
  cases hf
  exact w

theorem patchApplied : Statement .patchApplied := by
  intro _ f hf
  cases hf

theorem settleAccept (h : Header) (items : List Item) : Statement (.settleAccept h items) := by
  intro w f hf
  simp only [Instr.wf, Bool.and_eq_true, beq_iff_eq] at w
  cases hf
  exact w

theorem settleVoid (h : Header) (items : List Item) : Statement (.settleVoid h items) := by
  intro w f hf
  simp only [Instr.wf, Bool.and_eq_true, beq_iff_eq] at w
  cases hf
  exact w

theorem querySupervisor (h : Header) (items : List Item) : Statement (.querySupervisor h items) := by
  intro w f hf
  cases hf
  exact ⟨w, rfl⟩

theorem voidSupervisor (h : Header) (items : List Item) : Statement (.voidSupervisor h items) := by
  intro w f hf
  cases hf
  exact ⟨w, rfl⟩

theorem softReset (h : Header) (items : List Item) : Statement (.softReset h items) := by
  intro w f hf
  cases hf
  exact ⟨w, rfl⟩

theorem drainEnd : Statement .drainEnd := by
  intro _ f hf
  cases hf

theorem frameDiscarded (link : Link) (bytes : List Byte) : Statement (.frameDiscarded link bytes) := by
  intro _ f hf
  cases hf

theorem unknownRequest (h : Header) (kind : Byte) : Statement (.unknownRequest h kind) := by
  intro _ f hf
  cases hf

theorem hardReset : Statement .hardReset := by
  intro _ f hf
  cases hf

theorem resetRelease : Statement .resetRelease := by
  intro _ f hf
  cases hf

theorem hallTimeTick : Statement .hallTimeTick := by
  intro _ f hf
  cases hf

theorem printDeadlineExpiry (slot : Nat) : Statement (.printDeadlineExpiry slot) := by
  intro _ f hf
  cases hf

theorem escalationTimeout (p : PositionNo) : Statement (.escalationTimeout p) := by
  intro _ f hf
  cases hf

theorem graceExpiry (bank : BankLetter) : Statement (.graceExpiry bank) := by
  intro _ f hf
  cases hf

theorem switch : Statement .switch := by
  intro _ f hf
  cases hf

theorem grantOfJob : Statement .grantOfJob := by
  intro _ f hf
  cases hf

theorem rateJobCompletion (u : UnitNo) : Statement (.rateJobCompletion u) := by
  intro _ f hf
  cases hf

theorem rateOptionCompletion (u : UnitNo) : Statement (.rateOptionCompletion u) := by
  intro _ f hf
  cases hf

theorem rerateReweighCompletion (u : UnitNo) : Statement (.rerateReweighCompletion u) := by
  intro _ f hf
  cases hf

theorem discardedJobCompletion (u : UnitNo) : Statement (.discardedJobCompletion u) := by
  intro _ f hf
  cases hf

theorem jobReadFailsCheck (u : UnitNo) (entry : BankEntry) : Statement (.jobReadFailsCheck u entry) := by
  intro _ f hf
  cases hf

end Sys2Proof.Laws.RowOf
end

