-- ==== Sys2Proof/Laws/Reads.lean ====
section
/-! SUPPORT. What the reads of running jobs can do (R47): a reading unit's job keeps all but the reads it has made, and
with no other job running on the bank nothing happens. -/
namespace Sys2Proof.Machine

variable (s : State)

/-- A unit that reads ahead keeps its job but for the reads made. -/
theorem readAhead_unit (l : BankLetter) (e : BankEntry) (own : Option UnitNo) (u w : UnitNo) :
    ∃ seen : Job → List JobRead,
      (readAhead l e own s u).unit w = (s.unit w).map fun j => { j with seen := seen j } := by
  have same : ∃ seen : Job → List JobRead, s.unit w = (s.unit w).map fun j => { j with seen := seen j } :=
    ⟨Job.seen, by cases s.unit w <;> rfl⟩
  unfold readAhead
  split
  · exact same
  · rename_i j hj
    split
    · by_cases h : u = w
      · subst h
        exact ⟨fun _ => _, by
          rw [hj]
          show (State.setUnit s u _).unit u = _
          rw [State.unit_setUnit]
          rfl⟩
      · obtain ⟨seen, hs⟩ := same
        refine ⟨seen, ?_⟩
        show (State.setUnit s u _).unit w = _
        rw [State.unit_setUnit_other s u w _ h]
        exact hs
    · exact same

/-- Reading ahead in turn keeps each job but for the reads made. -/
theorem readAheadEach_unit (l : BankLetter) (e : BankEntry) (own : Option UnitNo) (w : UnitNo) (us : List UnitNo) :
    ∃ seen : Job → List JobRead,
      (us.foldl (readAhead l e own) s).unit w = (s.unit w).map fun j => { j with seen := seen j } := by
  induction us generalizing s with
  | nil => exact ⟨Job.seen, by cases h : s.unit w <;> simp [h]⟩
  | cons u rest ih =>
    obtain ⟨f, hf⟩ := ih (readAhead l e own s u)
    obtain ⟨g, hg⟩ := readAhead_unit s l e own u w
    refine ⟨fun j => f { j with seen := g j }, ?_⟩
    rw [List.foldl_cons, hf, hg]
    cases s.unit w <;> rfl

/-- Before an entry is disturbed or marked, each running job keeps all but the reads it has made. -/
theorem State.jobsReadOn_unit (l : BankLetter) (e : BankEntry) (own : Option UnitNo) (w : UnitNo) :
    ∃ seen : Job → List JobRead,
      (s.jobsReadOn l e own).unit w = (s.unit w).map fun j => { j with seen := seen j } :=
  readAheadEach_unit s l e own w _

/-- A unit reads nothing ahead where it is the reader itself or runs no job on the bank. -/
theorem readAhead_eq (l : BankLetter) (e : BankEntry) (own : Option UnitNo) (u : UnitNo)
    (h : own = some u ∨ ∀ j, s.unit u = some j → j.bank ≠ l) : readAhead l e own s u = s := by
  unfold readAhead
  split
  · rfl
  · rename_i j hj
    rcases h with h | h
    · simp [h]
    · simp [h j hj]

/-- With no job of another unit running on the bank nothing happens. -/
theorem State.jobsReadOn_eq (l : BankLetter) (e : BankEntry) (own : Option UnitNo)
    (h : ∀ u j, own ≠ some u → s.unit u = some j → j.bank ≠ l) : s.jobsReadOn l e own = s := by
  have each (u : UnitNo) : readAhead l e own s u = s :=
    readAhead_eq s l e own u (Decidable.or_iff_not_imp_left.2 fun ho => fun j hj => h u j ho hj)
  simp [State.jobsReadOn, each]

/-- With no job of another unit running on the bank, a failing read marks the entry and is reported. -/
theorem State.failBankEntry_eq (l : BankLetter) (e : BankEntry) (reader : Reader) (own : Option UnitNo)
    (h : ∀ u j, own ≠ some u → s.unit u = some j → j.bank ≠ l) :
    s.failBankEntry l e reader own = (s.setBank l ((s.bank l).damage e)).report (.bankEntry l e) reader := by
  simp only [State.failBankEntry, State.jobsReadOn_eq s l e own h]

end Sys2Proof.Machine
end

