-- ==== Sys2Proof/Tests/Slice0.lean ====
section
/-! SUPPORT. Tests: ill-formed commands that `Instr.wf` refuses, small steps of the commands, and for every statement
with hypotheses a state and operands that meet them, each clause on its own. -/
namespace Sys2Proof.Tests
open Sys2Proof.Machine

/-! ### Small states -/

def p0 : PositionNo := 0
def p1 : PositionNo := 1
def hp : Header := ⟨.position p0, 7⟩
def hs : Header := ⟨.supervisor, 7⟩
def hd : Header := ⟨.dispatch, 7⟩

/-- The outcome is exactly this next state. -/
def yields (o : Outcome) (t : State) : Bool :=
  match o with
  | .next u => decide (u = t)
  | _ => false

/-- The outcome is a next state with a property. -/
def goesTo (o : Outcome) (p : State → Bool) : Bool :=
  match o with
  | .next u => p u
  | _ => false

/-- The answers a step adds. -/
def answersOf (o : Outcome) : List Answer :=
  match o with
  | .next u => u.answers.map (·.answer)
  | _ => []

/-- A reading stops with this. -/
def failsWith {ε α : Type} [DecidableEq ε] (x : Except ε α) (e : ε) : Bool :=
  match x with
  | .error w => decide (w = e)
  | .ok _ => false

/-- Twelve equal prices. -/
def prices (n : Nat) : List Nat := [n, n, n, n, n, n, n, n, n, n, n, n]

/-- A descriptor stored and present. -/
def slotOf (d : Descriptor) : SlotCell := ⟨d, true, false, true⟩

/-- Code 100 is a volumetric service with a 10 per cent surcharge; code 101 an option of 50. -/
def tariff : Bank := { Bank.cleared with
  state := .active 1
  segments := ⟨[(0, ⟨some ⟨100, 101, ⟨.n, 1⟩, none⟩, false, true⟩)]⟩
  zones := ⟨[(0, ⟨some ⟨0, 10999, 1, 7⟩, false, true⟩)]⟩
  nLimit := 5
  nSlots := ⟨[(1, slotOf (.service ⟨2, (65, 66), .both, true, false, ⟨.n, 4⟩, [⟨.n, 3⟩]⟩)),
    (2, slotOf (.surcharge ⟨3, .zone, .always, 0, .fixed 50⟩)),
    (3, slotOf (.surcharge ⟨3, .chargeableMass, .above, 100, .perMille 100⟩)),
    (4, slotOf (.rate [⟨1000, prices 200⟩, ⟨40000, prices 500⟩]))]⟩ }

/-- The tariff with its service flagged for customs and a threshold of 100. -/
def customsTariff : Bank := { tariff with
  parameters := ⟨0, 0, 100⟩
  nSlots := tariff.nSlots.insert 1 (slotOf (.service ⟨2, (65, 66), .both, true, true, ⟨.n, 4⟩, []⟩)) }

/-- The reset state with the tariff ACTIVE in bank A. -/
def on : State := { State.reset with bankA := tariff }

/-- Position 1 opened with a session grade and an enable. -/
def openWith (s : State) (grade : Nat) (enable : Bool) (res : Option Reservation) : State :=
  s.setCtx p0 (.opened ⟨grade, enable⟩ res)

/-- The reset state with the tariff and position 1 OPEN at session grade 2. -/
def base : State := openWith on 2 true none

def parcel : Entered := ⟨0, some 100, some 5, some 500, some ⟨100, 100, 100⟩, some 200, none, []⟩
def paid : Quote := ⟨.a, 1, 1, 500, 1, 200, [⟨⟨.n, 3⟩, 20⟩], 220⟩
def lab : Label := ⟨(65, 66), 7300498, 0, 7, 0⟩
def part : ReweighPart := ⟨900, ⟨100, 100, 100⟩, .held, some 40⟩
def h5 : Handle := ⟨5, 1⟩

def draftBody : RecordBody := .draft parcel
def ratedBody : RecordBody := .rated parcel paid
def printBody (d : Nat) : RecordBody := .printing parcel paid lab d
def labelBody : RecordBody := .labelled parcel paid lab 0 none
def heldBody : RecordBody := .held parcel paid lab 0 part .underpaid

/-- A record of position 1 without marks. -/
def recOf (b : RecordBody) : Rec := ⟨p0, 3, false, false, true, b⟩

/-- A record in slot 5, its serial indexed and its bank's pin counted. -/
def put (s : State) (r : Rec) : State :=
  let s := s.putRecord 5 r
  let s := match r.body.label with
    | some l => s.putIndex l.serial ⟨5, false, true⟩
    | none => s
  match r.body.pin with
  | some l => s.takePin l
  | none => s

/-- A record without marks of the given body in slot 5. -/
def holding (b : RecordBody) : State := put base (recOf b)

/-- A pool of two blocks, the head one at its last serial. -/
def stocked (s : State) : State := { s with pool := ⟨[⟨100, 110, 110⟩, ⟨200, 210, 200⟩], 500⟩ }

/-- Position 1 WORKING on a request. -/
def working (s : State) (k : HeldKind) (kind : Kind) (enable : Bool) : State :=
  (s.setCtx p0 (.working ⟨2, enable⟩ false none ⟨k, 9, [.handle 5 1], none⟩)).hold (.position p0) kind 9

/-- The job of an entry on unit 1. -/
def jobOf (k : JobKind) (r : Requester) (v : JobValues) (eg : Nat) : Job := ⟨⟨k, h5, r, eg⟩, .a, 1, false, v, [], none⟩

def rateValues : JobValues := .parcel ⟨some 500, some ⟨100, 100, 100⟩, some 5, some 100, some 200, none, []⟩
def rateJob (eg : Nat) : Job := jobOf .rate (.position p0) rateValues eg
def optionJob : Job := jobOf (.rateOption 101) (.position p0) (.option ⟨101, ⟨100, 100, 100⟩, none, 500, 1, 200, 220, 0⟩) 2
def rerateJob (mass : Nat) : Job := jobOf (.rerateReweigh mass ⟨100, 100, 100⟩) .dispatch
  (.parcel ⟨some mass, some ⟨100, 100, 100⟩, some 5, some 100, some 200, none, []⟩) 0

/-- A unit runs a job on the busy record in slot 5. -/
def busyWith (s : State) (j : Job) (b : RecordBody) : State :=
  ((put s { recOf b with busy := true }).setUnit 0 (some j)).takePin .a

/-- RATE of position 1 running. -/
def rating (eg : Nat) (enable : Bool) : State := busyWith (working on .rate .rate enable) (rateJob eg) draftBody

/-- RATE of position 1 queued. -/
def queued : State :=
  { put (working on .rate .rate true) { recOf draftBody with queued := true } with
    queue := [⟨.rate, h5, .position p0, 2⟩] }

/-- An escalated COMMIT of position 1. -/
def escalated (needed remaining : Nat) : State :=
  ((put on (recOf ratedBody)).setCtx p0
    (.escalated ⟨2, true⟩ ⟨⟨.commit, 9, [.handle 5 1], none⟩, needed, remaining⟩)).hold (.position p0) .commit 9

/-- The part HALTED. -/
def halt (s : State) : State := { s with integrity := { s.integrity with state := .halted } }

/-- A re-rating running. -/
def rerating (mass : Nat) : State :=
  { (busyWith on (rerateJob mass) labelBody).hold .dispatch .reweigh 9 with
    pendingReweigh := some ⟨h5, 7300498, mass, ⟨100, 100, 100⟩, mass, 500⟩ }

/-- Bank B in a state. -/
def bankBIn (s : State) (st : BankState) : State := { s with bankB := { tariff with state := st } }

/-- The alert enable set, no report yet. -/
def alerting (s : State) : State := { s with integrity := ⟨.normal, true, 0, []⟩ }

/-- The record in slot 5 disturbed, the alert enable set. -/
def upset (s : State) : State := (alerting s).upsetRecord 5

def at0 : List Item := [.position 1]
def its : List Item := [.handle 5 1]
def weigh (mass : Nat) : List Item := [.serial 7300498, .mass mass, .sides 100 100 100]

/-! ### Well-formed commands -/

/-- One ill-formed command for each check of `Instr.wf`, and a well-formed neighbour of each. -/
theorem test_wf_items :
    Instr.wf (.setTime hs [.hallTime 4294967295]) = true ∧ Instr.wf (.setTime hs [.hallTime 4294967296]) = false ∧
    Instr.wf (.grant hs [.position 1, .grade 255]) = true ∧ Instr.wf (.grant hs [.position 256, .grade 0]) = false ∧
    Instr.wf (.query hp [.handle 65535 0]) = true ∧ Instr.wf (.query hp [.handle 65536 0]) = false ∧
    Instr.wf (.bankWrite hs [.listBand 9 (prices 0)]) = true ∧ Instr.wf (.bankWrite hs [.listBand 9 [1]]) = false ∧
    Instr.wf (.bankWrite hs [.descriptorHead 78 1 3 [1]]) = true ∧
    Instr.wf (.bankWrite hs [.descriptorHead 78 1 3 []]) = false ∧
    Instr.wf (.status hs [.raw 0x77 [1]]) = true ∧ Instr.wf (.status hs [.raw 0x1F [1]]) = false := by
  decide +kernel

theorem test_wf_body :
    Instr.wf (.status hs [.cut [0x1F, 2, 1]]) = true ∧ Instr.wf (.status hs [.cut [0x1F, 1, 1]]) = false ∧
    Instr.wf (.status hs [.cut [0x1F], .reserve]) = false ∧
    Instr.wf (.status hs (List.replicate 512 .reserve)) = true ∧
    Instr.wf (.status hs (List.replicate 513 .reserve)) = false := by
  decide +kernel

theorem test_wf_rows :
    Instr.wf (.patchRestore hs [.patchChange 2 0]) = true ∧ Instr.wf (.patchRestore hs [.patchChange 1 0]) = false ∧
    Instr.wf (.patchWithdraw hs [.patchChange 1 0]) = true ∧ Instr.wf (.patchWithdraw hs [.patchChange 3 0]) = false ∧
    Instr.wf (.patchRegrade hs [.patchChange 3 1]) = true ∧ Instr.wf (.patchRegrade hs []) = false ∧
    Instr.wf (.settleAccept hs [.settleForm 1]) = true ∧ Instr.wf (.settleAccept hs [.settleForm 2]) = false ∧
    Instr.wf (.settleVoid hs [.settleForm 2]) = true ∧ Instr.wf (.settleVoid hs [.settleForm 1]) = false := by
  decide +kernel

theorem test_wf_events :
    Instr.wf (.unknownRequest hs 0x59) = true ∧ Instr.wf (.unknownRequest hs 0x58) = false ∧
    Instr.wf (.printDeadlineExpiry 4095) = true ∧ Instr.wf (.printDeadlineExpiry 4096) = false ∧
    Instr.wf (.jobReadFailsCheck 0 (.segment 31)) = true ∧ Instr.wf (.jobReadFailsCheck 0 (.segment 32)) = false ∧
    Instr.wf (.jobReadFailsCheck 0 (.slot ⟨.h, 256⟩)) = false ∧
    Instr.wf (.jobReadFailsCheck 0 (.slot ⟨.n, 1024⟩)) = false ∧
    Instr.wf (.jobReadFailsCheck 0 (.place 256)) = false ∧
    Instr.wf (.frameDiscarded .supervisor [0xC3, 1, 0, 0, 4, 1]) = true ∧
    Instr.wf (.frameDiscarded .supervisor [0xC2]) = false := by
  decide +kernel

/-! ### The machine, links and frames -/

theorem test_step : State.reset.pending = [] ∧ ({ on with pending := [.switch] } : State).pending = [.switch] := by
  decide

/-- In states that the rules exclude a command goes on too: a WORKING position whose link is free is BUSY; a grant without an
ACTIVE bank leaves the state; a job whose record is gone, or is DRAFT where it needs LABELLED, ends with an answer. -/
theorem test_excludedStates :
    answersOf (exec (.query hp its) (base.setCtx p0 (.working ⟨2, true⟩ false none ⟨.rate, 9, its, none⟩))) = [.busy] ∧
    yields (exec .grantOfJob { queued with bankA := .cleared }) { queued with bankA := .cleared } = true ∧
    answersOf (exec .grantOfJob (queued.freeSlot 5)) = [.noRecord] ∧
    answersOf (exec .grantOfJob (queued.putRecord 5 { recOf (.damaged none) with queued := true })) =
      [.damaged (.record h5)] ∧
    answersOf (exec (.rateJobCompletion 0) ((rating 2 true).freeSlot 5)) = [.noRecord] ∧
    goesTo (exec (.rateJobCompletion 0) ((rating 2 true).putRecord 5 { recOf labelBody with busy := true })) (fun t =>
      t.answers.map (·.answer) == [.wrongState] && t.unit 0 == none && t.record 5 == some (recOf labelBody)) = true := by
  decide +kernel

theorem test_hardReset : ({ base with resetAsserted := true } : State).resetAsserted = true ∧
    goesTo (exec .hardReset base) (fun t => t.resetAsserted && t.bankA == .cleared) = true ∧
    yields (exec .resetRelease { base with resetAsserted := true }) State.reset = true ∧
    yields (exec .resetRelease base) base = true := by decide +kernel

theorem test_link : base.resetAsserted = false ∧
    sortOf hs.link ≠ linkSort .rate ∧
    (sortOf hp.link = linkSort .rate ∧ (queued.link hp.link).outstanding ≠ none ∧ Kind.rate ≠ .cancel) ∧
    (sortOf hp.link = linkSort .rate ∧ (base.link hp.link).outstanding = none ∧ itemsAccepted .rate [] = false) ∧
    (sortOf hp.link = linkSort .cancel ∧ itemsAccepted .cancel its = false) ∧
    answersOf (exec (.rate hs its) base) = [.notOnThisLink] ∧
    answersOf (exec (.rate hp its) queued) = [.busy] ∧
    answersOf (exec (.rate hp []) base) = [.malformed] := by decide +kernel

/-- Items the link takes and refuses: one missing, one not permitted, one twice, one out of range, one of a wrong length,
both or none of a "one of" group, none of a "one or more of" group, a list entry without its head, a cut body. -/
theorem test_items :
    itemsAccepted .amend (its ++ [.optionCode 999, .statedGrade 3]) = true ∧ itemsAccepted .amend its = false ∧
    itemsAccepted .amend (its ++ [.optionCode 999, .reserve]) = false ∧
    itemsAccepted .amend (its ++ its ++ [.optionCode 999]) = false ∧
    itemsAccepted .amend (its ++ [.optionCode 1000]) = false ∧ itemsAccepted .amend (its ++ [.raw 0x0D [1]]) = false ∧
    itemsAccepted .settle [.settleForm 2, .serial 0] = true ∧ itemsAccepted .settle [.settleForm 2] = false ∧
    itemsAccepted .settle (its ++ [.settleForm 2, .serial 0]) = false ∧
    itemsAccepted .setTimers [.lowStock 0] = true ∧ itemsAccepted .setTimers [] = false ∧
    itemsAccepted .bankWrite [.bankLetter 65, .descriptorHead 78 1 3 [1], .listBand 9 [], .listBand 9 []] = true ∧
    itemsAccepted .bankWrite [.bankLetter 65, .descriptorHead 78 1 3 [1], .listSelector 78 1] = false ∧
    itemsAccepted .setAttributes (its ++ [.mass 0, .mass 0, .raw 0x05 []]) = true ∧
    itemsAccepted .setAttributes (its ++ [.cut [5]]) = false := by decide +kernel

theorem test_unknownKind : (∀ k : Kind, k.code ≠ 0x59) ∧
    frameCommand .supervisor 0x59 7 [] = .unknownRequest hs 0x59 ∧
    answersOf (exec (.unknownRequest hs 0x59) base) = [.unknownRequest] :=
  ⟨fun k => by cases k <;> decide, by decide, by decide +kernel⟩

/-- A body one byte too long is discarded at its length; one at the greatest length is awaited; a frame with a wrong
check byte is discarded; a right one passes. -/
theorem test_receiver :
    1024 < natOfBytes [0x04, 0x01] ∧ natOfBytes [0x04, 0x00] ≤ 1024 ∧
    readFrame [1, 0, 7, 4, 1] = .discarded ∧ readFrame [1, 0, 7, 4, 0] = .incomplete ∧
    readFrame [1, 0, 7, 0, 0, 8, 26, 9] = .frame 1 7 [] [9] ∧ readFrame [1, 0, 7, 0, 0, 8, 25] = .discarded ∧
    (scanBytes .supervisor 9 [0, 0xC3, 1, 0, 7, 0, 0, 8, 25]).1 =
      [.frameDiscarded .supervisor [0xC3, 1, 0, 7, 0, 0, 8, 25]] ∧
    yields (exec (.frameDiscarded .supervisor [0xC3, 1, 0, 7, 0, 0, 8, 25]) base) base = true := by decide +kernel

theorem test_frameBytes : itemsWf its = true ∧ base.resetAsserted = false ∧ (base.link .supervisor).received = [] ∧
    base.receive .supervisor (frameBytes Kind.querySupervisor.code 7 (bodyOf its)) =
      { base with pending := [.querySupervisor hs its] } := by decide +kernel

theorem test_answer : (queued.link (.position p0)).outstanding = some ⟨.rate, 9⟩ := by decide +kernel

/-- The answer's items: the outcome item, then the content; a CLEAR carries its verdict, a FAULT its eight bytes. -/
theorem test_answerItems :
    Answer.items .busy = [⟨0x40, [16]⟩] ∧ Answer.items (.done (.parcel h5)) = [⟨0x40, [1]⟩, ⟨0x01, [0, 5, 1]⟩] ∧
    ((Answer.items (.clear ⟨h5, 7300498, .agreed, 500, 500, none, 4⟩))[3]?).map (·.value) = some [1] ∧
    Answer.items (.fault ⟨.grade, .selector ⟨.n, 258⟩, some (2, 3)⟩) =
      [⟨0x40, [31]⟩, ⟨0x41, [9, 1, 0x4E, 1, 2, 0, 2, 3]⟩] ∧
    (⟨.position p0, 7, 0x83, .busy⟩ : AnswerFrame).bytes = frameBytes 0x83 7 [0x40, 1, 16] := by decide +kernel

/-- The EG of a queue entry and the remaining escalation time of a save slot have four bytes each. -/
theorem test_wideFields :
    queued.queue.map (fun e => e.item.value) = [[1, 0, 5, 1, 1, 0, 0, 0, 2]] ∧
    (⟨.commit, 9, 1, 300⟩ : SlotStatus).bytes = [4, 0, 9, 1, 0, 0, 1, 44] ∧
    (PositionStatus.item ⟨.escalated, some ⟨2, true⟩, false, false, some ⟨.commit, 9, 1, 300⟩, none⟩).value =
      [3, 2, 1, 0, 0, 4, 0, 9, 1, 0, 0, 1, 44] := by decide +kernel

/-- The label number of the manual's worked example, with its leading zeros, and one with the check character X. -/
theorem test_labelNumber :
    lab.number = [65, 66, 48, 48, 55, 51, 48, 48, 52, 57, 56, 48] ∧
    (⟨(65, 66), 110, 10, 7, 0⟩ : Label).number.getLast? = some 88 ∧
    (0 * 100000000 + 0 * 10000000 + 7 * 1000000 + 3 * 100000 + 0 * 10000 + 0 * 1000 + 4 * 100 + 9 * 10 + 8 =
      lab.serial) := by decide +kernel

/-- RECORD has one byte more where a position's QUERY reserved, and one less where it did not. -/
theorem test_recordItems :
    ((Answer.items (.record ⟨h5, p0, 3, false, false, .damaged none⟩ false))[1]?).map (·.value) =
      some [0, 5, 1, 6, 1, 0, 0, 0, 3, 0, 0] ∧
    ((Answer.items (.record ⟨h5, p0, 3, false, false, .damaged none⟩ true))[1]?).map (·.value) =
      some [0, 5, 1, 6, 1, 0, 0, 0, 3, 0, 0, 1] := by decide +kernel

theorem test_halted : (halt base).halted = true ∧ (halt base).Admits .setTime .supervisor [.hallTime 1] ∧
    (halt queued).resetAsserted = false ∧ sortOf (.position p0) = linkSort .cancel ∧
    itemsAccepted .cancel [] = true ∧ isReset .switch = false ∧
    answersOf (exec (.setTime hs [.hallTime 1]) (halt base)) = [.halted] ∧
    answersOf (exec (.cancel hp []) (halt queued)) = [.halted] ∧
    yields (exec .grantOfJob (halt queued)) (halt queued) = true := by decide +kernel

/-! ### Positions -/

theorem test_gate : linkSort .query = .position ∧ itemsAccepted .query its = true ∧ on.ctx p0 = .closed ∧
    (on.link (.position p0)).outstanding = none ∧
    (on.setCtx p0 (.suspended ⟨2, true⟩ .opened)).ctx p0 = .suspended ⟨2, true⟩ .opened ∧
    answersOf (exec (.query hp its) on) = [.positionClosed] ∧
    answersOf (exec (.cancel hp []) (on.setCtx p0 (.suspended ⟨2, true⟩ .opened))) = [.suspended] := by decide +kernel

theorem test_openClose : on.Serves .openPosition .supervisor [.position 24, .grade 3, .escalationEnable 0] ∧
    positionOf [.position 24] = some 23 ∧ on.ctx 23 = .closed ∧ base.ctx p0 = .opened ⟨2, true⟩ none ∧
    base.Serves .closePosition .supervisor at0 ∧ positionOf at0 = some p0 ∧ base.RecordsSound ∧
    ((holding (printBody 9)).RecordsSound ∧ ∃ c ∈ (holding (printBody 9)).table.records.cells,
      c.2.owner = p0 ∧ c.2.body.isPrinting = true) ∧
    yields (exec (.openPosition hs [.position 24, .grade 3, .escalationEnable 0]) on)
      ((on.setCtx 23 (.opened ⟨3, false⟩ none)).send .supervisor 7 0x46 (.done .plain)).judge = true ∧
    answersOf (exec (.openPosition hs [.position 1, .grade 3, .escalationEnable 1]) base) = [.wrongState] ∧
    goesTo (exec (.closePosition hs at0) base) (fun t => t.ctx p0 == .closed) = true ∧
    answersOf (exec (.closePosition hs at0) (holding (printBody 9))) = [.notIdle] ∧
    answersOf (exec (.closePosition hs at0) queued) = [.notIdle] ∧
    answersOf (exec (.closePosition hs at0) on) = [.wrongState] := by decide +kernel

/-- CLOSE POSITION reads every live record: a failing PRINTING one is damaged, reported by the supervisor and not counted; one
that passes beside it is. -/
theorem test_closePositionReads :
    (let s := upset (holding (printBody 9))
     let both := s.putRecord 6 (recOf (printBody 9))
     s.Serves .closePosition .supervisor at0 ∧ s.ctx p0 = .opened ⟨2, true⟩ none ∧ s.canonical = true ∧ both.canonical = true ∧
       (∀ c ∈ s.table.records.cells, c.2.sound = true → c.2.owner = p0 → c.2.body.isPrinting = false) ∧
       (∃ c ∈ both.table.records.cells, c.2.sound = true ∧ c.2.owner = p0 ∧ c.2.body.isPrinting = true) ∧
       answersOf (exec (.closePosition hs at0) s) = [.done .plain] ∧
       goesTo (exec (.closePosition hs at0) s) (fun t => t.ctx p0 == .closed &&
         t.integrity.log == [⟨.record h5, .supervisor, 0, 1, .alert⟩] &&
         t.record 5 == some { recOf (.damaged (some lab)) with changeCount := 4 }) = true ∧
       answersOf (exec (.closePosition hs at0) both) = [.notIdle] ∧
       goesTo (exec (.closePosition hs at0) both) (fun t => t.ctx p0 == .opened ⟨2, true⟩ none &&
         t.integrity.reportCount == 1) = true) := by decide +kernel

theorem test_resetPosition : queued.Serves .resetPosition .supervisor at0 ∧ queued.ctx p0 ≠ .closed ∧
    on.ctx p0 = .closed ∧
    answersOf (exec (.resetPosition hs at0) queued) = [.reset, .done .plain] ∧
    goesTo (exec (.resetPosition hs at0) queued) (fun t =>
      t.queue == [] && t.record 5 == some (recOf draftBody) && t.ctx p0 == .closed) = true ∧
    goesTo (exec (.resetPosition hs at0) (rating 2 true)) (fun t => (t.unit 0).any (·.discarded)) = true ∧
    answersOf (exec (.resetPosition hs at0) on) = [.done .plain] := by decide +kernel

theorem test_denyTimeout : (escalated 1 9).Admits .deny .supervisor at0 ∧
    (halt (escalated 1 9)).Admits .deny .supervisor at0 ∧ (halt (escalated 1 9)).halted = true ∧
    (escalated 1 9).Live ∧ (escalated 1 0).Live ∧
    (escalated 1 0).ctx p0 = .escalated ⟨2, true⟩ ⟨⟨.commit, 9, [.handle 5 1], none⟩, 1, 0⟩ ∧
    answersOf (exec (.deny hs at0) (halt (escalated 1 9))) = [.halted] ∧
    answersOf (exec (.deny hs at0) (base.setCtx p0 (.suspended ⟨2, true⟩ .opened))) = [.suspended] ∧
    answersOf (exec (.deny hs at0) base) = [.wrongState] ∧
    yields (exec (.deny hs at0) (escalated 1 9))
      ((((escalated 1 9).answer (.position p0) .denied).setCtx p0 (.opened ⟨2, true⟩ none)).judge.send .supervisor 7 0x4C
        (.done .plain)) = true ∧
    answersOf (exec (.escalationTimeout p0) (escalated 1 0)) = [.timedOut] ∧
    yields (exec (.escalationTimeout p0) (escalated 1 1)) (escalated 1 1) = true := by decide +kernel

theorem test_cancel : queued.resetAsserted = false ∧ queued.halted = false ∧ itemsAccepted .cancel [] = true ∧
    queued.entryOf (.position p0) = some ⟨.rate, h5, .position p0, 2⟩ ∧
    (∀ e ∈ (rating 2 true).queue, e.requester ≠ .position p0) ∧
    answersOf (exec (.cancel hp []) base) = [.wrongState] ∧
    answersOf (exec (.cancel hp []) (rating 2 true)) = [.busy] ∧
    answersOf (exec (.cancel hp []) queued) = [.cancelled, .done .plain] ∧
    answersOf (exec (.cancel hp []) (escalated 1 9)) = [.cancelled, .done .plain] := by decide +kernel

theorem test_suspendResume : base.Serves .suspend .supervisor at0 ∧ base.Serves .resume .supervisor at0 ∧
    goesTo (exec (.suspend hs at0) base) (fun t => t.ctx p0 == .suspended ⟨2, true⟩ .opened) = true ∧
    goesTo (exec (.suspend hs at0) (escalated 1 1)) (fun t => (t.ctx p0).status.critical == some .escalated) = true ∧
    goesTo (exec (.suspend hs at0) queued) (fun t => (t.ctx p0).status.suspendPending) = true ∧
    answersOf (exec (.suspend hs at0) on) = [.wrongState] ∧
    goesTo (exec (.resume hs at0) (base.setCtx p0 (.suspended ⟨2, true⟩ .opened))) (fun t => decide (t = base.send
      .supervisor 7 0x4A (.done .plain))) = true ∧
    goesTo (exec (.resume hs at0) (on.setCtx p0 (.suspended ⟨2, true⟩ (.escalated ⟨⟨.void, 9, its, none⟩, 1, 4⟩))))
      (fun t => (t.ctx p0).isEscalated && t.attention.pending.escalation) = true ∧
    goesTo (exec (.resume hs at0) (queued.setCtx p0 (.working ⟨2, true⟩ true none ⟨.rate, 9, its, none⟩)))
      (fun t => !(t.ctx p0).status.suspendPending) = true ∧
    answersOf (exec (.resume hs at0) base) = [.wrongState] := by decide +kernel

/-- A COMMIT escalated above grade 1 goes on at a GRANT of grade 1; a saved RATE is queued at the granted grade. -/
theorem test_grant : (escalated 1 9).Serves .grant .supervisor [.position 1, .grade 1] ∧
    gradeOf [.position 1, .grade 1] = some 1 ∧
    answersOf (exec (.grant hs [.position 1, .grade 2]) (escalated 1 9)) = [.malformed] ∧
    answersOf (exec (.grant hs [.position 1, .grade 1]) base) = [.wrongState] ∧
    answersOf (exec (.grant hs [.position 1, .grade 1]) (base.setCtx p0 (.suspended ⟨2, true⟩ .opened))) =
      [.suspended] ∧
    answersOf (exec (.grant hs [.position 1, .grade 1]) (escalated 1 9)) = [.noNumbers, .done .plain] ∧
    goesTo (exec (.grant hs [.position 1, .grade 0]) ((put on (recOf draftBody)).setCtx p0 (.escalated ⟨2, true⟩
        ⟨⟨.rate, 9, its, none⟩, 1, 3⟩)))
      (fun t => t.queue == [⟨.rate, h5, .position p0, 0⟩] && t.ctx p0 == .working ⟨2, true⟩ false none
        ⟨.rate, 9, its, none⟩) = true ∧
    ((put on (recOf draftBody)).Finds h5 (recOf draftBody) ∧ on.activeBank ≠ none ∧ on.draining = false) ∧
    commitRequest p0 ⟨2, true⟩ 1 9 its (((escalated 1 9).hold .supervisor .grant 7).setCtx p0 (.opened ⟨2, true⟩ none)) =
      .next ((((escalated 1 9).hold .supervisor .grant 7).setCtx p0 (.opened ⟨2, true⟩ none)).answer (.position p0)
        .noNumbers) :=
  ⟨by decide +kernel, by decide +kernel, by decide +kernel, by decide +kernel, by decide +kernel, by decide +kernel,
    by decide +kernel, by decide +kernel, rfl⟩

/-! ### Records -/

/-- A RATE of position 1 escalated, its record as given. -/
def escalatedRate (s : State) : State :=
  (s.setCtx p0 (.escalated ⟨2, true⟩ ⟨⟨.rate, 9, its, none⟩, 1, 3⟩)).hold (.position p0) .rate 9

/-- A saved RATE refused at its re-execution: no record, a mark, a DAMAGED record, another owner, a state, no edition, a
drain; the position OPEN each time. -/
theorem test_grantRateRefused :
    (let grant (s : State) := exec (.grant hs [.position 1, .grade 1]) (escalatedRate s)
     let draft := put on (recOf draftBody)
     (escalatedRate draft).Serves .grant .supervisor [.position 1, .grade 1] ∧ (escalatedRate on).find h5 = none ∧
       (escalatedRate draft).Finds h5 (recOf draftBody) ∧
       answersOf (grant on) = [.noRecord, .done .plain] ∧
       answersOf (grant (put on { recOf draftBody with busy := true })) = [.recordBusy, .done .plain] ∧
       answersOf (grant (put on (recOf (.damaged none)))) = [.damaged (.record h5), .done .plain] ∧
       answersOf (grant (put on { recOf draftBody with owner := p1 })) = [.notOwner, .done .plain] ∧
       answersOf (grant (put on (recOf labelBody))) = [.wrongState, .done .plain] ∧
       answersOf (grant { draft with bankA := .cleared }) = [.noEdition, .done .plain] ∧
       answersOf (grant { draft with grantState := .draining }) = [.reset, .done .plain] ∧
       goesTo (grant on) (fun t => t.ctx p0 == .opened ⟨2, true⟩ none) = true) := by decide +kernel

theorem test_newParcel : base.ServesAt .newParcel p0 [] ⟨2, true⟩ none ∧ base.RecordsSound ∧ base.record 0 = none ∧
    (holding draftBody).ownedInHand p0 = 1 ∧ ¬ (8 ≤ base.ownedInHand p0) ∧
    yields (exec (.newParcel hp []) base)
      ((base.putRecord 0 ⟨p0, 0, false, false, true, .draft ⟨0, none, none, none, none, none, none, []⟩⟩).judge.send
        (.position p0) 7 0x01 (.done (.parcel ⟨0, 1⟩))) = true := by decide +kernel

/-- Eight records in hand are the limit. -/
theorem test_newParcelLimit :
    let full := [0, 1, 2, 3, 4, 5, 6, 7].foldl (fun s n => State.putRecord s n (recOf draftBody)) base
    full.ServesAt .newParcel p0 [] ⟨2, true⟩ none ∧ full.RecordsSound ∧ 8 ≤ full.ownedInHand p0 ∧
      answersOf (exec (.newParcel hp []) full) = [.limit] := by decide +kernel

/-- The first `k` slots each hold a record of position 1, those of slots 3 and 5 disturbed. -/
def disturbed (k : Nat) : State :=
  (alerting ((List.range k).foldl (fun s n => s.putRecord n (recOf draftBody)) base)).upsetRecord 3 |>.upsetRecord 5

/-- NEW PARCEL reads every live record: each failing one is damaged and reported by the position on its own, lowest slot
first, and stands outside the count. -/
theorem test_newParcelReads :
    (disturbed 9).ServesAt .newParcel p0 [] ⟨2, true⟩ none ∧ (disturbed 9).canonical = true ∧
    (disturbed 9).table.records.cells.countP (fun c =>
      c.2.sound && (c.2.owner == p0 && (c.2.body.isOpen || c.2.body.isPrinting))) = 7 ∧
    (∀ m, m < 9 → (disturbed 9).record m ≠ none) ∧ (disturbed 9).record 9 = none ∧
    (disturbed 9).record 3 = some { recOf draftBody with sound := false } ∧
    answersOf (exec (.newParcel hp []) (disturbed 9)) = [.done (.parcel ⟨9, 1⟩)] ∧
    goesTo (exec (.newParcel hp []) (disturbed 9)) (fun t => t.integrity.log ==
      [⟨.record ⟨3, 1⟩, .position p0, 0, 1, .alert⟩, ⟨.record h5, .position p0, 0, 2, .halted⟩] &&
      t.record 3 == some { recOf (.damaged none) with changeCount := 4 } && t.record 4 == some (recOf draftBody) &&
      t.ownedInHand p0 == 8) = true ∧
    (disturbed 10).canonical = true ∧ answersOf (exec (.newParcel hp []) (disturbed 10)) = [.limit] ∧
    goesTo (exec (.newParcel hp []) (disturbed 10)) (fun t => t.integrity.reportCount == 2) = true := by decide +kernel

/-- The first `k` slots each hold a record of position 2. -/
def rows (k : Nat) : List (Nat × Rec) := (List.range k).map fun n => (n, ⟨p1, 0, false, false, true, draftBody⟩)

/-- A table in which every slot holds a record of another position. -/
def fullTable (k : Nat) : State := { base with table := { base.table with records := ⟨rows k⟩ } }

theorem getCell_ne_none {α : Type} (k : Nat) (l : List (Nat × α)) (c : Nat × α) (hc : c ∈ l) (hk : c.1 = k) :
    getCell k l ≠ none := by
  induction l with
  | nil => cases hc
  | cons d rest ih =>
    simp only [getCell]
    split
    · simp
    · rename_i hne
      rcases List.mem_cons.1 hc with rfl | h
      · exact absurd hk hne
      · exact ih h

theorem mem_rows {k : Nat} {c : Nat × Rec} (h : c ∈ rows k) : c.2.sound = true ∧ c.2.owner = p1 := by
  obtain ⟨n, _, rfl⟩ := List.mem_map.1 h
  exact ⟨rfl, rfl⟩

theorem rows_full {k n : Nat} (h : n < k) : getCell n (rows k) ≠ none :=
  getCell_ne_none n (rows k) (n, ⟨p1, 0, false, false, true, draftBody⟩)
    (List.mem_map.2 ⟨n, List.mem_range.2 h, rfl⟩) rfl

theorem rows_owned (k : Nat) : (fullTable k).ownedInHand p0 = 0 := by
  refine List.countP_eq_zero.2 fun c hc => ?_
  rw [(mem_rows hc).2]
  simp [p0, p1]

theorem test_tableFull (k : Nat) : (fullTable k).ServesAt .newParcel p0 [] ⟨2, true⟩ none ∧ (fullTable k).RecordsSound ∧
    (fullTable k).ownedInHand p0 < 8 ∧ ∀ n, n < k → (fullTable k).record n ≠ none :=
  ⟨show base.ServesAt .newParcel p0 [] ⟨2, true⟩ none by decide +kernel, fun _ hc => (mem_rows hc).1, by rw [rows_owned]; decide, fun _ h => rows_full h⟩

theorem test_setAttributes : (holding draftBody).ServesAt .setAttributes p0 (its ++ [.mass 40000]) ⟨2, true⟩ none ∧
    handleOf (its ++ [.mass 40000]) = some h5 ∧ (holding draftBody).Finds h5 (recOf draftBody) ∧
    (holding ratedBody).Finds h5 (recOf ratedBody) ∧
    attributeItemsOk (its ++ [.addOption 101, .addOption 101]) = true ∧
    attributeItemsOk (its ++ [.mass 40000]) = true ∧ attributeItemsOk (its ++ [.mass 40001]) = false ∧
    hasRepeat (candidateOptions (its ++ [.mass 40000]) []) = false ∧
    hasRepeat (candidateOptions (its ++ [.addOption 101, .addOption 101]) []) = true ∧
    (candidateOptions [.addOption 1, .addOption 2, .addOption 3, .addOption 4] [5]).length = 5 ∧
    yields (exec (.setAttributes hp (its ++ [.mass 40000])) (holding draftBody))
      (((holding draftBody).putRecord 5 { recOf draftBody with
        changeCount := 4, body := .draft { parcel with mass := some 40000 } }).judge.send (.position p0) 7 0x02
        (.done (.changed h5 .draft 4))) = true ∧
    goesTo (exec (.setAttributes hp (its ++ [.clearOptions])) (holding ratedBody)) (fun t =>
      t.bankA.pins == 0 && (t.record 5).any (fun r => r.body == draftBody)) = true ∧
    answersOf (exec (.setAttributes hp (its ++ [.addOption 101, .addOption 101])) (holding draftBody)) =
      [.optionPresent] := by decide +kernel

/-- The refusals: an attribute out of range or none at all, an option twice, a fifth option; of a RATED record too. -/
theorem test_setAttributesRefuses :
    (let full := recOf (.rated { parcel with options := [1, 2, 3] } paid)
     let s := put base full
     s.ServesAt .setAttributes p0 (its ++ [.mass 40001]) ⟨2, true⟩ none ∧ s.Finds h5 full ∧
       s.ServesAt .setAttributes p0 (its ++ [.addOption 4, .addOption 5]) ⟨2, true⟩ none ∧
       s.ServesAt .setAttributes p0 (its ++ [.addOption 3]) ⟨2, true⟩ none ∧
       attributeItemsOk (its ++ [.addOption 4, .addOption 5]) = true ∧
       hasRepeat (candidateOptions (its ++ [.addOption 4, .addOption 5]) [1, 2, 3]) = false ∧
       answersOf (exec (.setAttributes hp (its ++ [.mass 40001])) s) = [.malformed] ∧
       answersOf (exec (.setAttributes hp its) s) = [.malformed] ∧
       answersOf (exec (.setAttributes hp (its ++ [.addOption 3])) s) = [.optionPresent] ∧
       answersOf (exec (.setAttributes hp (its ++ [.addOption 4, .addOption 5])) s) = [.limit]) ∧
    (let i := its ++ [.serviceCode 999, .destination 10999, .sides 10 2000 10, .declaredValue 5000000,
       .contentCategory 9, .clearOptions, .addOption 1]
     attributeItemsOk i = true ∧ writeAttributes i parcel =
       ⟨0, some 999, some 10999, some 500, some ⟨10, 2000, 10⟩, some 5000000, some 9, [1]⟩) := by decide +kernel

theorem test_rate : (holding draftBody).ServesAt .rate p0 (its ++ [.statedGrade 3]) ⟨2, true⟩ none ∧
    base.activeBank ≠ none ∧ base.draining = false ∧ (openWith State.reset 2 true none).activeBank = none ∧
    ({ base with grantState := .draining } : State).draining = true ∧
    goesTo (exec (.rate hp (its ++ [.statedGrade 3])) (holding draftBody)) (fun t =>
      t.queue == [⟨.rate, h5, .position p0, 3⟩] && (t.record 5).any (·.queued) && t.answers == []) = true ∧
    goesTo (exec (.rate hp its) (holding ratedBody)) (fun t =>
      t.bankA.pins == 0 && (t.record 5).any (fun r => r.queued && r.body == draftBody)) = true ∧
    answersOf (exec (.rate hp its) (put (openWith State.reset 2 true none) (recOf draftBody))) = [.noEdition] ∧
    answersOf (exec (.rate hp its) { holding draftBody with grantState := .draining }) = [.reset] := by decide +kernel

/-- The head block goes with its last serial; the check character of 000000110 is X. -/
theorem test_commit : (stocked (holding ratedBody)).ServesAt .commit p0 its ⟨2, true⟩ none ∧
    (stocked (holding ratedBody)).Finds h5 (recOf ratedBody) ∧
    (recheck (base.bank .a) 100).toOption = some ⟨2, (65, 66), .both, true, false, ⟨.n, 4⟩, [⟨.n, 3⟩]⟩ ∧
    (lookupZone (base.bank .a) 5).toOption = some ⟨0, 10999, 1, 7⟩ ∧ (stocked base).pool.blocks.head? = some ⟨100, 110, 110⟩ ∧
    yields (exec (.commit hp its) (stocked (holding ratedBody)))
      ((State.putRecord (State.putIndex { holding ratedBody with pool := ⟨[⟨200, 210, 200⟩], 500⟩ } 110 ⟨5, false, true⟩)
        5 ⟨p0, 4, false, false, true, .printing parcel paid ⟨(65, 66), 110, 10, 7, 0⟩ 90⟩).judge.send (.position p0) 7 0x04
        (.label ⟨Label.number ⟨(65, 66), 110, 10, 7, 0⟩, some 100, 1, 7, 500, 220, 1, p0, 0⟩)) = true := by decide +kernel

theorem test_commitFails :
    (let s := { holding ratedBody with bankA := { tariff with
        pins := 1, nSlots := tariff.nSlots.insert 1 { slotOf .empty with present := false } } }
     s.ServesAt .commit p0 its ⟨2, true⟩ none ∧ failsWith (recheck (s.bank .a) 100) ⟨.selector ⟨.n, 1⟩, none⟩ = true ∧
       answersOf (exec (.commit hp its) s) = [.withdrawn (.selector ⟨.n, 1⟩)] ∧
       goesTo (exec (.commit hp its) s) (fun t => t.bankA.pins == 0) = true) ∧
    (let s := { holding ratedBody with bankA := { customsTariff with pins := 1 } }
     s.ServesAt .commit p0 its ⟨2, true⟩ none ∧
       (recheck (s.bank .a) 100).toOption = some ⟨2, (65, 66), .both, true, true, ⟨.n, 4⟩, []⟩ ∧
       goesTo (exec (.commit hp its) s) (fun t => (t.ctx p0).isEscalated && t.attention.pending.escalation) = true) ∧
    answersOf (exec (.commit hp its) (holding ratedBody)) = [.noNumbers] := by decide +kernel

/-- A FAULT of kind GRADE with these grades, whatever its subject. -/
def isGradeFault (needed eg : Nat) : Answer → Bool
  | .fault f => f.kind == .grade && f.grades == some (needed, eg)
  | _ => false

/-- With the enable clear a COMMIT above clearance is answered FAULT GRADE, its record as it was. -/
theorem test_commitGrade :
    (let s := { put (openWith on 2 false none) (recOf ratedBody) with bankA := { customsTariff with pins := 1 } }
     s.ServesAt .commit p0 its ⟨2, false⟩ none ∧ s.Finds h5 (recOf ratedBody) ∧
       (recheck (s.bank .a) 100).toOption = some ⟨2, (65, 66), .both, true, true, ⟨.n, 4⟩, []⟩ ∧
       (answersOf (exec (.commit hp its) s)).map (isGradeFault 1 2) = [true] ∧
       goesTo (exec (.commit hp its) s) (fun t => t.record 5 == some (recOf ratedBody) &&
         t.ctx p0 == .opened ⟨2, false⟩ none && (t.link (.position p0)).outstanding == none) = true) := by decide +kernel

/-- A recheck whose read fails, a zone place whose read fails, and a damaged one. -/
theorem test_commitDamaged :
    (let s := (holding ratedBody).upsetEntry .a (.slot ⟨.n, 1⟩)
     s.ServesAt .commit p0 its ⟨2, true⟩ none ∧
       failsWith (recheck (s.bank .a) 100) ⟨.selector ⟨.n, 1⟩, some (.slot ⟨.n, 1⟩)⟩ = true ∧
       answersOf (exec (.commit hp its) s) = [.withdrawn (.selector ⟨.n, 1⟩)] ∧
       goesTo (exec (.commit hp its) s) (fun t => t.bankA.damagedCount == 1 && t.integrity.reportCount == 1) = true) ∧
    (let s := (stocked (holding ratedBody)).upsetEntry .a (.place 0)
     s.ServesAt .commit p0 its ⟨2, true⟩ none ∧ (recheck (s.bank .a) 100).toOption.isSome = true ∧
       failsWith (lookupZone (s.bank .a) 5) (.badRead (.place 0) ⟨.damagedTariff, .district 5, none⟩) = true ∧
       answersOf (exec (.commit hp its) s) = [.damaged (.bankEntry .a (.place 0))]) ∧
    (let s := { stocked (holding ratedBody) with bankA := { tariff.damage (.place 0) with pins := 1 } }
     s.ServesAt .commit p0 its ⟨2, true⟩ none ∧ (s.bank .a).zones.cells.head?.any (·.2.damaged) = true ∧
       failsWith (lookupZone (s.bank .a) 5) (.fault ⟨.damagedTariff, .district 5, none⟩) = true ∧
       answersOf (exec (.commit hp its) s) = [.damaged (.bankEntry .a (.place 0))]) := by decide +kernel

/-- A customs-flagged service below the threshold, and at EG 1: the empty pool is NO NUMBERS, a damaged place DAMAGED. -/
theorem test_commitCustomsPasses :
    (let below := { customsTariff with parameters := ⟨0, 0, 201⟩, pins := 1 }
     let s := { holding ratedBody with bankA := below }
     s.ServesAt .commit p0 its ⟨2, true⟩ none ∧ 200 < (s.bank .a).parameters.customsThreshold ∧
       answersOf (exec (.commit hp its) s) = [.noNumbers] ∧
       answersOf (exec (.commit hp its) { stocked s with bankA := below.damage (.place 0) }) =
         [.damaged (.bankEntry .a (.place 0))]) ∧
    (let s := { put (openWith on 1 true none) (recOf ratedBody) with bankA := { customsTariff with pins := 1 } }
     s.ServesAt .commit p0 its ⟨1, true⟩ none ∧ max 1 ((statedGradeOf its).getD 0) ≤ 1 ∧
       answersOf (exec (.commit hp its) s) = [.noNumbers] ∧
       answersOf (exec (.commit hp its) ((stocked s).upsetEntry .a (.place 0))) =
         [.damaged (.bankEntry .a (.place 0))]) := by decide +kernel

theorem test_printed : (holding (printBody 9)).ServesAt .printed p0 (its ++ [.serial 7300498]) ⟨2, true⟩ none ∧
    (holding (printBody 9)).Finds h5 (recOf (printBody 9)) ∧ serialOf (its ++ [.serial 7300498]) = some lab.serial ∧
    serialOf (its ++ [.serial 7300497]) ≠ some lab.serial ∧ base.graceExpired .a = false ∧
    goesTo (exec (.printed hp (its ++ [.serial 7300498])) (holding (printBody 9))) (fun t =>
      t.bankA.pins == 0 && (t.record 5).any (fun r => r.body == labelBody)) = true ∧
    answersOf (exec (.printed hp (its ++ [.serial 7300497])) (holding (printBody 9))) = [.tooLate] ∧
    answersOf (exec (.printed hp (its ++ [.serial 7300498])) (holding labelBody)) = [.tooLate] := by decide +kernel

/-- Slot 5 holds a PRINTING record of a bank whose grace has expired. -/
def lapsing (d : Nat) : State :=
  put (openWith { on with bankA := { tariff with state := .retiring 1 .expired } } 2 true none) (recOf (printBody d))

theorem test_spoilt : (lapsing 9).ServesAt .spoilt p0 (its ++ [.serial 7300498]) ⟨2, true⟩ none ∧
    (lapsing 9).graceExpired .a = true ∧
    goesTo (exec (.spoilt hp (its ++ [.serial 7300498])) (holding (printBody 9))) (fun t =>
      t.bankA.pins == 1 && t.table.index == .empty && (t.record 5).any (fun r => r.body == ratedBody)) = true ∧
    goesTo (exec (.spoilt hp (its ++ [.serial 7300498])) (lapsing 9)) (fun t =>
      t.bankA.pins == 0 && t.bankA.state == .stale 1 && t.attention.pending.bankRetired &&
        (t.record 5).any (fun r => r.body == draftBody)) = true := by decide +kernel

/-- PRINTED and SPOILT do not read the label index entry of the serial they carry, the model's choice (log entry 34): one that
would fail its check is not met. -/
theorem test_printEndsReadNoEntry :
    (let s := (alerting (holding (printBody 9))).upsetIndex 7300498
     s.table.index.get 7300498 = some ⟨5, false, false⟩ ∧
       goesTo (exec (.printed hp (its ++ [.serial 7300498])) s) (fun t => t.answers.map (·.answer) == [.done .plain] &&
         t.integrity.reportCount == 0) = true ∧
       goesTo (exec (.spoilt hp (its ++ [.serial 7300498])) s) (fun t =>
         t.answers.map (·.answer) == [.done (.state .rated)] && t.integrity.reportCount == 0) = true) := by decide +kernel

/-- SPOILT with another serial, and of a LABELLED record, busy or not, is TOO LATE. -/
theorem test_spoiltTooLate :
    answersOf (exec (.spoilt hp (its ++ [.serial 7300497])) (holding (printBody 9))) = [.tooLate] ∧
    answersOf (exec (.spoilt hp (its ++ [.serial 7300498])) (holding labelBody)) = [.tooLate] ∧
    answersOf (exec (.spoilt hp (its ++ [.serial 7300498])) (put base { recOf labelBody with busy := true })) =
      [.tooLate] ∧
    answersOf (exec (.printed hp (its ++ [.serial 7300498])) (put base { recOf labelBody with busy := true })) =
      [.tooLate] := by decide +kernel

theorem test_printDeadline : (holding (printBody 0)).Live ∧ (holding (printBody 0)).record 5 = some (recOf (printBody 0)) ∧
    (lapsing 0).Live ∧
    (upset (holding (printBody 0))).Live ∧
    (upset (holding (printBody 0))).record 5 = some { recOf (printBody 0) with sound := false } ∧
    (upset (holding (printBody 0))).unitOn h5 = none ∧ (upset (holding (printBody 0))).queue = [] ∧
    goesTo (exec (.printDeadlineExpiry 5) (upset (holding (printBody 0)))) (fun t => t.bankA.pins == 0 && t.answers == [] &&
      t.integrity.log == [⟨.record h5, .printDeadline, 0, 1, .alert⟩] &&
      t.record 5 == some { recOf (.damaged (some lab)) with changeCount := 4 }) = true ∧
    goesTo (exec (.printDeadlineExpiry 5) (holding (printBody 0))) (fun t =>
      (t.record 5).any (fun r => r.body == ratedBody)) = true ∧
    goesTo (exec (.printDeadlineExpiry 5) (lapsing 0)) (fun t =>
      (t.record 5).any (fun r => r.body == draftBody)) = true ∧
    yields (exec (.printDeadlineExpiry 5) (holding (printBody 1))) (holding (printBody 1)) = true := by decide +kernel

theorem test_query : (holding labelBody).ServesAt .query p0 (its ++ [.reserve]) ⟨2, true⟩ none ∧
    (holding labelBody).Finds h5 (recOf labelBody) ∧
    (holding labelBody).ServesAt .query p0 [.serial 7300498] ⟨2, true⟩ none ∧
    (holding labelBody).FindsSerial 7300498 5 (recOf labelBody) ∧
    yields (exec (.query hp (its ++ [.reserve])) (holding labelBody))
      (((holding labelBody).setCtx p0 (.opened ⟨2, true⟩ (some ⟨h5, 3⟩))).send (.position p0) 7 0x07
        (.record ⟨h5, p0, 3, false, false, labelBody⟩ true)) = true ∧
    yields (exec (.query hp [.serial 7300498]) (holding labelBody)) ((holding labelBody).send (.position p0) 7 0x07
        (.record ⟨h5, p0, 3, false, false, labelBody⟩ false)) = true := by decide +kernel

theorem test_querySupervisor : (holding labelBody).Serves .querySupervisor .supervisor [.serial 7300498] ∧
    answersOf (exec (.querySupervisor hs [.serial 7300498]) (holding labelBody)) =
      [.record ⟨h5, p0, 3, false, false, labelBody⟩ false] ∧
    answersOf (exec (.querySupervisor hs its) (holding draftBody)) =
      [.record ⟨h5, p0, 3, false, false, draftBody⟩ false] ∧
    answersOf (exec (.querySupervisor hs [.serial 7]) (holding labelBody)) = [.noRecord] := by decide +kernel

/-- No record for a handle, and no index entry for a serial. -/
theorem test_findsNone : base.ServesAt .query p0 its ⟨2, true⟩ none ∧ base.FindsNone its ∧
    base.ServesAt .query p0 [.serial 7] ⟨2, true⟩ none ∧ base.FindsNone [.serial 7] ∧
    base.Serves .querySupervisor .supervisor its ∧ base.Serves .voidSupervisor .supervisor [.serial 7] ∧
    answersOf (exec (.query hp [.serial 7]) base) = [.noRecord] ∧ answersOf (exec (.query hp its) base) = [.noRecord] ∧
    answersOf (exec (.querySupervisor hs its) base) = [.noRecord] ∧
    answersOf (exec (.voidSupervisor hs [.serial 7]) base) = [.noRecord] :=
  ⟨by decide +kernel, Or.inl ⟨h5, by decide +kernel⟩, by decide +kernel,
    Or.inr ⟨by decide +kernel, 7, by decide +kernel⟩, by decide +kernel, by decide +kernel, by decide +kernel,
    by decide +kernel, by decide +kernel, by decide +kernel⟩

theorem test_marked : base.ServesAt .rate p0 its ⟨2, true⟩ none ∧ base.find h5 = none ∧
    (put base { recOf draftBody with busy := true }).Finds h5 { recOf draftBody with busy := true } ∧
    (put base { recOf draftBody with queued := true }).Finds h5 { recOf draftBody with queued := true } ∧
    answersOf (exec (.rate hp its) base) = [.noRecord] ∧
    answersOf (exec (.commit hp its) (put base { recOf ratedBody with busy := true })) = [.recordBusy] ∧
    answersOf (exec (.rate hp its) (put base { recOf draftBody with queued := true })) = [.recordBusy] := by
  decide +kernel

/-- Position 1 OPEN with a reservation of the record in slot 5. -/
def reserved (b : RecordBody) (count : Nat) : State := put (openWith on 2 true (some ⟨h5, count⟩)) (recOf b)

/-- A DAMAGED record, another position's record, and a state the request does not admit, marked records of PRINTED and SPOILT
among them; nothing else changes. -/
theorem test_recordChecks :
    (let damaged := put base { recOf (.damaged none) with busy := true }
     let other (b : RecordBody) := put base { recOf b with owner := p1 }
     let print := its ++ [.serial 7300498]
     (holding (.damaged none)).Finds h5 (recOf (.damaged none)) ∧
       damaged.Finds h5 { recOf (.damaged none) with busy := true } ∧
       (other ratedBody).Finds h5 { recOf ratedBody with owner := p1 } ∧
       (∀ s ∈ [damaged, other ratedBody], s.ServesAt .printed p0 print ⟨2, true⟩ none) ∧
       (other ratedBody).ServesAt .commit p0 its ⟨2, true⟩ none ∧ RecordBody.name heldBody ∈ [.printing, .labelled, .held] ∧
       yields (exec (.printed hp print) damaged) (damaged.send (.position p0) 7 0x05 (.damaged (.record h5))) = true ∧
       yields (exec (.takeOver hp its) (reserved (.damaged none) 3))
         ((reserved (.damaged none) 3).send (.position p0) 7 0x09 (.damaged (.record h5))) = true ∧
       yields (exec (.commit hp its) (other ratedBody)) ((other ratedBody).send (.position p0) 7 0x04 .notOwner) = true ∧
       answersOf (exec (.rate hp its) (other draftBody)) = [.notOwner] ∧
       answersOf (exec (.setAttributes hp (its ++ [.mass 1])) (other draftBody)) = [.notOwner] ∧
       answersOf (exec (.printed hp print) (other (printBody 9))) = [.notOwner] ∧
       answersOf (exec (.spoilt hp print) (other labelBody)) = [.notOwner] ∧
       answersOf (exec (.setAttributes hp (its ++ [.mass 1])) (holding (printBody 9))) = [.wrongState] ∧
       answersOf (exec (.rate hp its) (holding heldBody)) = [.wrongState] ∧
       yields (exec (.commit hp its) (holding draftBody))
         ((holding draftBody).send (.position p0) 7 0x04 .wrongState) = true) := by decide +kernel

theorem test_amend : (reserved labelBody 3).ServesAt .amend p0 (its ++ [.optionCode 101]) ⟨2, true⟩ (some ⟨h5, 3⟩) ∧
    (reserved labelBody 3).Finds h5 (recOf labelBody) ∧ optionCodeOf (its ++ [.optionCode 101]) = some 101 ∧
    (101 ∉ parcel.options ∧ parcel.options.length < 4) ∧
    goesTo (exec (.amendAddOption hp (its ++ [.optionCode 101])) (reserved labelBody 3)) (fun t =>
      t.queue == [⟨.rateOption 101, h5, .position p0, 2⟩] && (t.ctx p0).status.state == .working) = true ∧
    goesTo (exec (.amendAddOption hp (its ++ [.optionCode 101, .statedGrade 3])) (reserved labelBody 3)) (fun t =>
      (t.ctx p0).isEscalated) = true ∧
    answersOf (exec (.amendAddOption hp (its ++ [.optionCode 101])) (reserved labelBody 2)) = [.reservationLost] := by
  decide +kernel

/-- With a valid reservation, which is used: the option on the record, four options, a drain, and a RATED record. -/
theorem test_amendRefuses :
    (let amend := exec (.amendAddOption hp (its ++ [.optionCode 101]))
     let full (options : List Nat) := reserved (.labelled { parcel with options := options } paid lab 0 none) 3
     let used (o : Outcome) := goesTo o fun t => t.ctx p0 == .opened ⟨2, true⟩ none
     (full [101]).ServesAt .amend p0 (its ++ [.optionCode 101]) ⟨2, true⟩ (some ⟨h5, 3⟩) ∧
       (full [1, 2, 3, 4]).ServesAt .amend p0 (its ++ [.optionCode 101]) ⟨2, true⟩ (some ⟨h5, 3⟩) ∧
       (reserved ratedBody 3).ServesAt .amend p0 (its ++ [.optionCode 101]) ⟨2, true⟩ (some ⟨h5, 3⟩) ∧
       (reserved ratedBody 3).Finds h5 (recOf ratedBody) ∧ ratedBody.name ∈ [.draft, .rated, .printing, .held] ∧
       answersOf (amend (full [101])) = [.optionPresent] ∧ used (amend (full [101])) = true ∧
       answersOf (amend (full [1, 2, 3, 4])) = [.limit] ∧ used (amend (full [1, 2, 3, 4])) = true ∧
       answersOf (amend { full [1, 2, 3] with grantState := .draining }) = [.reset] ∧
       used (amend { full [1, 2, 3] with grantState := .draining }) = true ∧
       answersOf (amend (reserved ratedBody 3)) = [.wrongState] ∧ used (amend (reserved ratedBody 3)) = true) := by
  decide +kernel

/-- With the enable clear an AMEND above grade 2 and a VOID above grade 1 are answered FAULT GRADE, the reservation used. -/
theorem test_gradeRefused :
    (let s := put (openWith on 3 false (some ⟨h5, 3⟩)) (recOf labelBody)
     s.ServesAt .amend p0 (its ++ [.optionCode 101]) ⟨3, false⟩ (some ⟨h5, 3⟩) ∧
       s.ServesAt .void p0 its ⟨3, false⟩ (some ⟨h5, 3⟩) ∧ s.Finds h5 (recOf labelBody) ∧
       (answersOf (exec (.amendAddOption hp (its ++ [.optionCode 101])) s)).map (isGradeFault 2 3) = [true] ∧
       (answersOf (exec (.void hp its) s)).map (isGradeFault 1 3) = [true] ∧
       goesTo (exec (.void hp its) s) (fun t => t.ctx p0 == .opened ⟨3, false⟩ none &&
         t.record 5 == some (recOf labelBody)) = true) := by decide +kernel

/-- The record in slot 5 belongs to position 2. -/
def foreign : State :=
  put (openWith on 2 true (some ⟨h5, 3⟩)) { recOf draftBody with owner := p1 }

theorem test_takeOver : foreign.ServesAt .takeOver p0 its ⟨2, true⟩ (some ⟨h5, 3⟩) ∧
    foreign.Finds h5 { recOf draftBody with owner := p1 } ∧ foreign.RecordsSound ∧ foreign.ctx p1 = .closed ∧
    foreign.ownedInHand p0 < 8 ∧
    yields (exec (.takeOver hp its) foreign)
      ((base.putRecord 5 { recOf draftBody with changeCount := 4 }).send (.position p0) 7 0x09
        (.done (.takenOver h5 p0 .draft 4))) = true ∧
    answersOf (exec (.takeOver hp its) (foreign.setCtx p1 (.opened ⟨1, true⟩ none))) = [.notOwner] ∧
    (let full := [10, 11, 12, 13, 14, 15, 16, 17].foldl (fun s n => State.putRecord s n (recOf draftBody)) foreign
     8 ≤ full.ownedInHand p0 ∧ answersOf (exec (.takeOver hp its) full) = [.limit]) := by decide +kernel

/-- The taker's own record is NOT OWNER; a LABELLED record WRONG STATE; a stale reservation RESERVATION LOST; each uses the
reservation. -/
theorem test_takeOverRefuses :
    (let take (s : State) := exec (.takeOver hp its) s
     let used (o : Outcome) := goesTo o fun t => t.ctx p0 == .opened ⟨2, true⟩ none
     (reserved draftBody 3).ServesAt .takeOver p0 its ⟨2, true⟩ (some ⟨h5, 3⟩) ∧
       (reserved draftBody 3).Finds h5 (recOf draftBody) ∧ (reserved draftBody 3).RecordsSound ∧
       (reserved draftBody 3).ctx p0 ≠ .closed ∧
       (reserved labelBody 3).ServesAt .takeOver p0 its ⟨2, true⟩ (some ⟨h5, 3⟩) ∧
       answersOf (take (reserved draftBody 3)) = [.notOwner] ∧ used (take (reserved draftBody 3)) = true ∧
       answersOf (take (reserved labelBody 3)) = [.wrongState] ∧ used (take (reserved labelBody 3)) = true ∧
       answersOf (take (reserved draftBody 2)) = [.reservationLost] ∧ used (take (reserved draftBody 2)) = true) := by
  decide +kernel

/-- Past its checks TAKE OVER reads every live record for the count: of eight others in hand one fails, and the record is taken
over; of nine, LIMIT. -/
theorem test_takeOverReads :
    (let with' (l : List Nat) := l.foldl (fun s n => State.putRecord s n (recOf draftBody)) foreign
     let s (l : List Nat) := (alerting (with' l)).upsetRecord 12
     let eight := s [10, 11, 12, 13, 14, 15, 16, 17]
     let nine := s [10, 11, 12, 13, 14, 15, 16, 17, 18]
     eight.ServesAt .takeOver p0 its ⟨2, true⟩ (some ⟨h5, 3⟩) ∧ eight.Finds h5 { recOf draftBody with owner := p1 } ∧
       eight.ctx p1 = .closed ∧ eight.canonical = true ∧ nine.canonical = true ∧
       eight.table.records.cells.countP (fun c =>
         c.2.sound && (c.2.owner == p0 && (c.2.body.isOpen || c.2.body.isPrinting))) = 7 ∧
       answersOf (exec (.takeOver hp its) eight) = [.done (.takenOver h5 p0 .draft 4)] ∧
       goesTo (exec (.takeOver hp its) eight) (fun t => t.record 5 == some { recOf draftBody with changeCount := 4 } &&
         t.integrity.log == [⟨.record ⟨12, 1⟩, .position p0, 0, 1, .alert⟩] &&
         (t.record 12).any (fun r => r.body == .damaged none)) = true ∧
       answersOf (exec (.takeOver hp its) nine) = [.limit]) := by decide +kernel

theorem test_void : (holding draftBody).ServesAt .void p0 its ⟨2, true⟩ none ∧
    (∀ x ∈ (holding draftBody).queue, x.requester ≠ .position p0) ∧
    goesTo (exec (.void hp its) (holding (printBody 3))) (fun t =>
      t.record 5 == none && t.generation 5 == 2 && t.table.index == .empty && t.bankA.pins == 0) = true ∧
    answersOf (exec (.void hp its) { foreign with positions := base.positions }) = [.notOwner] ∧
    goesTo (exec (.void hp its) (put (openWith on 1 true (some ⟨h5, 3⟩)) (recOf labelBody))) (fun t =>
      t.record 5 == none && t.ctx p0 == .opened ⟨1, true⟩ none) = true ∧
    goesTo (exec (.void hp its) (reserved labelBody 3)) (fun t => (t.ctx p0).isEscalated) = true ∧
    goesTo (exec (.void hp its) (reserved labelBody 2)) (fun t => t.answers.map (·.answer) == [.reservationLost] &&
      t.ctx p0 == .opened ⟨2, true⟩ none && t.record 5 == some (recOf labelBody)) = true ∧
    answersOf (exec (.void hp its) (holding heldBody)) = [.wrongState] := by decide +kernel

/-- An AMEND of position 2 queued on the LABELLED record in slot 5. -/
def amendQueued (s : State) : State :=
  { ((put s { recOf labelBody with queued := true }).setCtx p1
      (.working ⟨2, true⟩ true none ⟨.amend, 4, its, none⟩)).hold (.position p1) .amend 4 with
    queue := [⟨.rateOption 101, h5, .position p1, 2⟩] }

/-- VOID of a record with a queued job, from a position and from the supervisor, and HANDOVER of one: the waiting request is
answered NO RECORD and its pending suspension taken. -/
theorem test_voidQueued :
    (let s := amendQueued (openWith on 1 true (some ⟨h5, 3⟩))
     s.ServesAt .void p0 its ⟨1, true⟩ (some ⟨h5, 3⟩) ∧ s.Finds h5 { recOf labelBody with queued := true } ∧
       (∀ x ∈ s.queue, x.requester ≠ .position p0) ∧ (∀ x ∈ s.queue, x.requester ≠ .dispatch) ∧
       s.Serves .voidSupervisor .supervisor its ∧ s.Serves .handover .dispatch [.serial 7300498] ∧
       s.FindsSerial 7300498 5 { recOf labelBody with queued := true } ∧
       answersOf (exec (.void hp its) s) = [.noRecord, .done (.parcel h5)] ∧
       answersOf (exec (.voidSupervisor hs its) s) = [.noRecord, .done (.parcel h5)] ∧
       answersOf (exec (.handover hd [.serial 7300498]) s) = [.noRecord, .done (.handedOver h5 7300498 none)] ∧
       goesTo (exec (.void hp its) s) (fun t => t.queue == [] && t.ctx p1 == .suspended ⟨2, true⟩ .opened) = true) := by
  decide +kernel

theorem test_voidSupervisor : (holding heldBody).Serves .voidSupervisor .supervisor its ∧
    (holding heldBody).Finds h5 (recOf heldBody) ∧
    (holding heldBody).FindsSerial 7300498 5 (recOf heldBody) ∧
    goesTo (exec (.voidSupervisor hs [.serial 7300498]) (holding heldBody)) (fun t =>
      t.record 5 == none && t.table.index == .empty) = true ∧
    answersOf (exec (.voidSupervisor hs its) (put base { recOf labelBody with busy := true })) = [.recordBusy] := by
  decide +kernel

/-- The generation after 255 is 1; a queued record's request is answered NO RECORD. -/
theorem test_retire : queued.canonical = true ∧ queued.record 5 = some { recOf draftBody with queued := true } ∧
    (queued.retire 5 { recOf draftBody with queued := true }).answers.map (·.answer) = [.noRecord] ∧
    (let s := { holding labelBody with table := { (holding labelBody).table with generations := ⟨[(5, 255)]⟩ } }
     s.canonical = true ∧ (s.retire 5 (recOf labelBody)).table.generations = .empty ∧
       (s.retire 5 (recOf labelBody)).table.index = .empty) := by decide +kernel

/-- A re-rating queued on a record that is retired is answered NO RECORD, and the pending reweigh is emptied. -/
theorem test_retireForDispatch :
    (let s := { (put on { recOf labelBody with queued := true }).hold .dispatch .reweigh 9 with
       pendingReweigh := some ⟨h5, 7300498, 501, ⟨100, 100, 100⟩, 501, 500⟩
       queue := [⟨.rerateReweigh 501 ⟨100, 100, 100⟩, h5, .dispatch, 0⟩] }
     s.canonical = true ∧ s.record 5 = some { recOf labelBody with queued := true } ∧
       s.queue.find? (fun e => e.handle == s.handleAt 5) = some ⟨.rerateReweigh 501 ⟨100, 100, 100⟩, h5, .dispatch, 0⟩ ∧
       answersOf (exec (.voidSupervisor hs its) s) = [.noRecord, .done (.parcel h5)] ∧
       goesTo (exec (.voidSupervisor hs its) s) (fun t => t.pendingReweigh == none &&
         t.links.dispatch.outstanding == none) = true) := by decide +kernel

/-- Damage goes by the job and the entry and not by the marks: with the mark reading clear the job ends and the entry goes. -/
theorem test_damageMarksClear :
    (let s := (rating 2 true).putRecord 5 { recOf draftBody with sound := false }
     goesTo (exec (.querySupervisor hs its) s) (fun t => t.unit 0 == none && t.bankA.pins == 0 &&
       t.answers.map (·.answer) == [.damaged (.record h5), .damaged (.record h5)]) = true) ∧
    (let s := queued.putRecord 5 { recOf draftBody with sound := false }
     goesTo (exec (.querySupervisor hs its) s) (fun t => t.queue == [] && t.ctx p0 == .opened ⟨2, true⟩ none &&
       t.answers.map (·.answer) == [.damaged (.record h5), .damaged (.record h5)]) = true) := by decide +kernel

/-- Damage of an unmarked, a queued, a running and a DAMAGED record. -/
theorem test_damage :
    ((holding ratedBody).damageRecord 5 (recOf ratedBody) (.record h5)).record 5 =
      some { recOf ratedBody with changeCount := 4, body := .damaged none } ∧
    ((holding ratedBody).damageRecord 5 (recOf ratedBody) (.record h5)).bankA.pins = 0 ∧
    (queued.record 5).map (fun r => ((queued.damageRecord 5 r (.record h5)).queue,
      (queued.damageRecord 5 r (.record h5)).answers.map (·.answer))) = some ([], [.damaged (.record h5)]) ∧
    ((rating 2 true).record 5).map (fun r => (((rating 2 true).damageRecord 5 r (.record h5)).unit 0,
      ((rating 2 true).damageRecord 5 r (.record h5)).answers.map (·.answer))) =
        some (none, [.damaged (.record h5)]) ∧
    (rating 2 true).unitOn h5 = some 0 ∧ (rating 2 true).unit 0 = some (rateJob 2) ∧ draftBody.pin = none ∧
    (holding ratedBody).unitOn h5 = none ∧ (holding ratedBody).queue = [] ∧ queued.unitOn h5 = none ∧
    (rating 2 true).queue = [] ∧
    (let s := (rating 2 true).setUnit 0 (some { rateJob 2 with discarded := true })
     (s.damageRecord 5 { recOf draftBody with busy := true } (.record h5)).answers = []) ∧
    queued.queue.find? (fun e => e.handle == queued.handleAt 5) = some ⟨.rate, h5, .position p0, 2⟩ ∧
    (holding (.damaged (some lab))).damageRecord 5 (recOf (.damaged (some lab))) (.record h5) =
      holding (.damaged (some lab)) := by decide +kernel

/-- Damage of a record that dispatch waits for, queued or running: answered DAMAGED, the pending reweigh emptied. -/
theorem test_damageForDispatch :
    (let s := { (put on { recOf labelBody with queued := true }).hold .dispatch .reweigh 9 with
       pendingReweigh := some ⟨h5, 7300498, 501, ⟨100, 100, 100⟩, 501, 500⟩
       queue := [⟨.rerateReweigh 501 ⟨100, 100, 100⟩, h5, .dispatch, 0⟩] }
     let r := { recOf labelBody with queued := true }
     s.links.dispatch.outstanding = some ⟨.reweigh, 9⟩ ∧ s.record 5 = some r ∧
       s.queue.find? (fun e => e.handle == s.handleAt 5) = some ⟨.rerateReweigh 501 ⟨100, 100, 100⟩, h5, .dispatch, 0⟩ ∧
       (s.damageRecord 5 r (.record h5)).pendingReweigh = none ∧
       (s.damageRecord 5 r (.record h5)).answers.map (·.answer) = [.damaged (.record h5)]) ∧
    (let s := rerating 1001
     let r := { recOf labelBody with busy := true }
     s.record 5 = some r ∧ s.unitOn (s.handleAt 5) = some 0 ∧ s.unit 0 = some (rerateJob 1001) ∧
       (s.damageRecord 5 r (.record h5)).links.dispatch.outstanding = none ∧
       (s.damageRecord 5 r (.record h5)).unit 0 = none) := by decide +kernel

/-- A disturbed record, read by a QUERY, is damaged, reported and answered DAMAGED; with the alert enable clear the part
halts. A failed index entry is answered DAMAGED without a report. -/
theorem test_failingRead :
    (let s := (holding labelBody).upsetRecord 5
     s.ServesAt .query p0 its ⟨2, true⟩ none ∧ s.find h5 = some { recOf labelBody with sound := false } ∧
       s.unitOn h5 = none ∧ s.queue = [] ∧
       answersOf (exec (.query hp its) s) = [.damaged (.record h5)] ∧
       goesTo (exec (.query hp its) s) (fun t => t.halted && t.integrity.log ==
         [⟨.record h5, .position p0, 0, 1, .halted⟩] && (t.record 5).any (fun r => r.body == .damaged (some lab))) =
         true) ∧
    (let s := (holding labelBody).putIndex 7300498 ⟨5, true, false⟩
     s.ServesAt .query p0 [.serial 7300498] ⟨2, true⟩ none ∧ handleOf [.serial 7300498] = none ∧
       s.table.index.get 7300498 = some ⟨5, true, false⟩ ∧
       answersOf (exec (.query hp [.serial 7300498]) s) = [.damaged (.indexEntry 7300498 (some h5))]) := by
  decide +kernel

/-- A failing read goes before the marks: what a command answers at a disturbed record, a busy and queued one among them, and
who is reported as its reader. -/
def readsFail (c : Instr) (reader : Reader) (s : State) : Bool :=
  goesTo (exec c s) fun t => t.answers.map (·.answer) == [.damaged (.record h5)] &&
    t.integrity.log == [⟨.record h5, reader, 0, 1, .alert⟩] && (t.record 5).any fun r => r.body.name == .damaged

/-- Every request that names a record by handle, at a record that fails its check: reported by its requester and answered
DAMAGED, also where marks stand on the record. -/
theorem test_failingReadByHandle :
    (let marked := upset (put base { recOf labelBody with busy := true, queued := true })
     ∀ s ∈ [upset (holding ratedBody), upset (holding (printBody 9)), marked],
       (∀ c ∈ [Instr.setAttributes hp (its ++ [.mass 1]), .rate hp its, .commit hp its,
           .printed hp (its ++ [.serial 7300498]), .spoilt hp (its ++ [.serial 7300498]), .query hp its,
           .amendAddOption hp (its ++ [.optionCode 101]), .takeOver hp its, .void hp its],
         readsFail c (.position p0) s = true) ∧
       ∀ c ∈ [Instr.querySupervisor hs its, .voidSupervisor hs its, .settleAccept hs (its ++ [.settleForm 1]),
           .settleVoid hs (its ++ [.settleForm 2])],
         readsFail c .supervisor s = true) := by decide +kernel

/-- The premises of each: the request comes to its lookup, and the record fails its check with neither job nor entry on it. -/
theorem test_asksByHandle :
    (upset (holding ratedBody)).AsksByHandle .rate (.position p0) its h5 ∧
    (upset (holding ratedBody)).AsksByHandle .settle .supervisor (its ++ [.settleForm 2]) h5 ∧
    requestCommand .settle hs (its ++ [.settleForm 2]) = .settleVoid hs (its ++ [.settleForm 2]) ∧
    requestCommand .settle hs (its ++ [.settleForm 1]) = .settleAccept hs (its ++ [.settleForm 1]) ∧
    (upset (holding ratedBody)).find h5 = some { recOf ratedBody with sound := false } ∧
    (upset (holding ratedBody)).unitOn h5 = none ∧ (upset (holding ratedBody)).queue = [] :=
  ⟨⟨by decide +kernel, .inl ⟨by decide, p0, ⟨2, true⟩, none, rfl, by decide +kernel⟩⟩,
    ⟨by decide +kernel, .inr ⟨by decide, rfl, by decide +kernel⟩⟩, by decide +kernel, by decide +kernel, by decide +kernel,
    by decide +kernel, by decide +kernel⟩

/-- A request at the record of serial 7300498 in slot 5 is answered DAMAGED with this subject, the log as given. -/
def serialFails (c : Instr) (subject : ReportSubject) (log : List LogEntry) (s : State) : Bool :=
  goesTo (exec c s) fun t => t.answers.map (·.answer) == [.damaged subject] && t.integrity.log == log

/-- Every request that names a record by serial: at an index entry that fails now, at one that failed before, at one that no
record carries, and at a sound one whose record fails. -/
theorem test_failingReadBySerial :
    (let n : List Item := [.serial 7300498]
     let entry : ReportSubject := .indexEntry 7300498 (some h5)
     let alone := ((alerting (holding labelBody)).upsetIndex 7300498).putRecord 5 (recOf draftBody)
     ∀ c ∈ [(Instr.query hp n, Reader.position p0), (.querySupervisor hs n, .supervisor), (.voidSupervisor hs n, .supervisor),
         (.settleAccept hs (n ++ [.settleForm 1]), .supervisor), (.settleVoid hs (n ++ [.settleForm 2]), .supervisor),
         (.reweigh hd (weigh 500), .dispatch), (.handover hd n, .dispatch)],
       serialFails c.1 entry [⟨entry, c.2, 0, 1, .alert⟩] ((alerting (holding labelBody)).upsetIndex 7300498) = true ∧
       serialFails c.1 entry [] ((alerting (holding labelBody)).putIndex 7300498 ⟨5, true, true⟩) = true ∧
       serialFails c.1 (.indexEntry 7300498 none) [⟨.indexEntry 7300498 none, c.2, 0, 1, .alert⟩] alone = true ∧
       serialFails c.1 (.record h5) [⟨.record h5, c.2, 0, 1, .alert⟩] (upset (holding labelBody)) = true) := by
  decide +kernel

/-- The premises of each. -/
theorem test_asksBySerial :
    (let s := (alerting (holding labelBody)).upsetIndex 7300498
     s.AsksBySerial .query (.position p0) [.serial 7300498] 7300498 ∧
       s.AsksBySerial .voidSupervisor .supervisor [.serial 7300498] 7300498 ∧
       s.AsksBySerial .reweigh .dispatch (weigh 500) 7300498 ∧ s.AsksBySerial .handover .dispatch [.serial 7300498] 7300498 ∧
       s.table.index.get 7300498 = some ⟨5, false, false⟩ ∧ s.carrier 7300498 = some 5 ∧
       s.record 5 = some (recOf labelBody) ∧ s.unitOn (s.handleAt 5) = none ∧ s.queue = [] ∧
       (s.putRecord 5 (recOf draftBody)).carrier 7300498 = none ∧
       (upset (holding labelBody)).table.index.get 7300498 = some ⟨5, false, true⟩ ∧
       (upset (holding labelBody)).record 5 = some { recOf labelBody with sound := false }) :=
  ⟨⟨by decide +kernel, by decide +kernel, .inl ⟨rfl, p0, ⟨2, true⟩, none, rfl, by decide +kernel⟩⟩,
    ⟨by decide +kernel, by decide +kernel, .inr (.inl ⟨by decide, rfl, by decide +kernel⟩)⟩,
    ⟨by decide +kernel, by decide +kernel, .inr (.inr ⟨by decide, rfl, by decide +kernel, by decide +kernel⟩)⟩,
    ⟨by decide +kernel, by decide +kernel, .inr (.inr ⟨by decide, rfl, by decide +kernel, by decide +kernel⟩)⟩,
    by decide +kernel, by decide +kernel, by decide +kernel, by decide +kernel, by decide +kernel, by decide +kernel,
    by decide +kernel, by decide +kernel⟩

/-- A GRANT whose re-execution meets a failing read: the saved request is answered DAMAGED with the position as reader, GRANT
DONE, the position OPEN. -/
theorem test_grantReads :
    (upset (escalated 1 9)).Serves .grant .supervisor [.position 1, .grade 1] ∧
    (upset (escalated 1 9)).find h5 = some { recOf ratedBody with sound := false } ∧
    answersOf (exec (.grant hs [.position 1, .grade 1]) (upset (escalated 1 9))) = [.damaged (.record h5), .done .plain] ∧
    goesTo (exec (.grant hs [.position 1, .grade 1]) (upset (escalated 1 9))) (fun t =>
      t.ctx p0 == .opened ⟨2, true⟩ none && t.integrity.log == [⟨.record h5, .position p0, 0, 1, .alert⟩]) = true := by
  decide +kernel

/-- An index entry that fails now: the record whose label carries its serial is damaged, the entry kept and marked. -/
theorem test_failingIndexEntry :
    (let s := (holding labelBody).upsetIndex 7300498
     s.ServesAt .query p0 [.serial 7300498] ⟨2, true⟩ none ∧ s.table.index.get 7300498 = some ⟨5, false, false⟩ ∧
       s.carrier 7300498 = some 5 ∧ s.unitOn (s.handleAt 5) = none ∧ s.queue = [] ∧
       answersOf (exec (.query hp [.serial 7300498]) s) = [.damaged (.indexEntry 7300498 (some h5))] ∧
       goesTo (exec (.query hp [.serial 7300498]) s) (fun t =>
         t.table.index.get 7300498 == some ⟨5, true, false⟩ && t.integrity.reportCount == 1 &&
           (t.record 5).any (fun r => r.body == .damaged (some lab))) = true) ∧
    carrierAmong 7300498 [(4, recOf draftBody), (5, recOf labelBody)] = some 5 ∧
    carrierAmong 7300499 [(5, recOf labelBody)] = none := by decide +kernel

theorem test_report :
    (let s := { base with integrity := ⟨.normal, true, 65535, []⟩ }
     (s.report (.record h5) .supervisor).integrity = ⟨.alert, true, 65535,
       [⟨.record h5, .supervisor, 0, 65535, .alert⟩]⟩ ∧
     (s.report (.record h5) .supervisor).attention.pending.integrity = true) ∧
    (base.report (.record h5) .supervisor).integrity.state = .halted := by decide +kernel

/-- An eighth report joins the seven before it; a ninth removes the oldest. -/
theorem test_log :
    (let e (n : Nat) : LogEntry := ⟨.record ⟨n, 1⟩, .supervisor, 0, n, .alert⟩
     let seven := [e 1, e 2, e 3, e 4, e 5, e 6, e 7]
     let after (log : List LogEntry) (n : Nat) :=
       (({ base with integrity := ⟨.normal, true, n, log⟩ } : State).report (.record ⟨n + 1, 1⟩) .supervisor).integrity.log
     after seven 7 = seven ++ [e 8] ∧ after (seven ++ [e 8]) 8 = [e 2, e 3, e 4, e 5, e 6, e 7, e 8, e 9]) := by
  decide +kernel

/-! ### Rating -/

theorem test_measures : (5000 * 502 < 100 * 100 * 251 + 5000 ∧ 100 * 100 * 251 ≤ 5000 * 502) ∧
    (1000 * 999999 ≤ 999999 * 1000 ∧ 999999 * 1000 < 1000 * (999999 + 1)) ∧
    chargeableMass true 500 ⟨100, 100, 251⟩ = 502 ∧
    chargeableMass true 503 ⟨100, 100, 251⟩ = 503 ∧ Sides.girth ⟨10, 30, 20⟩ = 90 ∧
    Surcharge.holds ⟨3, .zone, .equal, 1, .fixed 5⟩ ⟨1, ⟨1, 1, 1⟩, 0, 1⟩ = true ∧
    Surcharge.lineAmount ⟨3, .zone, .always, 0, .perMille 1000⟩ 999999 = some 999999 ∧
    Surcharge.lineAmount ⟨3, .zone, .always, 0, .perMille 1000⟩ 1000000 = none ∧
    Surcharge.lineAmount ⟨3, .zone, .always, 0, .perMille 1⟩ 1999 = some 1 := by decide +kernel

theorem test_rateParcel :
    (rateParcel tariff .a 1 ⟨some 500, some ⟨100, 100, 100⟩, some 5, some 100, some 200, none, []⟩ 2).toOption =
      some paid ∧
    failsWith (rateParcel tariff .a 1 ⟨some 500, none, none, none, none, none, []⟩ 2)
      (.fault ⟨.missingAttribute, .field .sides, none⟩) = true ∧
    failsWith (rateParcel tariff .a 1 ⟨some 500, some ⟨100, 100, 100⟩, some 5, some 100, some 200, none, []⟩ 3)
      (.fault ⟨.grade, .selector ⟨.n, 1⟩, some (2, 3)⟩) = true ∧
    (rateParcel tariff .a 1 ⟨some 500, some ⟨100, 100, 100⟩, some 5, some 100, none, none, [101]⟩ 2).toOption.map
      (·.total) = some 270 := by decide +kernel

/-- Code 100 is a domestic service of grade 2 with a listed surcharge of grade 2, code 101 a redirect of grade 3 to it, code
102 that surcharge. -/
def redirecting (customs : Bool) : Bank := { tariff with
  segments := ⟨[(0, ⟨some ⟨100, 102, ⟨.n, 1⟩, none⟩, false, true⟩)]⟩
  nSlots := ⟨[(1, slotOf (.service ⟨2, (65, 66), .domestic, false, customs, ⟨.n, 4⟩, [⟨.n, 3⟩]⟩)),
    (2, slotOf (.redirect 3 ⟨.n, 1⟩)), (3, slotOf (.surcharge ⟨2, .zone, .always, 0, .fixed (-201)⟩)),
    (4, slotOf (.rate [⟨1000, prices 201⟩, ⟨40000, prices 500⟩]))]⟩ }

/-- The steps of the rating order past the first, each stopping where those before it passed. -/
theorem test_ratingSteps :
    (let service : Service := ⟨2, (65, 66), .domestic, false, false, ⟨.n, 4⟩, [⟨.n, 3⟩]⟩
     let rate (customs : Bool) (mass district code : Nat) (declared category : Option Nat) (options : List Nat) (eg : Nat) :=
       rateParcel (redirecting customs) .a 1
         ⟨some mass, some ⟨100, 100, 100⟩, some district, some code, declared, category, options⟩ eg
     (findService (redirecting false) ⟨.n, 1⟩ 1).toOption = some ⟨⟨.n, 1⟩, service, 1⟩ ∧
       (findService (redirecting false) ⟨.n, 2⟩ 3).toOption = some ⟨⟨.n, 1⟩, service, 2⟩ ∧
       (rate false 1000 9999 101 none none [] 3).toOption.map (fun q => (q.band, q.base, q.total)) = some (1, 201, 0) ∧
       (rate false 1001 9999 100 none none [] 2).toOption.map (fun q => (q.band, q.base, q.total)) = some (2, 500, 299) ∧
       failsWith (rate false 1000 10000 101 none none [] 3) (.fault ⟨.scopeMismatch, .selector ⟨.n, 1⟩, none⟩) = true ∧
       failsWith (rate true 1000 5 100 none none [] 2)
         (.fault ⟨.customsDataMissing, .field .declaredValue, none⟩) = true ∧
       failsWith (rate true 1000 5 100 (some 0) none [] 2)
         (.fault ⟨.customsDataMissing, .field .contentCategory, none⟩) = true ∧
       (rate true 1000 5 100 (some 0) (some 1) [] 2).toOption.map (·.total) = some 0 ∧
       failsWith (rate false 40001 5 100 none none [] 2) (.fault ⟨.overMassLimit, .selector ⟨.n, 4⟩, none⟩) = true ∧
       failsWith (rate false 1000 5 101 none none [102] 3)
         (.fault ⟨.grade, .selector ⟨.n, 3⟩, some (2, 3)⟩) = true ∧
       failsWith (rate false 1000 5 100 none none [102] 2) (.fault ⟨.amountRange, .field .total, none⟩) = true ∧
       (rate false 1001 5 100 none none [102] 2).toOption.map (fun q => (q.lines.length, q.total)) = some (2, 98) ∧
       failsWith (rate false 1000 5 100 none none [102, 103] 2)
         (.fault ⟨.unknownService, .code 103, none⟩) = true) := by decide +kernel

/-- Each check of a resolution at the index where it first applies, and each end of a catalogue visit. -/
theorem test_selectors : (⟨.h, 0⟩ : Selector) ≠ ⟨.n, 0⟩ ∧ tariff.hLimit = 0 ∧ tariff.limit .n ≤ 5 ∧ 4 < tariff.limit .n ∧
    failsWith (resolve tariff ⟨.n, 0⟩ .rate none) (.fault ⟨.nullSelector, .selector ⟨.n, 0⟩, none⟩) = true ∧
    failsWith (resolve tariff ⟨.h, 0⟩ .rate none) (.fault ⟨.noSupplement, .selector ⟨.h, 0⟩, none⟩) = true ∧
    failsWith (resolve tariff ⟨.n, 5⟩ .rate none) (.fault ⟨.beyondLimit, .selector ⟨.n, 5⟩, none⟩) = true ∧
    failsWith (resolve (tariff.damage (.slot ⟨.n, 4⟩)) ⟨.n, 4⟩ .rate none)
      (.fault ⟨.damagedTariff, .selector ⟨.n, 4⟩, none⟩) = true ∧
    failsWith (resolve (tariff.unsound (.slot ⟨.n, 4⟩)) ⟨.n, 4⟩ .rate none)
      (.badRead (.slot ⟨.n, 4⟩) ⟨.damagedTariff, .selector ⟨.n, 4⟩, none⟩) = true ∧
    failsWith (resolve tariff ⟨.n, 4⟩ .surcharge none) (.fault ⟨.wrongKind, .selector ⟨.n, 4⟩, none⟩) = true ∧
    failsWith (resolve tariff ⟨.n, 2⟩ .surcharge (some 4)) (.fault ⟨.grade, .selector ⟨.n, 2⟩, some (3, 4)⟩) = true ∧
    (resolve tariff ⟨.n, 2⟩ .surcharge (some 3)).toOption = some (.surcharge ⟨3, .zone, .always, 0, .fixed 50⟩) ∧
    (lookupCode tariff 101).toOption = some ⟨.n, 2⟩ ∧
    failsWith (lookupCode tariff 102) (.fault ⟨.unknownService, .code 102, none⟩) = true ∧
    failsWith (lookupCode (tariff.unsound (.segment 0)) 102)
      (.badRead (.segment 0) ⟨.damagedTariff, .code 102, none⟩) = true ∧
    failsWith (lookupCode (tariff.damage (.segment 0)) 100) (.fault ⟨.damagedTariff, .code 100, none⟩) = true ∧
    failsWith (lookupCode Bank.cleared 100) (.fault ⟨.unknownService, .code 100, none⟩) = true := by decide +kernel

/-- Each end of a zone place visit; the recheck by what it reaches; the lines RATE OPTION refuses. -/
theorem test_lookups :
    failsWith (scanZones 5 [(0, ⟨some ⟨0, 9, 1, 7⟩, true, true⟩)]) (.fault ⟨.damagedTariff, .district 5, none⟩) = true ∧
    (scanZones 5 [(0, ⟨none, false, true⟩), (1, ⟨some ⟨0, 4, 1, 7⟩, false, true⟩), (2, ⟨some ⟨5, 5, 2, 8⟩, false, true⟩)]
      ).toOption = some ⟨5, 5, 2, 8⟩ ∧
    failsWith (scanZones 5 [(0, ⟨some ⟨0, 9, 1, 7⟩, false, false⟩)])
      (.badRead (.place 0) ⟨.damagedTariff, .district 5, none⟩) = true ∧
    failsWith (scanZones 5 [(0, ⟨some ⟨6, 9, 1, 7⟩, false, true⟩)]) (.fault ⟨.noZone, .district 5, none⟩) = true ∧
    failsWith (recheck tariff 103) ⟨.code 103, none⟩ = true ∧
    failsWith (recheck (tariff.unsound (.segment 0)) 100) ⟨.code 100, some (.segment 0)⟩ = true ∧
    failsWith (recheck (tariff.damage (.slot ⟨.n, 1⟩)) 100) ⟨.selector ⟨.n, 1⟩, none⟩ = true ∧
    (let b (x : SlotCell) := { tariff with nSlots := (tariff.nSlots.insert 2 (slotOf (.redirect 1 ⟨.n, 1⟩))).insert 1 x }
     let service := slotOf (.service ⟨2, (65, 66), .both, true, false, ⟨.n, 4⟩, [⟨.n, 3⟩]⟩)
     (recheck (b service) 101).toOption = some ⟨2, (65, 66), .both, true, false, ⟨.n, 4⟩, [⟨.n, 3⟩]⟩ ∧
       failsWith (recheck (b { service with present := false }) 101) ⟨.selector ⟨.n, 1⟩, none⟩ = true ∧
       failsWith (recheck (b { service with damaged := true }) 101) ⟨.selector ⟨.n, 1⟩, none⟩ = true ∧
       failsWith (recheck (b { service with sound := false }) 101) ⟨.selector ⟨.n, 1⟩, some (.slot ⟨.n, 1⟩)⟩ = true) ∧
    (let v : OptionValues := ⟨101, ⟨100, 100, 100⟩, none, 500, 1, 200, 99999949, 0⟩
     (rateAddedOption tariff v 3).toOption = some (some ⟨⟨.n, 2⟩, 50⟩) ∧
       failsWith (rateAddedOption tariff { v with total := 99999950 } 3)
         (.fault ⟨.amountRange, .selector ⟨.n, 2⟩, none⟩) = true ∧
       failsWith (rateAddedOption (tariff.putSlot ⟨.n, 2⟩ (slotOf (.surcharge ⟨3, .zone, .always, 0, .fixed (-1)⟩))) v 3)
         (.fault ⟨.amountRange, .selector ⟨.n, 2⟩, none⟩) = true ∧
       failsWith (rateAddedOption tariff { v with code := 102 } 3) (.fault ⟨.unknownService, .code 102, none⟩) =
         true) := by decide +kernel

/-! ### Jobs -/

/-- A queued RATE and a queued re-rating on another record: the re-rating goes first, to the lowest idle unit. -/
theorem test_grantOfJob : queued.Live ∧ queued.grantState = .granting ∧ queued.unit 0 = none ∧
    queued.activeBank = some .a ∧ (queued.bank .a).state = .active 1 ∧
    queued.Finds h5 { recOf draftBody with queued := true } ∧
    queued.queue.find? (fun y => y.requester == .dispatch) = none ∧
    queued.queue.head? = some ⟨.rate, h5, .position p0, 2⟩ ∧
    yields (exec .grantOfJob queued) (State.setUnit { rating 2 true with queue := [] } 0 (some (rateJob 2))).judge =
      true ∧
    (let s := { queued.putRecord 6 { recOf labelBody with queued := true } with
       queue := [⟨.rate, h5, .position p0, 2⟩, ⟨.rerateReweigh 9 ⟨10, 10, 10⟩, ⟨6, 1⟩, .dispatch, 0⟩] }
     goesTo (exec .grantOfJob s) (fun t => (t.unit 0).any (fun j => j.entry.requester == .dispatch) &&
       t.queue.length == 1) = true) ∧
    yields (exec .grantOfJob { queued with grantState := .draining }) { queued with grantState := .draining } = true := by
  decide +kernel

/-- A read that fails at the grant ends the job at once, whatever the disturbed record holds. -/
theorem test_grantFails :
    (let s := queued.putRecord 5 ⟨p0, 3, false, true, false, labelBody⟩
     s.Live ∧ s.find h5 = some ⟨p0, 3, false, true, false, labelBody⟩ ∧ (∀ w, s.unit w = none) ∧
       (∀ y ∈ s.queue, y.requester ≠ .dispatch) ∧ (∀ y ∈ s.queue, y.requester ≠ .position p0 → y.handle ≠ h5) ∧
       (s.link (.position p0)).outstanding = some ⟨.rate, 9⟩ ∧
       answersOf (exec .grantOfJob s) = [.damaged (.record h5)] ∧
       goesTo (exec .grantOfJob s) (fun t => t.unit 0 == none && t.queue == [] && t.bankA.pins == 0 &&
         t.ctx p0 == .opened ⟨2, true⟩ none &&
         t.record 5 == some ⟨p0, 4, false, false, true, .damaged (some lab)⟩) = true) := by decide +kernel

/-- So does one for dispatch: its link is answered DAMAGED, the pending reweigh emptied, unit 1 the reader. -/
theorem test_grantFailsForDispatch :
    (let s := { (upset (put on { recOf labelBody with queued := true })).hold .dispatch .reweigh 9 with
       pendingReweigh := some ⟨h5, 7300498, 501, ⟨100, 100, 100⟩, 501, 500⟩
       queue := [⟨.rerateReweigh 501 ⟨100, 100, 100⟩, h5, .dispatch, 0⟩] }
     s.Live ∧ s.find h5 = some { recOf labelBody with queued := true, sound := false } ∧ (∀ w, s.unit w = none) ∧
       s.queue.find? (fun y => y.requester == .dispatch) = some ⟨.rerateReweigh 501 ⟨100, 100, 100⟩, h5, .dispatch, 0⟩ ∧
       (∀ y ∈ s.queue, y.requester ≠ .dispatch → y.handle ≠ h5) ∧ (s.link .dispatch).outstanding = some ⟨.reweigh, 9⟩ ∧
       answersOf (exec .grantOfJob s) = [.damaged (.record h5)] ∧
       goesTo (exec .grantOfJob s) (fun t => t.unit 0 == none && t.queue == [] && t.pendingReweigh == none &&
         t.links.dispatch.outstanding == none && t.integrity.log == [⟨.record h5, .unit 0, 0, 1, .alert⟩] &&
         t.record 5 == some { recOf (.damaged (some lab)) with changeCount := 4 }) = true) := by decide +kernel

theorem test_rateCompletion : (rating 2 true).Live ∧ (rating 2 true).unit 0 = some (rateJob 2) ∧
    ((rateJob 2).procedure ((rating 2 true).bank .a)).toOption = some (.quote paid) ∧
    (rating 2 true).Finds h5 { recOf draftBody with busy := true } ∧ (rating 2 true).graceExpired .a = false ∧
    goesTo (exec (.rateJobCompletion 0) (rating 2 true)) (fun t => t.bankA.pins == 1 && t.unit 0 == none &&
      t.ctx p0 == .opened ⟨2, true⟩ none && t.answers.map (·.answer) == [.quote h5 .rated paid] &&
      t.record 5 == some { recOf ratedBody with changeCount := 4 }) = true := by decide +kernel

/-- The grace of the job's bank has expired: the record stays DRAFT and QUOTES LAPSED is raised. -/
theorem test_rateCompletionLapsed :
    (let s := { rating 2 true with bankA := { (rating 2 true).bankA with state := .retiring 1 .expired, pins := 2 } }
     s.Live ∧ s.graceExpired .a = true ∧
       goesTo (exec (.rateJobCompletion 0) s) (fun t => t.attention.pending.quotesLapsed && t.bankA.pins == 1 &&
         t.answers.map (·.answer) == [.quote h5 .draft paid] &&
         t.record 5 == some { recOf draftBody with changeCount := 4 }) = true) := by decide +kernel

/-- A GRADE fault escalates, or is answered FAULT with the enable clear and RESET during a drain. -/
theorem test_faultedJobs :
    failsWith ((rateJob 3).procedure ((rating 3 true).bank .a)) (.fault ⟨.grade, .selector ⟨.n, 1⟩, some (2, 3)⟩) = true ∧
    (rating 3 true).ctx p0 = .working ⟨2, true⟩ false none ⟨.rate, 9, its, none⟩ ∧
    (rating 3 true).Finds h5 { recOf draftBody with busy := true } ∧
    goesTo (exec (.rateJobCompletion 0) (rating 3 true)) (fun t => t.ctx p0 == .escalated ⟨2, true⟩
      ⟨⟨.rate, 9, its, none⟩, 2, 300⟩ && t.unit 0 == none && t.bankA.pins == 0) = true ∧
    answersOf (exec (.rateJobCompletion 0) (rating 3 false)) =
      [.fault ⟨.grade, .selector ⟨.n, 1⟩, some (2, 3)⟩] ∧
    answersOf (exec (.rateJobCompletion 0) { rating 3 true with grantState := .draining }) = [.reset] := by
  decide +kernel

/-- An AMEND's job running. -/
def amending : State := busyWith (working on .amend .amend true) optionJob labelBody

theorem test_rateOptionCompletion : amending.Live ∧ amending.unit 0 = some optionJob ∧
    (optionJob.procedure (amending.bank .a)).toOption = some (.option (some ⟨⟨.n, 2⟩, 50⟩)) ∧
    amending.Finds h5 { recOf labelBody with busy := true } ∧
    goesTo (exec (.rateOptionCompletion 0) amending) (fun t =>
      t.answers.map (·.answer) == [.done (.amended h5 101 (some ⟨⟨.n, 2⟩, 50⟩) 270 50 4)] &&
      t.record 5 == some { recOf (.labelled { parcel with options := [101] }
        { paid with lines := [⟨⟨.n, 3⟩, 20⟩, ⟨⟨.n, 2⟩, 50⟩], total := 270 } lab 50 none) with changeCount := 4 }) =
      true := by decide +kernel

/-- An option whose condition does not hold adds no line; a tariff without it faults. -/
theorem test_rateOptionCompletionEnds :
    (let s := amending.setBank .a { amending.bankA with
       nSlots := tariff.nSlots.insert 2 (slotOf (.surcharge ⟨3, .zone, .above, 1, .fixed 50⟩)) }
     (optionJob.procedure (s.bank .a)).toOption = some (.option none) ∧
       answersOf (exec (.rateOptionCompletion 0) s) = [.done (.amended h5 101 none 220 0 4)]) ∧
    (let s := amending.setBank .a { amending.bankA with nSlots := tariff.nSlots.insert 2 (slotOf (.rate [])) }
     answersOf (exec (.rateOptionCompletion 0) s) = [.fault ⟨.wrongKind, .selector ⟨.n, 2⟩, none⟩]) := by decide +kernel

/-- At 1,001 g the base is 500 and the total 550: 330 short of the 220 paid. At 500 g the total is what was paid. -/
theorem test_rerate : (rerating 1001).Live ∧ (rerating 1001).unit 0 = some (rerateJob 1001) ∧
    (rerating 1001).Finds h5 { recOf labelBody with busy := true } ∧
    answersOf (exec (.rerateReweighCompletion 0) (rerating 1001)) =
      [.divert ⟨h5, 7300498, .underpaid 550 330, 1001, 4⟩] ∧
    goesTo (exec (.rerateReweighCompletion 0) (rerating 1001)) (fun t => t.attention.pending.held &&
      t.pendingReweigh == none && (t.record 5).any (fun r => r.body.isHeld)) = true ∧
    answersOf (exec (.rerateReweighCompletion 0) (rerating 500)) = [.clear ⟨h5, 7300498, .agreed, 500, 500, some 220, 4⟩] ∧
    answersOf (exec (.rerateReweighCompletion 0) (rerating 40001)) =
      [.divert ⟨h5, 7300498, .rerateFault ⟨.overMassLimit, .selector ⟨.n, 4⟩, none⟩, 40001, 4⟩] := by decide +kernel

/-- A discarded job of a position that was reset. -/
def discarded : State :=
  (rating 2 true).setUnit 0 (some { rateJob 2 with discarded := true })

theorem test_discarded : discarded.Live ∧ discarded.unit 0 = some { rateJob 2 with discarded := true } ∧
    (({ rateJob 2 with discarded := true } : Job).procedure (discarded.bank .a)).toOption = some (.quote paid) ∧
    goesTo (exec (.discardedJobCompletion 0) discarded) (fun t => t.unit 0 == none && t.bankA.pins == 0 &&
      t.answers == [] && t.record 5 == some (recOf draftBody)) = true := by decide +kernel

/-- The rate slot's read fails in the running job: marked, counted, reported by unit 1, and the job's fault at its
completion. -/
theorem test_jobReadFails :
    failsWith ((rateJob 2).procedure (((rating 2 true).bank .a).unsound (.slot ⟨.n, 4⟩)))
      (.badRead (.slot ⟨.n, 4⟩) ⟨.damagedTariff, .selector ⟨.n, 4⟩, none⟩) = true ∧
    (∀ w : UnitNo, w ≠ 0 → (rating 2 true).unit w = none) ∧
    goesTo (exec (.jobReadFailsCheck 0 (.slot ⟨.n, 4⟩)) (rating 2 true)) (fun t => t.bankA.damagedCount == 1 &&
      (t.bankA.slotCell ⟨.n, 4⟩).damaged && t.integrity.log == [⟨.bankEntry .a (.slot ⟨.n, 4⟩), .unit 0, 0, 1, .halted⟩] &&
      (t.unit 0).any (fun j => j.found == some ⟨.damagedTariff, .selector ⟨.n, 4⟩, none⟩)) = true ∧
    yields (exec (.jobReadFailsCheck 0 (.segment 1)) (rating 2 true)) (rating 2 true) = true := by decide +kernel

/-- Each sort of entry marked damaged. A failing read found while a unit runs on the other bank marks and reports the
entry and leaves the unit. -/
theorem test_damageEntry :
    (tariff.damage (.segment 0)).segmentCell 0 = ⟨none, true, true⟩ ∧
    (tariff.damage (.place 255)).placeCell 255 = ⟨none, true, true⟩ ∧
    (tariff.damage (.slot ⟨.n, 4⟩)).slotCell ⟨.n, 4⟩ = { tariff.slotCell ⟨.n, 4⟩ with present := false, damaged := true } ∧
    (tariff.damage (.slot ⟨.n, 4⟩)).slotCell ⟨.n, 3⟩ = tariff.slotCell ⟨.n, 3⟩ ∧
    (tariff.damage (.slot ⟨.n, 4⟩)).damagedCount = 1 ∧
    (let s := bankBIn (rating 2 true) .loading
     let t := s.failBankEntry .b (.segment 0) .supervisor none
     t.bank .b = (s.bank .b).damage (.segment 0) ∧ t.bankA = s.bankA ∧ t.unit 0 = s.unit 0 ∧
       t.integrity.log = [⟨.bankEntry .b (.segment 0), .supervisor, 0, 1, .halted⟩]) := by decide +kernel

/-- A job's procedure is the rating order, or RATE OPTION, with the job's values, edition and EG. -/
theorem test_procedure : (rateJob 2).seen = [] ∧ (rateJob 2).values = rateValues ∧
    ((rateJob 2).procedure tariff).toOption = some (.quote paid) ∧
    (({ rateJob 2 with edition := 9 } : Job).procedure tariff).toOption = some (.quote { paid with edition := 9 }) ∧
    (rateAddedOption tariff ⟨101, ⟨100, 100, 100⟩, none, 500, 1, 200, 220, 0⟩ 2).toOption = some (some ⟨⟨.n, 2⟩, 50⟩) ∧
    (optionJob.procedure tariff).toOption = some (.option (some ⟨⟨.n, 2⟩, 50⟩)) ∧
    failsWith ((jobOf (.rateOption 101) (.position p0) (.option ⟨101, ⟨100, 100, 100⟩, none, 500, 1, 200, 220, 0⟩) 4).procedure
      tariff) (.fault ⟨.grade, .selector ⟨.n, 2⟩, some (3, 4)⟩) = true := by decide +kernel

/-- A fault found in a failing read. -/
def rateSlotFault : FaultReport := ⟨.damagedTariff, .selector ⟨.n, 4⟩, none⟩

/-- A job that has found a fault is answered with it, whatever its procedure gives; a re-rating makes its record HELD; a
discarded job answers nobody. -/
theorem test_foundFault :
    (let found (s : State) (j : Job) := s.setUnit 0 (some { j with found := some rateSlotFault })
     (found (rating 2 true) (rateJob 2)).Live ∧
       (found (rating 2 true) (rateJob 2)).Finds h5 { recOf draftBody with busy := true } ∧
       (found (rating 2 true) (rateJob 2)).ctx p0 = .working ⟨2, true⟩ false none ⟨.rate, 9, its, none⟩ ∧
       answersOf (exec (.rateJobCompletion 0) (found (rating 2 true) (rateJob 2))) = [.fault rateSlotFault] ∧
       answersOf (exec (.rateOptionCompletion 0) (found amending optionJob)) = [.fault rateSlotFault] ∧
       answersOf (exec (.rerateReweighCompletion 0) (found (rerating 1001) (rerateJob 1001))) =
         [.divert ⟨h5, 7300498, .rerateFault rateSlotFault, 1001, 4⟩] ∧
       goesTo (exec (.discardedJobCompletion 0) (found discarded { rateJob 2 with discarded := true })) (fun t =>
         t.answers == [] && t.unit 0 == none && t.bankA.pins == 0) = true) := by decide +kernel

/-- A completion whose own procedure meets a failing read: with the alert enable clear the report halts the part and the job
stands with its fault, unanswered; with it set the job ends in the fault. -/
theorem test_completionReads :
    (let bad (s : State) (alert : Bool) : State :=
       { s with bankA := s.bankA.unsound (.slot ⟨.n, 4⟩), integrity := ⟨.normal, alert, 0, []⟩ }
     (bad (rating 2 true) false).Live ∧
       failsWith ((rateJob 2).procedure ((bad (rating 2 true) false).bank .a)) (.badRead (.slot ⟨.n, 4⟩) rateSlotFault) =
         true ∧
       goesTo (exec (.rateJobCompletion 0) (bad (rating 2 true) false)) (fun t => t.halted && t.answers == [] &&
         t.bankA.damagedCount == 1 && t.unit 0 == some { rateJob 2 with found := some rateSlotFault } &&
         t.record 5 == some { recOf draftBody with busy := true }) = true ∧
       answersOf (exec (.rateJobCompletion 0) (bad (rating 2 true) true)) = [.fault rateSlotFault] ∧
       answersOf (exec (.rerateReweighCompletion 0) (bad (rerating 1001) true)) =
         [.divert ⟨h5, 7300498, .rerateFault rateSlotFault, 1001, 4⟩] ∧
       goesTo (exec (.discardedJobCompletion 0) (bad discarded true)) (fun t => t.answers == [] && t.unit 0 == none &&
         t.bankA.damagedCount == 1) = true) := by decide +kernel

/-- A completion whose read of its record fails: no result, the record DAMAGED and reported by the unit, the job ended. -/
theorem test_completionDamaged :
    (let s := (rating 2 true).upsetRecord 5
     let t := (rerating 1001).upsetRecord 5
     s.Live ∧ s.find h5 = some { recOf draftBody with busy := true, sound := false } ∧
       (∀ w ∈ [(1 : UnitNo), 2, 3], s.unit w = none) ∧ s.queue = [] ∧
       answersOf (exec (.rateJobCompletion 0) s) = [.damaged (.record h5)] ∧
       goesTo (exec (.rateJobCompletion 0) s) (fun t => t.unit 0 == none && t.bankA.pins == 0 &&
         t.record 5 == some { recOf (.damaged none) with changeCount := 4 } &&
         t.integrity.log == [⟨.record h5, .unit 0, 0, 1, .halted⟩]) = true ∧
       answersOf (exec (.rerateReweighCompletion 0) t) = [.damaged (.record h5)] ∧
       goesTo (exec (.rerateReweighCompletion 0) t) (fun t => t.pendingReweigh == none && t.unit 0 == none) = true) := by
  decide +kernel

/-- While unit 1's job runs, another reader finds the rate slot failing: the bank is marked, and what unit 1 has read by
then is one run of its steps, whatever the free number of reads. -/
theorem test_jobsReadOn :
    ((rateJob 2).readOn ((rating 2 true).bank .a) (((rating 2 true).bank .a).unread (.slot ⟨.n, 4⟩)) 0 [] = []) ∧
    ((rateJob 2).readOn ((rating 2 true).bank .a) (((rating 2 true).bank .a).unread (.slot ⟨.n, 4⟩)) 1 []).length = 1 ∧
    ((rateJob 2).readOn ((rating 2 true).bank .a) (((rating 2 true).bank .a).unread (.slot ⟨.n, 4⟩)) 9 []).length = 5 ∧
    base.jobsReadOn .a (.segment 0) none = base := by decide +kernel

/-- A job that adds option 101 reads segment 0 twice. Marked between the two reads, the segment is met at the second, and the
job faults with the option's code; its first read stands. -/
theorem test_readsAnew :
    (let j := jobOf .rate (.position p0) (.parcel ⟨some 500, some ⟨100, 100, 100⟩, some 5, some 100, none, none, [101]⟩) 2
     let one := j.readOn tariff (tariff.unread (.segment 0)) 1 []
     let all := j.readOn tariff (tariff.unread (.segment 0)) 9 []
     one = [⟨0, .segment 0 (tariff.segmentCell 0)⟩] ∧ all.map (·.reading) = [7, 6, 5, 4, 3, 1, 0] ∧
       failsWith ({ j with seen := one }.procedure (tariff.damage (.segment 0)))
         (.fault ⟨.damagedTariff, .code 101, none⟩) = true ∧
       ({ j with seen := all }.procedure (tariff.damage (.segment 0))).toOption.isSome = true ∧
       failsWith ({ j with seen := one }.procedure (tariff.unsound (.segment 0)))
         (.badRead (.segment 0) ⟨.damagedTariff, .code 101, none⟩) = true ∧
       { j with seen := one }.view tariff 6 = tariff) := by decide +kernel

/-! ### Label numbers -/

theorem test_loadBlock : base.Serves .loadBlock .supervisor [.firstSerial 999999999, .count 1] ∧
    base.Serves .loadBlock .supervisor [.firstSerial 999999999, .count 2] ∧ 999999999 < 999999999 + 2 - 1 ∧
    (stocked base).Serves .loadBlock .supervisor [.firstSerial 110, .count 1] ∧
    yields (exec (.loadBlock hs [.firstSerial 999999999, .count 1]) base)
      (({ base with pool := ⟨[⟨999999999, 999999999, 999999999⟩], 500⟩ } : State).send .supervisor 7 0x4D
        (.done (.pool 1 1))) = true ∧
    answersOf (exec (.loadBlock hs [.firstSerial 999999999, .count 2]) base) = [.malformed] ∧
    answersOf (exec (.loadBlock hs [.firstSerial 110, .count 1]) (stocked base)) = [.overlap] ∧
    answersOf (exec (.loadBlock hs [.firstSerial 111, .count 89]) (stocked base)) = [.done (.pool 3 101)] ∧
    (∀ c ∈ (holding labelBody).table.index.cells, c.2.failed = true ∨ c.2.sound = true) ∧
    answersOf (exec (.loadBlock hs [.firstSerial 7300498, .count 1]) (holding labelBody)) = [.overlap] := by
  decide +kernel

/-- An index entry outside the range whose read fails damages its record and is answered; with a carried serial in the range
the answer is OVERLAP and nothing else changes. An entry that failed earlier counts as carried; one that fails now in the
range itself does not. -/
theorem test_loadBlockReads :
    (let s := ((holding labelBody).putRecord 6 (recOf (.labelled parcel paid { lab with serial := 7300499 } 0 none))).putIndex
       7300499 ⟨6, false, false⟩
     let load (first : Nat) := exec (.loadBlock hs [.firstSerial first, .count 1])
     s.table.index.cells = [(7300498, ⟨5, false, true⟩)] ++ (7300499, ⟨6, false, false⟩) :: [] ∧
       s.carrier 7300499 = some 6 ∧ s.unitOn (s.handleAt 6) = none ∧ s.queue = [] ∧
       yields (load 7300498 s) (s.send .supervisor 7 0x4D .overlap) = true ∧
       answersOf (load 7300497 s) = [.damaged (.indexEntry 7300499 (some ⟨6, 1⟩))] ∧
       answersOf (load 7300499 s) = [.damaged (.indexEntry 7300499 (some ⟨6, 1⟩))] ∧
       goesTo (load 7300497 s) (fun t => t.integrity.reportCount == 1 && t.pool == s.pool &&
         t.table.index.get 7300499 == some ⟨6, true, false⟩ &&
         (t.record 5).any (fun r => r.body == labelBody) && (t.record 6).any (fun r => r.body.name == .damaged)) = true ∧
       yields (load 7300499 (s.putIndex 7300499 ⟨6, true, false⟩))
         ((s.putIndex 7300499 ⟨6, true, false⟩).send .supervisor 7 0x4D .overlap) = true ∧
       goesTo (load 7300497 (s.putRecord 6 (recOf (.damaged (some { lab with serial := 7300499 }))))) (fun t =>
         t.integrity.reportCount == 1 && (t.record 6).any (fun r => r.changeCount == 3)) = true ∧
       answersOf (load 5 (base.putIndex 9 ⟨6, false, false⟩)) = [.damaged (.indexEntry 9 none)]) := by
  decide +kernel

/-- Thirty-two blocks are the limit. -/
theorem test_loadBlockLimit :
    (let s := { base with pool := ⟨List.replicate 32 ⟨1, 1, 1⟩, 500⟩ }
     s.Serves .loadBlock .supervisor [.firstSerial 5, .count 1] ∧ 32 ≤ s.pool.blocks.length ∧
       answersOf (exec (.loadBlock hs [.firstSerial 5, .count 1]) s) = [.limit]) := by decide +kernel

/-- The worked examples of the manual, and X. -/
theorem test_checkCharacter : checkCharacter 7300498 = 0 ∧ checkCharacter 7300499 = 1 ∧ checkCharacter 110 = 10 ∧
    checkCharacter 999999999 = (9 * 33) % 11 := by decide +kernel

/-! ### Changing the tariff -/

theorem test_bankRequests : base.Serves .bankClear .supervisor [.bankLetter 65] ∧ bankOf [.bankLetter 65] = some .a ∧
    (base.bank .a).state.name ∉ [BankStateName.empty, .loading, .verified, .stale] ∧
    (base.bank .b).state.name ∈ [BankStateName.empty, .loading, .verified, .stale] ∧
    answersOf (exec (.bankClear hs [.bankLetter 65]) base) = [.bankState .a .active] ∧
    answersOf (exec (.unschedule hs [.bankLetter 66]) base) = [.bankState .b .empty] ∧
    answersOf (exec (.bankVerify hs [.bankLetter 66, .editionNumber 2]) base) = [.bankState .b .empty] := by
  decide +kernel

theorem test_bankClear : (bankBIn base (.verified 2)).Serves .bankClear .supervisor [.bankLetter 66] ∧
    yields (exec (.bankClear hs [.bankLetter 66]) (bankBIn base (.verified 2)))
      (base.send .supervisor 7 0x4E (.done .plain)) = true := by decide +kernel

/-- The boundary writes of each sort, and one past each. -/
theorem test_bankWrite : base.Serves .bankWrite .supervisor [.bankLetter 66, .tableLimit 78 1024] ∧
    bankWriteOf [.bankLetter 66, .tableLimit 78 1024] = some (.limit .n 1024) ∧
    bankWriteOf [.bankLetter 66, .tableLimit 78 1025] = none ∧
    bankWriteOf [.parameters 500 100 5000000] = some (.parameters ⟨500, 100, 5000000⟩) ∧
    bankWriteOf [.parameters 501 100 5000000] = none ∧
    bankWriteOf [.segment 31 1 1 999 78 2047 255] = some (.segment 31 (some ⟨1, 999, ⟨.n, 2047⟩, none⟩)) ∧
    bankWriteOf [.segment 31 1 1 999 72 65535 31] = some (.segment 31 (some ⟨1, 999, ⟨.h, 65535⟩, some 31⟩)) ∧
    bankWriteOf [.segment 31 1 1 999 65 1 255] = none ∧
    bankWriteOf [.segment 32 1 1 999 78 2047 255] = none ∧ bankWriteOf [.segment 31 1 1 999 78 2047 32] = none ∧
    bankWriteOf [.zonePlace 255 1 0 10999 12 999] = some (.place 255 (some ⟨0, 10999, 12, 999⟩)) ∧
    bankWriteOf [.descriptorHead 78 1023 3 [1], .listBand 9 (prices 7)] =
      some (.slot ⟨.n, 1023⟩ (.rate [⟨9, prices 7⟩]) true) ∧
    bankWriteOf [.descriptorHead 78 0 3 [1]] = none ∧
    bankWriteOf [.descriptorHead 72 255 4 [3, 1, 5, 0, 0, 0, 0, 0, 1, 255, 255, 255, 255]] =
      some (.slot ⟨.h, 255⟩ (.surcharge ⟨3, .zone, .always, 0, .fixed (-1)⟩) true) ∧
    answersOf (exec (.bankWrite hs [.bankLetter 66, .tableLimit 78 1024]) base) = [.done (.bankWritten .loading 0)] ∧
    answersOf (exec (.bankWrite hs [.bankLetter 66, .tableLimit 78 1025]) base) = [.malformed] := by decide +kernel

/-- Use bytes, letters and enumerated fields that the layouts do not list, and a head of each kind. -/
theorem test_bankWriteContent :
    bankWriteOf [.segment 31 2 1 999 78 1 255] = none ∧ bankWriteOf [.zonePlace 255 2 0 1 1 1] = none ∧
    bankWriteOf [.segment 31 0 1 999 65 1 32] = some (.segment 31 none) ∧
    bankWriteOf [.tableLimit 65 1] = none ∧ bankWriteOf [.descriptorHead 65 1 0 []] = none ∧
    bankWriteOf [.descriptorHead 78 1 0 []] = some (.slot ⟨.n, 1⟩ .empty false) ∧
    bankWriteOf [.descriptorHead 78 1 1 [2, 1, 65, 66, 3, 0, 1, 78, 0, 4], .listSelector 78 3, .listSelector 72 0] =
      some (.slot ⟨.n, 1⟩ (.service ⟨2, (65, 66), .both, false, true, ⟨.n, 4⟩, [⟨.n, 3⟩, ⟨.h, 0⟩]⟩) true) ∧
    bankWriteOf [.descriptorHead 78 1 1 [2, 1, 65, 66, 4, 0, 1, 78, 0, 4]] = none ∧
    bankWriteOf [.descriptorHead 78 1 1 [2, 1, 65, 66, 3, 0, 1, 65, 0, 4]] = none ∧
    bankWriteOf [.descriptorHead 78 1 1 [2, 1, 65, 66, 3, 0, 1, 78, 0, 4], .listSelector 65 3] = none ∧
    bankWriteOf [.descriptorHead 72 0 2 [1, 0, 78, 1, 2]] = some (.slot ⟨.h, 0⟩ (.redirect 1 ⟨.n, 258⟩) false) ∧
    bankWriteOf [.descriptorHead 72 0 4 [3, 1, 0, 0, 0, 0, 0, 0, 1, 0, 0, 0, 5]] = none ∧
    bankWriteOf [.descriptorHead 72 0 4 [3, 1, 1, 7, 0, 0, 0, 0, 1, 0, 0, 0, 5]] = none ∧
    bankWriteOf [.descriptorHead 72 0 4 [3, 1, 1, 6, 0, 0, 0, 0, 3, 0, 0, 0, 5]] = none ∧
    bankWriteOf [.descriptorHead 72 0 5 [1]] = none := by decide +kernel

/-- A write over a damaged entry lowers the count. -/
theorem test_takeWrite : (tariff.damage (.segment 0)).canonical = true ∧
    (tariff.damage (.segment 0)).damagedCount = 1 ∧
    ((tariff.damage (.segment 0)).takeWrite (.segment 0 none)).damagedCount = 0 ∧
    ((tariff.damage (.segment 0)).takeWrite (.segment 0 none)).segments = .empty ∧
    ((tariff.damage (.slot ⟨.n, 2⟩)).takeWrite (.slot ⟨.n, 2⟩ .empty false)).damagedCount = 0 := by decide +kernel

theorem test_bankCopy : base.Serves .bankCopy .supervisor [.bankLetter 66] ∧ State.reset.activeBank = none ∧
    State.reset.Serves .bankCopy .supervisor [.bankLetter 66] ∧ base.activeBank = some .a ∧ tariff.canonical = true ∧
    (∀ c ∈ tariff.segments.cells, c.2.damaged = true ∨ c.2.sound = true) ∧
    (∀ c ∈ tariff.zones.cells, c.2.damaged = true ∨ c.2.sound = true) ∧
    (∀ c ∈ tariff.nSlots.cells, c.2.damaged = true ∨ c.2.sound = true) ∧
    (∀ c ∈ tariff.hSlots.cells, c.2.damaged = true ∨ c.2.sound = true) ∧
    answersOf (exec (.bankCopy hs [.bankLetter 66]) State.reset) = [.noEdition] ∧
    yields (exec (.bankCopy hs [.bankLetter 66]) base)
      ({ base with bankB := { tariff with state := .loading } }.send .supervisor 7 0x4F (.done (.edition 1))) = true := by
  decide +kernel

/-- A failing read of the source damages the source and leaves the target. -/
theorem test_bankCopyFails :
    (let s := base.upsetEntry .a (.segment 0)
     (s.bank .a).segments.cells.head? = some (0, ⟨some ⟨100, 101, ⟨.n, 1⟩, none⟩, false, false⟩) ∧
       answersOf (exec (.bankCopy hs [.bankLetter 66]) s) = [.damaged (.bankEntry .a (.segment 0))] ∧
       goesTo (exec (.bankCopy hs [.bankLetter 66]) s) (fun t => t.bankB == .cleared && t.bankA.damagedCount == 1) =
         true) := by decide +kernel

/-- The first failing read, in the order segments, places, N slots, H slots; the null slot is not copied. -/
theorem test_firstFailing :
    (let bad := SlotCell.mk .empty false false false
     let b := { tariff with hSlots := ⟨[(0, bad)]⟩, nSlots := ⟨[(0, bad), (1, bad), (2, bad)]⟩, hLimit := 1 }
     b.canonical = true ∧ b.firstFailing = some (.slot ⟨.n, 1⟩) ∧
       ({ b with nSlots := tariff.nSlots } : Bank).firstFailing = some (.slot ⟨.h, 0⟩) ∧
       (b.unsound (.place 0)).firstFailing = some (.place 0) ∧
       ((b.unsound (.place 0)).unsound (.segment 0)).firstFailing = some (.segment 0) ∧
       tariff.firstFailing = none ∧ tariff.copyOf.slotCell ⟨.n, 0⟩ = .empty) := by decide +kernel

def verify (n : Nat) : List Item := [.bankLetter 66, .editionNumber n]

theorem test_bankVerify : (bankBIn base .loading).Serves .bankVerify .supervisor (verify 2) ∧
    editionNumberOf (verify 2) = some 2 ∧ ((bankBIn base .loading).bank .b).examine = none ∧
    answersOf (exec (.bankVerify hs (verify 1)) (bankBIn base .loading)) = [.malformedEdition .editionNumber (.bank .a)] ∧
    goesTo (exec (.bankVerify hs (verify 2)) (bankBIn base .loading)) (fun t => t.bankB.state == .verified 2) = true ∧
    answersOf (exec (.bankVerify hs (verify 2)) ((bankBIn base .loading).setBank .b
      { tariff with state := .loading, segments := ⟨[(0, ⟨some ⟨9, 8, ⟨.n, 1⟩, none⟩, false, true⟩)]⟩ })) =
      [.malformedEdition .segmentForm (.entry (.segment 0))] ∧
    (tariff.putSlot ⟨.n, 3⟩ { slotOf .empty with damaged := true }).examine = some (.marked (.slot ⟨.n, 3⟩)) ∧
    (tariff.unsound (.place 0)).examine = some (.badRead (.place 0)) ∧
    (tariff.putSegment 0 ⟨some ⟨100, 101, ⟨.n, 1⟩, some 0⟩, false, true⟩).examine =
      some (.malformed .chain (.entry (.segment 0))) := by decide +kernel

/-- The damaged and the failing entry that BANK VERIFY names. -/
theorem test_bankVerifyFails :
    answersOf (exec (.bankVerify hs (verify 2)) ((bankBIn base .loading).upsetEntry .b (.place 0))) =
      [.damaged (.bankEntry .b (.place 0))] ∧
    answersOf (exec (.bankVerify hs (verify 2)) ((bankBIn base .loading).setBank .b
      { tariff.damage (.segment 3) with state := .loading })) = [.damaged (.bankEntry .b (.segment 3))] := by
  decide +kernel

/-- The steps of BANK VERIFY in their order, and the forms at their bounds. -/
theorem test_verifySteps :
    verifySegments [(3, ⟨none, false, true⟩), (4, ⟨some ⟨1, 999, ⟨.n, 1⟩, none⟩, false, true⟩),
      (5, ⟨some ⟨1, 1000, ⟨.n, 1⟩, none⟩, false, true⟩)] = some (.malformed .segmentForm (.entry (.segment 5))) ∧
    verifyPlaces (some 9) [(0, ⟨some ⟨10, 10999, 12, 999⟩, false, true⟩)] = none ∧
    verifyPlaces (some 9) [(0, ⟨some ⟨9, 9, 1, 0⟩, false, true⟩)] = some (.malformed .zoneOrder (.entry (.place 0))) ∧
    verifyPlaces none [(0, ⟨some ⟨9, 9, 13, 0⟩, false, true⟩)] = some (.malformed .zoneForm (.entry (.place 0))) ∧
    verifySlots .n 1 5 [(0, slotOf (.redirect 4 ⟨.n, 1⟩)), (4, slotOf (.redirect 4 ⟨.n, 1⟩))] =
      some (.malformed .redirectForm (.entry (.slot ⟨.n, 4⟩))) ∧
    verifySlots .h 0 1 [(0, slotOf (.rate [])), (1, slotOf (.rate []))] =
      some (.malformed .rateForm (.entry (.slot ⟨.h, 0⟩))) ∧
    verifySlots .h 0 0 [(0, slotOf (.rate []))] = none ∧
    (Descriptor.surcharge ⟨3, .zone, .always, 99999999, .perMille 1001⟩).outOfForm = some .surchargeForm ∧
    (Descriptor.service ⟨3, (65, 91), .both, true, false, ⟨.n, 4⟩, []⟩).outOfForm = some .serviceForm ∧
    tariff.examine = none ∧ (tariff.segmentCell 0).content = some ⟨100, 101, ⟨.n, 1⟩, none⟩ := by decide +kernel

def schedule (time grace : Nat) : List Item := [.bankLetter 66, .hallTime time, .grace grace]

/-- A switch already due is taken in the same step: the bank that was ACTIVE has no pins and is STALE. -/
theorem test_schedule : (bankBIn base (.verified 2)).Serves .scheduleSwitch .supervisor (schedule 1 0) ∧
    hallTimeOf (schedule 1 0) = some 1 ∧ graceOf (schedule 1 7200) = some 7200 ∧
    (bankBIn base (.verified 2)).RecordsSound ∧
    goesTo (exec (.scheduleSwitch hs (schedule 1 0)) (bankBIn base (.verified 2))) (fun t =>
      t.bankB.state == .scheduled 2 1 0) = true ∧
    goesTo (exec (.scheduleSwitch hs (schedule 0 0)) (bankBIn base (.verified 2))) (fun t =>
      t.bankB.state == .active 2 && t.bankA.state == .stale 1 && t.attention.pending.switchTaken &&
        t.answers.map (·.answer) == [.done (.bank .active)]) = true ∧
    answersOf (exec (.scheduleSwitch hs (schedule 1 0)) { bankBIn base (.verified 2) with
      bankA := { tariff with state := .scheduled 1 9 9 } }) = [.bankState .a .scheduled] ∧
    goesTo (exec (.unschedule hs [.bankLetter 66]) (bankBIn base (.scheduled 2 9 9))) (fun t =>
      t.bankB.state == .verified 2) = true := by decide +kernel

/-- A switch with grace 0 over a failing RATED record, scheduled at the hall time and reached by SET TIME: the record is
damaged, reported by the grace expiry, and the outgoing bank STALE. -/
theorem test_switchReads :
    (let lapsed (t : State) := t.bankA.state == .stale 1 && t.bankB.state == .active 2 &&
       t.integrity.log.map (·.reader) == [.graceExpiry] && !t.attention.pending.quotesLapsed &&
       t.record 5 == some { recOf (.damaged none) with changeCount := 4 }
     let s := bankBIn (upset (holding ratedBody)) (.scheduled 2 9 0)
     s.canonical = true ∧ (s.bank .b).state = .scheduled 2 9 0 ∧ (s.bank (otherBank .b)).state = .active 1 ∧
       (s.bank .a).pins = 1 ∧ s.ratedCount .a = 1 ∧ s.unitOn (s.handleAt 5) = none ∧ s.queue = [] ∧
       s.Serves .setTime .supervisor [.hallTime 9] ∧
       goesTo (exec (.setTime hs [.hallTime 9]) s) lapsed = true ∧
       goesTo (exec (.scheduleSwitch hs (schedule 0 0)) (bankBIn s (.verified 2))) lapsed = true) := by decide +kernel

/-- With a pin the bank that was ACTIVE is RETIRING with the grace; a grace of 0 expires in the same step. -/
theorem test_switch : (bankBIn (holding ratedBody) (.scheduled 2 0 5)).Live ∧
    (bankBIn base (.scheduled 2 1 5)).Live ∧ (base.bank .b).state.name ≠ .scheduled ∧
    goesTo (exec .switch (bankBIn (holding ratedBody) (.scheduled 2 0 5))) (fun t =>
      t.bankA.state == .retiring 1 (.running 5) && t.bankB.state == .active 2) = true ∧
    goesTo (exec .switch (bankBIn (holding ratedBody) (.scheduled 2 0 0))) (fun t =>
      t.bankA.state == .stale 1 && t.attention.pending.quotesLapsed) = true ∧
    yields (exec .switch (bankBIn base (.scheduled 2 1 5))) (bankBIn base (.scheduled 2 1 5)) = true ∧
    yields (exec .switch base) base = true := by decide +kernel

/-- A switch with grace 0 and pins: the grace expires in the same step, with a PRINTING record left and without. -/
theorem test_switchGraceZero :
    (let one := bankBIn (holding ratedBody) (.scheduled 2 0 0)
     let both := (one.putRecord 6 (recOf (printBody 9))).takePin .a
     one.canonical = true ∧ one.RecordsSound ∧ one.bankA.pins ≤ one.ratedCount .a ∧ 0 < one.bankA.pins ∧
       (one.takeSwitch .b).bankA.state = .stale 1 ∧ both.canonical = true ∧ both.RecordsSound ∧ both.ratedCount .a < both.bankA.pins ∧
       (both.takeSwitch .b).bankA.state = .retiring 1 .expired ∧ (both.takeSwitch .b).bankA.pins = 1 ∧
       (both.takeSwitch .b).record 5 = some { recOf draftBody with changeCount := 4 } ∧
       (both.takeSwitch .b).record 6 = some (recOf (printBody 9))) := by decide +kernel

/-- Slot 5 holds a record of bank A, RETIRING with its countdown at a time. -/
def retiring (b : RecordBody) (n : Nat) : State := { holding b with
  bankA := { (holding b).bankA with state := .retiring 1 (.running n) } }

theorem test_graceExpiry : (retiring ratedBody 0).Live ∧ ((retiring ratedBody 0).bank .a).graceDue = true ∧
    (retiring ratedBody 0).RecordsSound ∧ (retiring ratedBody 0).canonical = true ∧
    (retiring ratedBody 0).ratedCount .a = 1 ∧ (retiring (printBody 9) 0).ratedCount .a = 0 ∧
    ((retiring ratedBody 0).bank .a).pins = 1 ∧ ((retiring ratedBody 1).bank .a).graceDue = false ∧
    goesTo (exec (.graceExpiry .a) (retiring ratedBody 0)) (fun t => t.bankA.state == .stale 1 && t.bankA.pins == 0 &&
      t.attention.pending.quotesLapsed && t.record 5 == some { recOf draftBody with changeCount := 4 }) = true ∧
    goesTo (exec (.graceExpiry .a) (retiring (printBody 9) 0)) (fun t => t.bankA.state == .retiring 1 .expired &&
      !t.attention.pending.quotesLapsed) = true ∧
    yields (exec (.graceExpiry .a) (retiring ratedBody 1)) (retiring ratedBody 1) = true := by decide +kernel

/-- Two RATED records of the bank, that of slot 5 failing: it is damaged and reported by the grace expiry, and the expiry goes
on to slot 6. With none passing QUOTES LAPSED is not raised. -/
theorem test_graceExpiryReads :
    (let s := upset (retiring ratedBody 0)
     let both := (s.putRecord 6 (recOf ratedBody)).takePin .a
     s.Live ∧ (s.bank .a).graceDue = true ∧ s.canonical = true ∧ both.canonical = true ∧ both.ratedCount .a = 2 ∧
       (both.bank .a).pins = 2 ∧ both.unitOn (both.handleAt 5) = none ∧ both.queue = [] ∧
       both.record 5 = some { recOf ratedBody with sound := false } ∧ both.record 6 = some (recOf ratedBody) ∧
       goesTo (exec (.graceExpiry .a) both) (fun t => t.record 5 == some { recOf (.damaged none) with changeCount := 4 } &&
         t.record 6 == some { recOf draftBody with changeCount := 4 } && t.attention.pending.quotesLapsed &&
         t.bankA.state == .stale 1 && t.integrity.log == [⟨.record h5, .graceExpiry, 0, 1, .alert⟩]) = true ∧
       goesTo (exec (.graceExpiry .a) s) (fun t => t.bankA.state == .stale 1 && !t.attention.pending.quotesLapsed &&
         t.attention.pending.integrity) = true) := by decide +kernel

def patchOf (change grade : Nat) : List Item := [.bankLetter 65, .selector 78 1, .patchChange change grade]

theorem test_patch : base.Serves .patch .supervisor (patchOf 1 0) ∧ selectorOf (patchOf 1 0) = some ⟨.n, 1⟩ ∧
    patchChangeOf (patchOf 3 3) = some 3 ∧ patchGradeOf (patchOf 3 3) = some 3 ∧ writableSlot ⟨.n, 0⟩ = false ∧
    writableSlot ⟨.n, 1⟩ = true ∧ takenIn .patch (base.bank .a).state.name = true ∧ base.allIdle = true ∧
    (rating 2 true).allIdle = false ∧ ((base.bank .a).slotCell ⟨.n, 1⟩).sound = true ∧
    (((base.bank .a).slotCell ⟨.n, 1⟩).patched .withdraw).isSome = true ∧
    goesTo (exec (.patchWithdraw hs (patchOf 1 0)) base) (fun t => !(t.bankA.slotCell ⟨.n, 1⟩).present) = true ∧
    goesTo (exec (.patchRestore hs (patchOf 2 0)) base) (fun t => t.bankA == tariff) = true ∧
    goesTo (exec (.patchRegrade hs (patchOf 3 0)) base) (fun t =>
      (t.bankA.slotCell ⟨.n, 1⟩).content.accessGrade == some 0) = true ∧
    answersOf (exec (.patchWithdraw hs [.bankLetter 65, .selector 78 0, .patchChange 1 0]) base) = [.malformed] := by
  decide +kernel

/-- The refusals of PATCH, at taking and at application, and the rows of the table for a damaged and a failing slot. -/
theorem test_patchRefuses :
    answersOf (exec (.patchWithdraw hs [.bankLetter 66, .selector 78 1, .patchChange 1 0]) (bankBIn base .loading)) =
      [.bankState .b .loading] ∧
    answersOf (exec (.patchWithdraw hs [.bankLetter 65, .selector 78 5, .patchChange 1 0]) base) = [.malformed] ∧
    answersOf (exec (.patchRegrade hs [.bankLetter 65, .selector 78 4, .patchChange 3 1]) base) = [.malformed] ∧
    (base.patchSlot ⟨.b, ⟨.n, 1⟩, .withdraw⟩).2 = .bankState .b .empty ∧
    writableSlot ⟨.n, 1023⟩ = true ∧ writableSlot ⟨.h, 255⟩ = true ∧ writableSlot ⟨.h, 256⟩ = false ∧
    (let s := base.setBank .a (tariff.damage (.slot ⟨.n, 1⟩))
     (s.patchSlot ⟨.a, ⟨.n, 1⟩, .withdraw⟩) = (s, .done .plain) ∧
       ((s.patchSlot ⟨.a, ⟨.n, 1⟩, .restore⟩).1.bankA.slotCell ⟨.n, 1⟩).present = true ∧
       ((s.patchSlot ⟨.a, ⟨.n, 1⟩, .restore⟩).1.bankA.slotCell ⟨.n, 1⟩).sound = true ∧
       (s.patchSlot ⟨.a, ⟨.n, 1⟩, .regrade 1⟩).2 = .damaged (.bankEntry .a (.slot ⟨.n, 1⟩))) ∧
    (let s := base.setBank .a (tariff.unsound (.slot ⟨.n, 1⟩))
     (s.patchSlot ⟨.a, ⟨.n, 1⟩, .withdraw⟩).2 = .damaged (.bankEntry .a (.slot ⟨.n, 1⟩)) ∧
       (s.patchSlot ⟨.a, ⟨.n, 1⟩, .withdraw⟩).1.integrity.reportCount = 1) ∧
    ((slotOf (.redirect 1 ⟨.n, 1⟩)).patched (.regrade 3)).map (·.content) = some (.redirect 3 ⟨.n, 1⟩) ∧
    ((slotOf (.surcharge ⟨3, .zone, .always, 0, .fixed 50⟩)).patched (.regrade 0)).map (·.content) =
      some (.surcharge ⟨0, .zone, .always, 0, .fixed 50⟩) ∧
    (slotOf .empty).patched .restore = none := by decide +kernel

/-- A patch waits for the running job; no grant is taken meanwhile. -/
theorem test_patchWaits :
    (let s := { (rating 2 true).hold .supervisor .patch 7 with grantState := .patchWait ⟨.a, ⟨.n, 1⟩, .withdraw⟩ }
     yields (exec (.patchWithdraw hs (patchOf 1 0)) (rating 2 true)) s = true ∧
       yields (exec .patchApplied s) s = true ∧
       (s.setUnit 0 none).Live ∧ (s.setUnit 0 none).allIdle = true ∧
       goesTo (exec .patchApplied (s.setUnit 0 none)) (fun t => !(t.bankA.slotCell ⟨.n, 1⟩).present &&
         t.grantState == .granting && t.answers.map (·.answer) == [.done .plain]) = true) := by decide +kernel

/-! ### The dispatch line -/

/-- With no tolerance 500 g is clear and 501 g is rated again. -/
theorem test_reweigh : (holding labelBody).Serves .reweigh .dispatch (weigh 500) ∧ serialOf (weigh 500) = some 7300498 ∧
    massOf (weigh 500) = some 500 ∧ sidesOf (weigh 500) = some ⟨100, 100, 100⟩ ∧
    (holding labelBody).FindsSerial 7300498 5 (recOf labelBody) ∧
    (put State.reset (recOf labelBody)).Serves .reweigh .dispatch (weigh 500) ∧
    base.table.index.get 7300498 = none ∧
    answersOf (exec (.reweigh hd (weigh 500)) (holding labelBody)) = [.clear ⟨h5, 7300498, .agreed, 500, 500, none, 4⟩] ∧
    goesTo (exec (.reweigh hd (weigh 501)) (holding labelBody)) (fun t =>
      t.pendingReweigh == some ⟨h5, 7300498, 501, ⟨100, 100, 100⟩, 501, 500⟩ &&
        t.queue == [⟨.rerateReweigh 501 ⟨100, 100, 100⟩, h5, .dispatch, 0⟩] && t.answers == []) = true ∧
    answersOf (exec (.reweigh hd (weigh 501)) { holding labelBody with grantState := .draining }) = [.reset] ∧
    answersOf (exec (.reweigh hd (weigh 500)) (put State.reset (recOf labelBody))) = [.noEdition] := by decide +kernel

theorem test_reweighRefused : answersOf (exec (.reweigh hd (weigh 500)) base) = [.noRecord] ∧
    answersOf (exec (.reweigh hd (weigh 500)) (holding (printBody 9))) = [.notReady] ∧
    answersOf (exec (.reweigh hd (weigh 500)) (holding heldBody)) = [.hold] ∧
    (put base { recOf labelBody with queued := true }).FindsSerial 7300498 5 { recOf labelBody with queued := true } ∧
    answersOf (exec (.reweigh hd (weigh 500)) (put base { recOf labelBody with queued := true })) = [.recordBusy] := by
  decide +kernel

theorem test_handover : (holding labelBody).Serves .handover .dispatch [.serial 7300498] ∧
    (∀ x ∈ (holding labelBody).queue, x.requester ≠ .dispatch) ∧
    goesTo (exec (.handover hd [.serial 7300498]) (holding labelBody)) (fun t => t.record 5 == none &&
      t.generation 5 == 2 && t.answers.map (·.answer) == [.done (.handedOver h5 7300498 none)]) = true := by
  decide +kernel

/-- The refusals of HANDOVER. -/
theorem test_handoverRefuses :
    answersOf (exec (.handover hd [.serial 7300498]) base) = [.noRecord] ∧
    answersOf (exec (.handover hd [.serial 7300498]) (put base { recOf labelBody with busy := true })) = [.recordBusy] ∧
    (holding (.damaged (some lab))).FindsSerial 7300498 5 (recOf (.damaged (some lab))) ∧
    answersOf (exec (.handover hd [.serial 7300498]) (holding (.damaged (some lab)))) = [.damaged (.record h5)] ∧
    answersOf (exec (.handover hd [.serial 7300498]) (holding (printBody 9))) = [.notReady] ∧
    answersOf (exec (.handover hd [.serial 7300498]) (holding heldBody)) = [.hold] ∧
    answersOf (exec (.reweigh hd (weigh 500)) (holding (.damaged (some lab)))) = [.damaged (.record h5)] := by
  decide +kernel

theorem test_settle : (holding heldBody).Serves .settle .supervisor (its ++ [.settleForm 1]) ∧
    (holding heldBody).Finds h5 (recOf heldBody) ∧ settleFormOf (its ++ [.settleForm 1]) = some 1 ∧
    (holding heldBody).Serves .settle .supervisor (its ++ [.settleForm 2]) ∧
    answersOf (exec (.settleAccept hs (its ++ [.settleForm 1])) (holding heldBody)) =
      [.done (.settled h5 .settled 40 4)] ∧
    goesTo (exec (.settleVoid hs ([.serial 7300498, .settleForm 2])) (holding heldBody)) (fun t => t.record 5 == none) =
      true ∧
    answersOf (exec (.settleAccept hs (its ++ [.settleForm 1])) (holding labelBody)) = [.wrongState] ∧
    answersOf (exec (.settleVoid hs (its ++ [.settleForm 2])) (holding draftBody)) = [.wrongState] := by decide +kernel

/-- The refusals of SETTLE before the state of the record, in both forms. -/
theorem test_settleRefuses : base.Serves .settle .supervisor (its ++ [.settleForm 1]) ∧
    base.find h5 = none ∧ settleFormOf (its ++ [.settleForm 2]) = some 2 ∧
    answersOf (exec (.settleAccept hs (its ++ [.settleForm 1])) base) = [.noRecord] ∧
    answersOf (exec (.settleVoid hs [.serial 7, .settleForm 2]) base) = [.noRecord] ∧
    answersOf (exec (.settleAccept hs (its ++ [.settleForm 1])) (put base { recOf heldBody with busy := true })) =
      [.recordBusy] ∧
    answersOf (exec (.settleVoid hs (its ++ [.settleForm 2])) (holding (.damaged none))) = [.damaged (.record h5)] := by
  decide +kernel

/-! ### Hall time, attention and the soft reset -/

theorem test_setTime : base.Serves .setTime .supervisor [.hallTime 4294967295] ∧
    (bankBIn base (.scheduled 2 9 5)).Serves .setTime .supervisor [.hallTime 9] ∧
    (bankBIn base (.scheduled 2 9 5)).RecordsSound ∧
    goesTo (exec (.setTime hs [.hallTime 4294967295]) base) (fun t => t.hallTime == 4294967295) = true ∧
    goesTo (exec (.setTime hs [.hallTime 9]) (bankBIn base (.scheduled 2 9 5))) (fun t =>
      t.bankB.state == .active 2) = true ∧
    goesTo (exec (.setTime hs [.hallTime 8]) (bankBIn base (.scheduled 2 9 5))) (fun t =>
      t.bankB.state == .scheduled 2 9 5) = true := by decide +kernel

/-- A threshold lowered to the count ends the low stock; raised above it, POOL LOW becomes pending. -/
theorem test_setTimers : (stocked base).Serves .setTimers .supervisor [.lowStock 12] ∧
    goesTo (exec (.setTimers hs [.lowStock 12]) (stocked base)) (fun t => !t.attention.conditions.poolLow &&
      t.timers == ⟨90, 300⟩) = true ∧
    goesTo (exec (.setTimers hs [.lowStock 100000, .printDeadline 600, .escalationTimeout 30])
      { stocked base with pool := ⟨[⟨1, 9, 1⟩], 0⟩, attention := ⟨.none, .none, ⟨false, false, false⟩⟩ }) (fun t =>
        t.attention.pending.poolLow && t.timers == ⟨600, 30⟩) = true := by decide +kernel

theorem test_tick : base.resetAsserted = false ∧
    goesTo (exec .hallTimeTick (retiring (printBody 9) 1)) (fun t => t.hallTime == 1 &&
      t.bankA.state == .retiring 1 (.running 0) && (t.record 5).any (fun r => r == recOf (printBody 8))) = true ∧
    goesTo (exec .hallTimeTick (escalated 1 9)) (fun t => (t.ctx p0).status.normal.any (·.remaining == 8)) = true ∧
    yields (exec .hallTimeTick (halt (escalated 1 9))) { halt (escalated 1 9) with hallTime := 1 } = true ∧
    goesTo (exec .hallTimeTick { base with hallTime := 4294967295 }) (fun t => t.hallTime == 4294967295) = true := by
  decide +kernel

theorem test_attention : base.Serves .setEnables .supervisor [.enables 0x84] ∧ enablesOf [.enables 0x84] = some 0x84 ∧
    base.Serves .acknowledge .supervisor [.causes 127] ∧ causesOf [.causes 127] = some 127 ∧
    goesTo (exec (.setEnables hs [.enables 0x84]) base) (fun t => t.attention.pending.poolLow && t.line &&
      t.integrity.alertEnable) = true ∧
    goesTo (exec (.acknowledge hs [.causes 127]) { base with
      integrity := ⟨.alert, true, 1, []⟩
      attention := ⟨⟨false, true, true, false, true, false, false⟩, .none, ⟨false, true, false⟩⟩ }) (fun t =>
      t.integrity.state == .normal && t.attention.pending == ⟨false, false, true, false, false, false, false⟩) =
      true ∧
    goesTo (exec (.acknowledge hs [.causes 4]) base) (fun t => !t.attention.pending.poolLow) = true ∧
    base.attention.conditions.poolLow = true := by decide +kernel

/-- Each bit of the causes byte, in the order of the table of R193; bit 7 names none of them. -/
theorem test_causesBits :
    [1, 2, 4, 8, 16, 32, 64, 128].map Causes.ofByte =
      [⟨true, false, false, false, false, false, false⟩, ⟨false, true, false, false, false, false, false⟩,
        ⟨false, false, true, false, false, false, false⟩, ⟨false, false, false, true, false, false, false⟩,
        ⟨false, false, false, false, true, false, false⟩, ⟨false, false, false, false, false, true, false⟩,
        ⟨false, false, false, false, false, false, true⟩, .none] ∧ bitOf 0x80 7 = true ∧ bitOf 0x7F 7 = false := by
  decide +kernel

theorem test_status : (halt base).Admits .status .supervisor [.statusPart 7] ∧ statusPartOf [.statusPart 7] = some 7 ∧
    base.Admits .status .supervisor [.statusPart 1] ∧
    answersOf (exec (.status hs [.statusPart 7]) (halt base)) = [.status (.log [])] ∧
    answersOf (exec (.status hs [.statusPart 5]) (stocked base)) =
      [.status (.pool [⟨100, 110, 110⟩, ⟨200, 210, 200⟩] 12 500)] := by decide +kernel

/-- The units and the positions as STATUS reports them. -/
theorem test_statusLists : (rating 2 true).Admits .status .supervisor [.statusPart 3] ∧
    answersOf (exec (.status hs [.statusPart 3]) (rating 2 true)) = [.status (.rating
      [some ⟨.rate, h5, .a, .position p0⟩, none, none, none] [] .granting)] ∧
    goesTo (exec (.status hs [.statusPart 4]) (escalated 1 9)) (fun t =>
      match t.answers with
      | [⟨_, _, _, .status (.positions l)⟩] => l.length == 24 && l.head? == some
        ⟨.escalated, some ⟨2, true⟩, false, false, some ⟨.commit, 9, 1, 9⟩, none⟩
      | _ => false) = true := by decide +kernel

/-- A queued request is answered RESET; with a job running the soft reset stays outstanding until the drain ends. -/
theorem test_softReset : queued.Serves .softReset .supervisor [] ∧ queued.allIdle = true ∧
    (rating 2 true).Serves .softReset .supervisor [] ∧ (rating 2 true).allIdle = false ∧
    answersOf (exec (.softReset hs []) queued) = [.reset, .done .plain] ∧
    goesTo (exec (.softReset hs []) queued) (fun t => t.queue == [] && t.record 5 == some (recOf draftBody) &&
      t.ctx p0 == .opened ⟨2, true⟩ none && t.attention.pending.poolLow) = true ∧
    goesTo (exec (.softReset hs []) (rating 2 true)) (fun t => t.grantState == .draining && t.answers == [] &&
      (t.link .supervisor).outstanding == some ⟨.softReset, 7⟩) = true ∧
    goesTo (exec (.softReset hs []) (escalated 1 9)) (fun t => t.ctx p0 == .opened ⟨2, true⟩ none &&
      t.answers.map (·.answer) == [.reset, .done .plain]) = true := by decide +kernel

/-- With a job running, a SUSPENDED position over an escalation and a SCHEDULED bank: RESET to the saved request, the bank
VERIFIED, the running request left; a queued re-rating is answered RESET. -/
theorem test_softResetEffects :
    (let s := ((bankBIn (rating 2 true) (.scheduled 2 9 9)).setCtx p1
       (.suspended ⟨1, true⟩ (.escalated ⟨⟨.void, 4, its, none⟩, 1, 4⟩))).hold (.position p1) .void 4
     s.softResetEnds p0 = false ∧ s.softResetEnds p1 = true ∧ s.softResetAnswers.length = 1 ∧
       goesTo (exec (.softReset hs []) s) (fun t => t.ctx p1 == .opened ⟨1, true⟩ none &&
         (t.link (.position p1)).outstanding == none && t.bankB.state == .verified 2 &&
         (t.ctx p0).isWorking && t.answers == s.softResetAnswers) = true) ∧
    (let s := { (put on { recOf labelBody with queued := true }).hold .dispatch .reweigh 9 with
       pendingReweigh := some ⟨h5, 7300498, 501, ⟨100, 100, 100⟩, 501, 500⟩
       queue := [⟨.rerateReweigh 501 ⟨100, 100, 100⟩, h5, .dispatch, 0⟩] }
     goesTo (exec (.softReset hs []) s) (fun t => t.answers.map (·.answer) == [.reset, .done .plain] &&
       t.pendingReweigh == none && t.record 5 == some (recOf labelBody)) = true) := by decide +kernel

theorem test_drainEnd :
    (let s := { (on.hold .supervisor .softReset 9) with grantState := .draining }
     s.Live ∧ s.allIdle = true ∧ (s.link .supervisor).outstanding = some ⟨.softReset, 9⟩ ∧
       goesTo (exec .drainEnd s) (fun t => t.grantState == .granting && t.answers.map (·.answer) == [.done .plain] &&
         t.attention.pending.poolLow) = true) ∧
    yields (exec .drainEnd base) base = true := by decide +kernel

/-! ### Laws -/

/-- The laws hold of the states above, beside the reset state. -/
theorem test_laws : (stocked (holding ratedBody)).tariffLaw = true ∧ (stocked (holding ratedBody)).poolLaw = true ∧
    (stocked (holding ratedBody)).canonical = true ∧ (holding ratedBody).Judged ∧ (retiring ratedBody 0).tariffLaw = true ∧
    step { holding ratedBody with pending := [.switch] } = .next (holding ratedBody) :=
  ⟨by decide +kernel, by decide +kernel, by decide +kernel, by decide +kernel, by decide +kernel, rfl⟩

/-- What the blocks report: an ESCALATED position, the remaining count of 12 at and below the threshold, a HELD record. -/
theorem test_conditions :
    (escalated 1 9).conditions.escalation = true ∧ base.conditions.escalation = false ∧
    ({ stocked base with pool := { (stocked base).pool with threshold := 12 } } : State).conditions.poolLow = false ∧
    ({ stocked base with pool := { (stocked base).pool with threshold := 13 } } : State).conditions.poolLow = true ∧
    (holding heldBody).conditions.held = true ∧ (holding labelBody).conditions.held = false := by decide +kernel

/-- The laws of the banks, the records, the queue and the ranges hold of states with a queued, a running, an escalated and
a labelled request, so the premises of each step are met together. -/
theorem test_newLaws :
    (∀ s ∈ [holding ratedBody, holding labelBody, queued, rating 2 true, escalated 1 9, rerating 1001, lapsing 9],
      s.canonical = true ∧ s.poolLaw = true ∧ s.pinLaw = true ∧ s.editionsApart = true ∧ s.indexLaw = true ∧
        s.handLaw = true ∧ s.marksLaw = true ∧ s.requestLaw = true ∧ s.rangeLaw = true) ∧
    (holding ratedBody).record 5 = some (recOf ratedBody) ∧ RecordBody.pin ratedBody = some .a ∧
    ((rating 2 true).unit 0).map (·.bank) = some .a ∧
    goesTo (step { rating 2 true with pending := [.rateJobCompletion 0] }) (fun t => t.pinLaw && t.marksLaw &&
      t.requestLaw && t.rangeLaw && t.indexLaw && t.handLaw && t.editionsApart) = true := by decide +kernel

/-- Each of these laws refuses a state: a pin too many, one edition twice, a label without its entry, nine records in hand,
a mark without an entry, a WORKING position that waits for nothing, a grade of 4. -/
theorem test_newLawsRefuse : ((holding ratedBody).takePin .a).pinLaw = false ∧
    (bankBIn base (.verified 1)).editionsApart = false ∧ ((holding labelBody).eraseIndex 7300498).indexLaw = false ∧
    ([0, 1, 2, 3, 4, 5, 6, 7, 8].foldl (fun s n => State.putRecord s n (recOf draftBody)) base).handLaw = false ∧
    (put base { recOf draftBody with queued := true }).marksLaw = false ∧
    (working on .rate .rate true).requestLaw = false ∧ (openWith on 4 true none).rangeLaw = false := by decide +kernel

/-- A store out of order, and one that lists a default, are not in form; a bank RETIRING without pins breaks its law. -/
theorem test_lawsRefuse : ({ base with table := { base.table with generations := ⟨[(5, 2), (4, 2)]⟩ } } : State).canonical =
      false ∧
    ({ base with table := { base.table with generations := ⟨[(5, 1)]⟩ } } : State).canonical = false ∧
    ({ base with bankA := { tariff with state := .retiring 1 .expired } } : State).tariffLaw = false ∧
    (bankBIn base (.active 2)).tariffLaw = false ∧
    ({ stocked (holding labelBody) with pool := ⟨[⟨7300498, 7300498, 7300498⟩], 0⟩ } : State).poolLaw = false := by
  decide +kernel

end Sys2Proof.Tests
end

section
/-! SUPPORT. Counting the listed cells of a store, and reading a store whose every content was changed. -/
namespace Sys2Proof.Machine

variable {α : Type}

/-- Writing a key counts the new content in place of the one the key held. -/
theorem countP_insertCell (p : Nat × α → Bool) (k : Nat) (v : α) (l : List (Nat × α)) (h : risingKeys l = true) :
    (insertCell k v l).countP p + ((getCell k l).elim 0 fun w => (p (k, w)).toNat) =
      l.countP p + (p (k, v)).toNat := by
  induction l with
  | nil => cases hp : p (k, v) <;> simp [insertCell, getCell, hp]
  | cons c rest ih =>
    obtain ⟨j, w⟩ := c
    obtain ⟨ha, hr⟩ := (risingKeys_cons _ _).1 h
    simp only [insertCell, getCell]
    rcases Nat.lt_trichotomy k j with hk | rfl | hk
    · rw [if_pos hk, if_neg (by omega), getCell_above k rest hr (above_trans hk ha)]
      cases hp : p (k, v) <;> simp [hp]
    · simp only [lt_irrefl, if_false, if_true]
      cases hp : p (k, v) <;> cases hq : p (k, w) <;> simp [hp, hq]
    · rw [if_neg (by omega), if_neg (by omega), if_neg (by omega)]
      have := ih hr
      cases hq : p (j, w) <;> simp [hq] <;> omega

/-- Writing a key counts at most one cell more. -/
theorem countP_insertCell_le_succ (p : Nat × α → Bool) (k : Nat) (v : α) (l : List (Nat × α))
    (h : risingKeys l = true) : (insertCell k v l).countP p ≤ l.countP p + (p (k, v)).toNat := by
  have := countP_insertCell p k v l h
  omega

/-- Writing a content that counts only where the old one did counts no cell more. -/
theorem countP_insertCell_le (p : Nat × α → Bool) {k : Nat} {v w : α} {l : List (Nat × α)} (h : risingKeys l = true)
    (hw : getCell k l = some w) (hp : p (k, v) = true → p (k, w) = true) :
    (insertCell k v l).countP p ≤ l.countP p := by
  have := countP_insertCell p k v l h
  rw [hw] at this
  cases hv : p (k, v)
  · simp [hv] at this
    omega
  · simp [hv, hp hv] at this
    omega

/-- Unlisting a key leaves a part of the list. -/
theorem eraseCell_sublist (k : Nat) (l : List (Nat × α)) : (eraseCell k l).Sublist l := by
  induction l with
  | nil => exact .slnil
  | cons c rest ih =>
    simp only [eraseCell]
    split
    · exact List.sublist_cons_self ..
    · exact ih.cons_cons c

/-- What a key of a store holds after every content was changed. -/
theorem Table.get_mapValues (t : Table α) (f : α → α) (k : Nat) : (t.mapValues f).get k = (t.get k).map f :=
  getCell_mapValues f k t.cells

end Sys2Proof.Machine
end

section
/-! SUPPORT. What a step can do to the Parcel Record Table: its edits, and the laws of R20 to R22 that each of them
keeps. Every step's change of the table is a chain of edits, closed by the issue of a label where the step is a
COMMIT. -/
namespace Sys2Proof.Machine

/-- A record counts for the limit of R22: DRAFT, RATED or PRINTING. -/
def RecordBody.inHand (b : RecordBody) : Bool := b.isOpen || b.isPrinting

/-- The records of a table that a position has in hand (R22). -/
def RecordTable.inHand (t : RecordTable) (p : PositionNo) : Nat :=
  t.records.cells.countP fun c => c.2.owner == p && c.2.body.inHand

theorem State.ownedInHand_eq (s : State) (p : PositionNo) : s.ownedInHand p = s.table.inHand p := rfl

/-- A record `r'` can stand for `r` without touching the label index: owner and label are kept, and it is in hand only
where `r` was. -/
structure Rec.Follows (r r' : Rec) : Prop where
  owner : r'.owner = r.owner
  label : r'.body.label = r.body.label
  inHand : r'.body.inHand = true → r.body.inHand = true

/-- One edit of the record table, apart from the issue of a label. -/
inductive RecordTable.Edit : RecordTable → RecordTable → Prop
  /-- A change or a mark of a record. -/
  | rewrite {t : RecordTable} {n : Nat} {r r' : Rec} (hr : t.records.get n = some r) (hf : r.Follows r') :
      Edit t { t with records := t.records.insert n r' }
  /-- A PRINTING record loses its label (R15). -/
  | unlabel {t : RecordTable} {n : Nat} {r r' : Rec} {l : Label} (hr : t.records.get n = some r)
      (hl : r.body.label = some l) (hh : r.body.inHand = true) (ho : r'.owner = r.owner) (hn : r'.body.label = none) :
      Edit t { t with records := t.records.insert n r', index := t.index.erase l.serial }
  /-- A position with fewer than eight records in hand gets one, new (R3) or taken over (R108). -/
  | receive {t : RecordTable} {n : Nat} {r' : Rec} (hr : ∀ r, t.records.get n = some r → r.body.label = none)
      (hn : r'.body.label = none) (hc : t.inHand r'.owner < Config.ownedLimit) :
      Edit t { t with records := t.records.insert n r' }
  /-- Retirement (R5). -/
  | retire {t : RecordTable} {n : Nat} {r : Rec} (generations : Table Nat) (hr : t.records.get n = some r) :
      Edit t ⟨t.records.erase n, generations, r.body.label.elim t.index fun l => t.index.erase l.serial⟩
  /-- An index entry is marked failed (R21). -/
  | failEntry {t : RecordTable} {n : Nat} {e : IndexEntry} (he : (n, e) ∈ t.index.cells) :
      Edit t { t with index := t.index.insert n { e with failed := true } }
  /-- A second passes (R192). -/
  | tick {t : RecordTable} : Edit t { t with records := t.records.mapValues Rec.tick }
  /-- Hard reset (R198). -/
  | clear {t : RecordTable} : Edit t ⟨.empty, .empty, .empty⟩

/-- A chain of edits, closed where a COMMIT succeeds by the issue of a label with the serial the pool draws next
(R91). -/
inductive RecordTable.Becomes (pool : Pool) : RecordTable → RecordTable → Prop
  | same {t : RecordTable} : Becomes pool t t
  | edit {t u v : RecordTable} (he : t.Edit u) (hv : Becomes pool u v) : Becomes pool t v
  | label {t : RecordTable} {n serial : Nat} {r r' : Rec} {l : Label} {rest : Pool}
      (hd : pool.draw = some (serial, rest)) (hr : t.records.get n = some r) (hn : r.body.label = none)
      (hh : r.body.inHand = true) (ho : r'.owner = r.owner) (hl : r'.body.label = some l) (hs : l.serial = serial) :
      Becomes pool t { t with
        records := t.records.insert n r'
        index := t.index.insert serial ⟨n, false, true⟩ }

/-! ### The laws of a table -/

/-- The stores of a table that are looked up rise. -/
def RecordTable.Rising (t : RecordTable) : Prop :=
  risingKeys t.records.cells = true ∧ risingKeys t.index.cells = true

/-- The label index is in step with the records (R20, R21). -/
def RecordTable.Indexed (t : RecordTable) : Prop :=
  (∀ n r l, t.records.get n = some r → r.body.label = some l → ∃ e, t.index.get l.serial = some e ∧ e.slot = n) ∧
    ∀ serial e, t.index.get serial = some e → ∃ r l, t.records.get e.slot = some r ∧ r.body.label = some l ∧
      l.serial = serial

/-- No position has more than eight records in hand (R22). -/
def RecordTable.Handed (t : RecordTable) : Prop := ∀ p, t.inHand p ≤ Config.ownedLimit

/-- In a table in step no serial stands on two records. -/
theorem RecordTable.Indexed.slot_unique {t : RecordTable} (h : t.Indexed) {n m : Nat} {r r' : Rec} {l l' : Label}
    (hr : t.records.get n = some r) (hr' : t.records.get m = some r') (hl : r.body.label = some l)
    (hl' : r'.body.label = some l') (hs : l.serial = l'.serial) : n = m := by
  obtain ⟨e, he, rfl⟩ := h.1 n r l hr hl
  obtain ⟨e', he', rfl⟩ := h.1 m r' l' hr' hl'
  rw [hs, he'] at he
  rw [Option.some.inj he]

/-- The entries that lead to a labelled record stand under its label's serial. -/
theorem RecordTable.Indexed.serial_of_slot {t : RecordTable} (h : t.Indexed) {serial : Nat} {e : IndexEntry} {r : Rec}
    {l : Label} (he : t.index.get serial = some e) (hr : t.records.get e.slot = some r) (hl : r.body.label = some l) :
    l.serial = serial := by
  obtain ⟨r', l', hr', hl', hs⟩ := h.2 serial e he
  rw [hr, Option.some.injEq] at hr'
  subst hr'
  rw [hl, Option.some.injEq] at hl'
  rw [hl', hs]

/-- No entry leads to a record without a label. -/
theorem RecordTable.Indexed.slot_ne {t : RecordTable} (h : t.Indexed) {n serial : Nat} {e : IndexEntry}
    (hn : ∀ r, t.records.get n = some r → r.body.label = none) (he : t.index.get serial = some e) : e.slot ≠ n := by
  obtain ⟨r, l, hr, hl, -⟩ := h.2 serial e he
  rintro rfl
  rw [hn r hr] at hl
  cases hl

/-! ### What each edit keeps -/

theorem RecordTable.Edit.rising {t u : RecordTable} (e : t.Edit u) (h : t.Rising) : u.Rising := by
  obtain ⟨hr, hi⟩ := h
  cases e with
  | rewrite => exact ⟨risingKeys_insertCell _ _ _ hr, hi⟩
  | unlabel => exact ⟨risingKeys_insertCell _ _ _ hr, risingKeys_eraseCell _ _ hi⟩
  | receive => exact ⟨risingKeys_insertCell _ _ _ hr, hi⟩
  | @retire _ r =>
    refine ⟨risingKeys_eraseCell _ _ hr, ?_⟩
    cases r.body.label with
    | none => exact hi
    | some l => exact risingKeys_eraseCell _ _ hi
  | failEntry => exact ⟨hr, risingKeys_insertCell _ _ _ hi⟩
  | tick => exact ⟨risingKeys_map _ _ hr, hi⟩
  | clear => exact ⟨rfl, rfl⟩

/-- An unlisted key stays so when another is unlisted. -/
theorem Table.get_erase_none {α : Type} {t : Table α} {k m : Nat} (h : risingKeys t.cells = true)
    (hm : t.get m = none) : (t.erase k).get m = none := by
  by_cases hk : m = k
  · rw [hk, t.get_erase_same k h]
  · rw [t.get_erase_other k m hk, hm]

/-- No edit gives a serial an entry that had none. -/
theorem RecordTable.Edit.index_none {t u : RecordTable} (e : t.Edit u) (h : t.Rising) {serial : Nat}
    (hs : t.index.get serial = none) : u.index.get serial = none := by
  cases e with
  | rewrite | receive | tick => exact hs
  | unlabel => exact Table.get_erase_none h.2 hs
  | @retire _ r =>
    cases hl : r.body.label with
    | none => exact hs
    | some l => exact Table.get_erase_none h.2 hs
  | @failEntry n e he =>
    have hn : t.index.get n = some e := getCell_of_mem h.2 he
    rw [Table.get_insert_other _ _ _ _ (by rintro rfl; rw [hs] at hn; cases hn)]
    exact hs
  | clear => rfl

/-- A record keeps its label as a second passes. -/
theorem Rec.tick_follows (r : Rec) : r.Follows r.tick := by
  unfold Rec.tick
  split
  · rename_i h
    exact ⟨rfl, by simp [h, RecordBody.label], by simp [h, RecordBody.inHand, RecordBody.isPrinting]⟩
  · exact ⟨rfl, rfl, id⟩

/-- A record put in a slot whose record carries no label leaves the index in step. -/
theorem RecordTable.Indexed.insert_unlabelled {t : RecordTable} (h : t.Indexed) {n : Nat} {r' : Rec}
    (hr : ∀ r, t.records.get n = some r → r.body.label = none) (hn : r'.body.label = none) :
    RecordTable.Indexed { t with records := t.records.insert n r' } := by
  refine ⟨fun m r l hm hl => ?_, fun serial e he => ?_⟩
  · by_cases hmn : m = n
    · subst hmn
      rw [Table.get_insert_same, Option.some.injEq] at hm
      subst hm
      rw [hn] at hl
      cases hl
    · rw [Table.get_insert_other _ _ _ _ hmn] at hm
      exact h.1 m r l hm hl
  · obtain ⟨r, l, hm, hl⟩ := h.2 serial e he
    exact ⟨r, l, (Table.get_insert_other _ _ _ _ (h.slot_ne hr he)).trans hm, hl⟩

/-- A record that keeps its label leaves the index in step. -/
theorem RecordTable.Indexed.insert_label {t : RecordTable} (h : t.Indexed) {n : Nat} {r r' : Rec}
    (hr : t.records.get n = some r) (hl : r'.body.label = r.body.label) :
    RecordTable.Indexed { t with records := t.records.insert n r' } := by
  refine ⟨fun m q l hm hq => ?_, fun serial e he => ?_⟩
  · by_cases hmn : m = n
    · subst hmn
      rw [Table.get_insert_same, Option.some.injEq] at hm
      subst hm
      exact h.1 m r l hr (hl ▸ hq)
    · rw [Table.get_insert_other _ _ _ _ hmn] at hm
      exact h.1 m q l hm hq
  · obtain ⟨q, l, hm, hq, hs⟩ := h.2 serial e he
    by_cases hen : e.slot = n
    · rw [hen, hr, Option.some.injEq] at hm
      subst hm
      exact ⟨r', l, by rw [hen]; exact Table.get_insert_same _ _ _, hl.trans hq, hs⟩
    · exact ⟨q, l, (Table.get_insert_other _ _ _ _ hen).trans hm, hq, hs⟩

/-- A label and its entry go together: what remains of the records is in step with what remains of the index. -/
theorem RecordTable.Indexed.erase_label {t : RecordTable} (h : t.Indexed) (hi : t.Rising) {n : Nat} {r : Rec}
    {l : Label} (hr : t.records.get n = some r) (hl : r.body.label = some l) (records : Table Rec)
    (generations : Table Nat) (other : ∀ m, m ≠ n → records.get m = t.records.get m)
    (own : ∀ q, records.get n = some q → q.body.label = none) :
    RecordTable.Indexed ⟨records, generations, t.index.erase l.serial⟩ := by
  refine ⟨fun m q k hm hk => ?_, fun serial e he => ?_⟩
  · have hmn : m ≠ n := by
      rintro rfl
      rw [own q hm] at hk
      cases hk
    have hm : t.records.get m = some q := (other m hmn).symm.trans hm
    have hs : k.serial ≠ l.serial := fun hs => hmn (h.slot_unique hm hr hk hl hs)
    rw [Table.get_erase_other _ _ _ hs]
    exact h.1 m q k hm hk
  · have hs : serial ≠ l.serial := by
      rintro rfl
      rw [Table.get_erase_same _ _ hi.2] at he
      cases he
    rw [Table.get_erase_other _ _ _ hs] at he
    obtain ⟨q, k, hm, hk⟩ := h.2 serial e he
    have hen : e.slot ≠ n := fun hen => hs (h.serial_of_slot he (hen ▸ hr) hl).symm
    exact ⟨q, k, (other _ hen).trans hm, hk⟩

theorem RecordTable.Edit.indexed {t u : RecordTable} (e : t.Edit u) (hi : t.Rising) (h : t.Indexed) : u.Indexed := by
  cases e with
  | rewrite hr hf => exact h.insert_label hr hf.label
  | @unlabel n r r' l hr hl _ _ hn =>
    refine h.erase_label hi hr hl _ _ (fun m hm => Table.get_insert_other _ _ _ _ hm) fun q hq => ?_
    rw [Table.get_insert_same, Option.some.injEq] at hq
    exact hq ▸ hn
  | receive hr hn => exact h.insert_unlabelled hr hn
  | @retire n r _ hr =>
    have own (q : Rec) (hq : (t.records.erase n).get n = some q) : q.body.label = none := by
      rw [Table.get_erase_same _ _ hi.1] at hq
      cases hq
    cases hl : r.body.label with
    | some l => exact h.erase_label hi hr hl _ _ (fun m hm => Table.get_erase_other _ _ _ hm) own
    | none =>
      have unlabelled (q : Rec) (hq : t.records.get n = some q) : q.body.label = none := by
        rw [hr, Option.some.injEq] at hq
        exact hq ▸ hl
      refine ⟨fun m q k hm hk => ?_, fun serial e he => ?_⟩
      · have hmn : m ≠ n := by
          rintro rfl
          rw [own q hm] at hk
          cases hk
        exact h.1 m q k ((Table.get_erase_other _ _ _ hmn).symm.trans hm) hk
      · obtain ⟨q, k, hm, hk⟩ := h.2 serial e he
        exact ⟨q, k, (Table.get_erase_other _ _ _ (h.slot_ne unlabelled he)).trans hm, hk⟩
  | @failEntry n e he =>
    have hn : t.index.get n = some e := getCell_of_mem hi.2 he
    refine ⟨fun m q l hm hl => ?_, fun serial x hx => ?_⟩
    · obtain ⟨x, hx, hs⟩ := h.1 m q l hm hl
      by_cases hln : l.serial = n
      · rw [hln, hn, Option.some.injEq] at hx
        subst hx
        exact ⟨{ e with failed := true }, by rw [hln]; exact Table.get_insert_same _ _ _, hs⟩
      · exact ⟨x, (Table.get_insert_other _ _ _ _ hln).trans hx, hs⟩
    · by_cases hsn : serial = n
      · subst hsn
        rw [Table.get_insert_same, Option.some.injEq] at hx
        subst hx
        exact h.2 serial e hn
      · rw [Table.get_insert_other _ _ _ _ hsn] at hx
        exact h.2 serial x hx
  | tick =>
    refine ⟨fun m q l hm hl => ?_, fun serial x hx => ?_⟩
    · rw [Table.get_mapValues, Option.map_eq_some_iff] at hm
      obtain ⟨r, hr, rfl⟩ := hm
      exact h.1 m r l hr (r.tick_follows.label.symm.trans hl)
    · obtain ⟨r, l, hr, hl, hs⟩ := h.2 serial x hx
      exact ⟨r.tick, l, by rw [Table.get_mapValues, hr]; rfl, r.tick_follows.label.trans hl, hs⟩
  | clear => exact ⟨fun _ _ _ hm => (nomatch hm), fun _ _ hx => (nomatch hx)⟩

/-- A record that is in hand only where the old one was leaves no position more in hand. -/
theorem RecordTable.inHand_insert_le {t : RecordTable} (hi : t.Rising) {n : Nat} {r r' : Rec}
    (hr : t.records.get n = some r) (ho : r'.owner = r.owner) (hh : r'.body.inHand = true → r.body.inHand = true)
    (p : PositionNo) : RecordTable.inHand { t with records := t.records.insert n r' } p ≤ t.inHand p := by
  refine countP_insertCell_le _ hi.1 hr ?_
  simp only [ho, Bool.and_eq_true]
  exact And.imp_right hh

theorem RecordTable.Edit.handed {t u : RecordTable} (e : t.Edit u) (hi : t.Rising) (h : t.Handed) : u.Handed := by
  intro p
  cases e with
  | rewrite hr hf => exact (RecordTable.inHand_insert_le hi hr hf.owner hf.inHand p).trans (h p)
  | unlabel hr _ hh ho => exact (RecordTable.inHand_insert_le hi hr ho (fun _ => hh) p).trans (h p)
  | @receive n r' _ _ hc =>
    have grown := countP_insertCell_le_succ (fun c : Nat × Rec => c.2.owner == p && c.2.body.inHand) n r' _ hi.1
    refine grown.trans ?_
    have hp := h p
    by_cases hp' : r'.owner = p
    · subst hp'
      exact (Nat.add_le_add_left (Bool.toNat_le _) _).trans hc
    · simpa [beq_eq_false_iff_ne.2 hp', RecordTable.inHand] using hp
  | retire => exact ((eraseCell_sublist _ _).countP_le).trans (h p)
  | failEntry => exact h p
  | tick =>
    refine (le_of_eq_of_le List.countP_map (List.countP_mono_left fun c _ hc => ?_)).trans (h p)
    simp only [Function.comp, Bool.and_eq_true] at hc ⊢
    exact ⟨c.2.tick_follows.owner ▸ hc.1, c.2.tick_follows.inHand hc.2⟩
  | clear => exact Nat.zero_le _

/-! ### What a step keeps -/

/-- The chain of edits of a step keeps the index in step, where no serial the pool could draw has an entry. -/
theorem RecordTable.Becomes.indexed {pool : Pool} {t u : RecordTable} (b : t.Becomes pool u) (hi : t.Rising)
    (h : t.Indexed) (free : ∀ serial rest, pool.draw = some (serial, rest) → t.index.get serial = none) :
    u.Indexed := by
  induction b with
  | same => exact h
  | edit e _ ih => exact ih (e.rising hi) (e.indexed hi h) fun serial rest hd => e.index_none hi (free serial rest hd)
  | @label t n serial r r' l rest hd hr hn _ _ hl hs =>
    have none_at := free serial rest hd
    have unlabelled (q : Rec) (hq : t.records.get n = some q) : q.body.label = none := by
      rw [hr, Option.some.injEq] at hq
      exact hq ▸ hn
    refine ⟨fun m q k hm hk => ?_, fun serial' e he => ?_⟩
    · by_cases hmn : m = n
      · subst hmn
        rw [Table.get_insert_same, Option.some.injEq] at hm
        subst hm
        rw [hl, Option.some.injEq] at hk
        subst hk
        exact ⟨_, by rw [hs]; exact Table.get_insert_same _ _ _, rfl⟩
      · rw [Table.get_insert_other _ _ _ _ hmn] at hm
        obtain ⟨e, he, hen⟩ := h.1 m q k hm hk
        have hks : k.serial ≠ serial := by
          intro hks
          rw [hks, none_at] at he
          cases he
        exact ⟨e, (Table.get_insert_other _ _ _ _ hks).trans he, hen⟩
    · by_cases hss : serial' = serial
      · subst hss
        rw [Table.get_insert_same, Option.some.injEq] at he
        subst he
        exact ⟨r', l, Table.get_insert_same _ _ _, hl, hs⟩
      · rw [Table.get_insert_other _ _ _ _ hss] at he
        obtain ⟨q, k, hm, hk⟩ := h.2 serial' e he
        exact ⟨q, k, (Table.get_insert_other _ _ _ _ (h.slot_ne unlabelled he)).trans hm, hk⟩

/-- It keeps the rising keys. -/
theorem RecordTable.Becomes.rising {pool : Pool} {t u : RecordTable} (b : t.Becomes pool u) (hi : t.Rising) :
    u.Rising := by
  induction b with
  | same => exact hi
  | edit e _ ih => exact ih (e.rising hi)
  | label => exact ⟨risingKeys_insertCell _ _ _ hi.1, risingKeys_insertCell _ _ _ hi.2⟩

/-- It leaves no position more than eight records in hand. -/
theorem RecordTable.Becomes.handed {pool : Pool} {t u : RecordTable} (b : t.Becomes pool u) (hi : t.Rising)
    (h : t.Handed) : u.Handed := by
  induction b with
  | same => exact h
  | edit e _ ih => exact ih (e.rising hi) (e.handed hi h)
  | label _ hr _ hh ho => exact fun p => (RecordTable.inHand_insert_le hi hr ho (fun _ => hh) p).trans (h p)

end Sys2Proof.Machine
end

section
/-! SUPPORT. The shared operations as edits of the record table, and what a lookup that finds a record says. -/
namespace Sys2Proof.Machine

/-- The record table of one state becomes that of the other by a chain of edits, no label being issued. -/
def State.Edits (s t : State) : Prop := Relation.ReflTransGen RecordTable.Edit s.table t.table

variable {s t u : State}

/-! ### Chains of edits -/

theorem State.Edits.of_table (h : t.table = s.table) : s.Edits t := by
  unfold State.Edits
  rw [h]

theorem State.Edits.refl (s : State) : s.Edits s := .of_table rfl

theorem State.Edits.trans (h : s.Edits t) (h' : t.Edits u) : s.Edits u := Relation.ReflTransGen.trans h h'

theorem State.Edits.single (h : s.table.Edit t.table) : s.Edits t := Relation.ReflTransGen.single h

/-- A state whose table is that of the state reached is reached too. -/
theorem State.Edits.to_table (h : s.Edits t) (e : u.table = t.table) : s.Edits u := h.trans (.of_table e)

theorem State.Edits.setCtx (h : s.Edits t) (p : PositionNo) (c : Context) : s.Edits (t.setCtx p c) := h.to_table rfl

theorem State.Edits.releasePin (h : s.Edits t) (l : BankLetter) : s.Edits (t.releasePin l) :=
  h.to_table (t.releasePin_table l)

theorem State.Edits.answerRequester (h : s.Edits t) (r : Requester) (a : Answer) : s.Edits (t.answerRequester r a) :=
  h.to_table (t.answerRequester_table r a)

theorem State.Edits.raise (h : s.Edits t) (c : Cause) : s.Edits (t.raise c) := h.to_table rfl

theorem State.Edits.judge (h : s.Edits t) : s.Edits t.judge := h.to_table rfl

/-- A chain of edits may go before any other. -/
theorem State.Edits.becomes (h : s.Edits t) {pool : Pool} {v : RecordTable} (hv : t.table.Becomes pool v) :
    s.table.Becomes pool v := by
  unfold State.Edits at h
  generalize s.table = first at h ⊢
  induction h using Relation.ReflTransGen.head_induction_on with
  | refl => exact hv
  | head e _ ih => exact .edit e ih

/-! ### Changes of a record that keep its label -/

/-- A change to a body that keeps the label. -/
theorem Rec.change_follows {r : Rec} {body : RecordBody} (hl : body.label = r.body.label)
    (hh : body.inHand = true → r.body.inHand = true) : r.Follows (r.change body) := ⟨rfl, hl, hh⟩

/-- A change to a body that keeps the label and is not in hand. -/
theorem Rec.change_follows_out {r : Rec} {body : RecordBody} (hl : body.label = r.body.label)
    (hh : body.inHand = false) : r.Follows (r.change body) := ⟨rfl, hl, fun h => by rw [Rec.change, hh] at h; cases h⟩

/-- A record whose body stays. -/
theorem Rec.Follows.of_body {r r' : Rec} (ho : r'.owner = r.owner) (hb : r'.body = r.body) : r.Follows r' :=
  ⟨ho, by rw [hb], by rw [hb]; exact id⟩

theorem Rec.damage_follows (r : Rec) : r.Follows r.damage := ⟨rfl, rfl, fun h => nomatch h⟩

theorem State.putRecord_edits {n : Nat} {r r' : Rec} (hr : s.record n = some r) (hf : r.Follows r') :
    s.Edits (s.putRecord n r') := .single (.rewrite hr hf)

theorem State.markBusy_edits (s : State) (n : Nat) (m : Bool) : s.Edits (s.markBusy n m) := by
  unfold State.markBusy
  split
  · rename_i r hr
    exact State.putRecord_edits hr (.of_body rfl rfl)
  · exact .refl s

theorem State.markQueued_edits (s : State) (n : Nat) (m : Bool) : s.Edits (s.markQueued n m) := by
  unfold State.markQueued
  split
  · rename_i r hr
    exact State.putRecord_edits hr (.of_body rfl rfl)
  · exact .refl s

theorem State.join_edits (s : State) (e : QueueEntry) : s.Edits (s.join e) :=
  .trans (t := { s with queue := s.queue ++ [e] }) (.of_table rfl) (State.markQueued_edits _ _ _)

theorem State.removeEntryOf_edits (s : State) (r : Requester) : s.Edits (s.removeEntryOf r) := by
  unfold State.removeEntryOf
  split
  · exact .refl s
  · exact .trans (t := { s with queue := s.queue.filter fun x => x.requester != r }) (.of_table rfl)
      (State.markQueued_edits _ _ _)

theorem State.endJob_edits (s : State) (u : UnitNo) (j : Job) : s.Edits (s.endJob u j) :=
  (State.Edits.of_table (t := s.releasePin j.bank) (by simp)).trans
    ((State.markBusy_edits _ j.entry.handle.slot false).to_table rfl)

theorem State.endUnread_edits (s : State) (h : Handle) (subject : ReportSubject) : s.Edits (s.endUnread h subject) := by
  unfold State.endUnread
  split
  · exact .refl s
  · exact .trans (t := s.endJobOn h (.damaged subject)) (.of_table (by simp)) (State.markBusy_edits _ _ _)

/-! ### Damage and reads -/

theorem State.damageRecord_edits {n : Nat} {r : Rec} (hr : s.record n = some r) (subject : ReportSubject) :
    s.Edits (s.damageRecord n r subject) := by
  by_cases hd : ∃ l, r.body = .damaged l
  · obtain ⟨l, hl⟩ := hd
    exact .of_table (by rw [s.damageRecord_damaged n r subject l hl])
  · exact (State.putRecord_edits hr r.damage_follows).to_table
      (s.damageRecord_table n r subject fun l hl => hd ⟨l, hl⟩)

theorem State.readAt_edits {n : Nat} {r : Rec} (hr : s.record n = some r) (reader : Reader) :
    s.Edits (s.readAt reader n r).1 := by
  cases hs : r.sound
  · rw [s.readAt_failing reader n r hs]
    exact (State.damageRecord_edits hr _).to_table (State.report_table _ _ _)
  · rw [s.readAt_sound reader n r hs]
    exact .refl s

/-- A read that finds a record has changed nothing. -/
theorem State.readAt_found {n m : Nat} {r q : Rec} {reader : Reader} (h : s.readAt reader n r = (t, .found m q)) :
    t = s ∧ m = n ∧ q = r ∧ r.sound = true := by
  cases hs : r.sound
  · rw [s.readAt_failing reader n r hs] at h
    cases h
  · rw [s.readAt_sound reader n r hs] at h
    cases h
    exact ⟨rfl, rfl, rfl, rfl⟩

/-- The record a handle finds is that of its slot. -/
theorem State.record_of_find {h : Handle} {r : Rec} (hf : s.find h = some r) : s.record h.slot = some r := by
  unfold State.find at hf
  split at hf
  · rename_i q hq
    split at hf
    · rwa [hq]
    · cases hf
  · cases hf

theorem State.lookupHandle_edits (s : State) (reader : Reader) (h : Handle) : s.Edits (s.lookupHandle reader h).1 := by
  unfold State.lookupHandle
  split
  · exact .refl s
  · rename_i r hf
    exact State.readAt_edits (State.record_of_find hf) reader

/-- A handle whose lookup finds a record finds it with its check, and nothing has changed. -/
theorem State.lookupHandle_found {reader : Reader} {h : Handle} {m : Nat} {r : Rec}
    (hl : s.lookupHandle reader h = (t, .found m r)) : t = s ∧ m = h.slot ∧ s.Finds h r := by
  unfold State.lookupHandle at hl
  split at hl
  · cases hl
  · rename_i q hf
    obtain ⟨rfl, rfl, rfl, hs⟩ := State.readAt_found hl
    exact ⟨rfl, rfl, hf, hs⟩

theorem State.failIndexEntry_edits {serial : Nat} {e : IndexEntry} (he : (serial, e) ∈ s.table.index.cells)
    (reader : Reader) : s.Edits (s.failIndexEntry reader serial e).1 := by
  have first : s.Edits (s.putIndex serial { e with failed := true }) := .single (.failEntry he)
  simp only [State.failIndexEntry]
  split
  · exact first.to_table (by simp)
  · split
    · exact first.to_table (by simp)
    · rename_i r hr
      exact (first.trans (State.damageRecord_edits hr _)).to_table (State.report_table _ _ _)

theorem State.lookupSerial_edits (s : State) (reader : Reader) (serial : Nat) :
    s.Edits (s.lookupSerial reader serial).1 := by
  unfold State.lookupSerial
  split
  · exact .refl s
  · rename_i e he
    split
    · exact .refl s
    · split
      · split
        · exact .refl s
        · rename_i r hr
          exact State.readAt_edits hr reader
      · exact State.failIndexEntry_edits (mem_of_getCell he) reader

/-- A serial whose lookup finds a record finds it with its check, and nothing has changed. -/
theorem State.lookupSerial_found {reader : Reader} {serial m : Nat} {r : Rec}
    (hl : s.lookupSerial reader serial = (t, .found m r)) : t = s ∧ s.record m = some r ∧ r.sound = true := by
  unfold State.lookupSerial at hl
  split at hl
  · cases hl
  · split at hl
    · cases hl
    · split at hl
      · split at hl
        · cases hl
        · rename_i q hr
          obtain ⟨rfl, rfl, rfl, hs⟩ := State.readAt_found hl
          exact ⟨rfl, hr, hs⟩
      · cases hl

theorem State.lookupItems_edits (s : State) (reader : Reader) (items : List Item) :
    s.Edits (s.lookupItems reader items).1 := by
  unfold State.lookupItems
  split
  · exact State.lookupHandle_edits s reader _
  · split
    · exact State.lookupSerial_edits s reader _
    · exact .refl s

/-- A request whose lookup finds a record finds it with its check, and nothing has changed. -/
theorem State.lookupItems_found {reader : Reader} {items : List Item} {m : Nat} {r : Rec}
    (hl : s.lookupItems reader items = (t, .found m r)) : t = s ∧ s.record m = some r ∧ r.sound = true := by
  unfold State.lookupItems at hl
  split at hl
  · obtain ⟨rfl, rfl, hf, hs⟩ := State.lookupHandle_found hl
    exact ⟨rfl, State.record_of_find hf, hs⟩
  · split at hl
    · exact State.lookupSerial_found hl
    · cases hl

theorem readEach_edits (reader : Reader) (l : List Nat) (s : State) : s.Edits (readEach reader l s) := by
  induction l generalizing s with
  | nil => exact .refl s
  | cons n rest ih =>
    unfold readEach
    split
    · exact ih s
    · rename_i r hr
      exact (State.readAt_edits hr reader).trans (ih _)

theorem State.readAll_edits (s : State) (reader : Reader) : s.Edits (s.readAll reader) := readEach_edits reader _ s

/-! ### Retirement, the return to DRAFT, the end of print -/

theorem State.retire_table (s : State) (n : Nat) (r : Rec) : (s.retire n r).table =
    ⟨s.table.records.erase n, s.table.generations.put n (if s.generation n = 255 then 1 else s.generation n + 1) 1,
      r.body.label.elim s.table.index fun l => s.table.index.erase l.serial⟩ := by
  unfold State.retire State.freeSlot
  cases r.body.label <;> simp [State.generation, State.eraseIndex] <;> rfl

theorem State.retire_edits {n : Nat} {r : Rec} (hr : s.record n = some r) : s.Edits (s.retire n r) := by
  refine .single ?_
  rw [State.retire_table]
  exact .retire _ hr

theorem State.toDraft_table (s : State) (n : Nat) (r : Rec) (e : Entered) :
    (s.toDraft n r e).table = (s.putRecord n (r.change (.draft e))).table := by simp [State.toDraft]

/-- The entries of a record are those of a DRAFT or RATED one, which has no label and is in hand. -/
theorem RecordBody.openEntries_some {b : RecordBody} {e : Entered} (h : b.openEntries = some e) :
    b.label = none ∧ b.inHand = true := by
  cases b <;> first | exact ⟨rfl, rfl⟩ | cases h

theorem State.toDraft_edits {n : Nat} {r : Rec} {e' : Entered} (hr : s.record n = some r)
    (hb : r.body.openEntries = some e') (e : Entered) : s.Edits (s.toDraft n r e) := by
  obtain ⟨hl, hh⟩ := RecordBody.openEntries_some hb
  exact (State.putRecord_edits hr (Rec.change_follows (by rw [hl]; rfl) fun _ => hh)).to_table (s.toDraft_table n r e)

theorem State.unprint_edits {n : Nat} {r : Rec} {e : Entered} {q : Quote} {l : Label} {d : Nat}
    (hr : s.record n = some r) (hb : r.body = .printing e q l d) : s.Edits (s.unprint n r e q l) := by
  have hl : r.body.label = some l := by rw [hb]; rfl
  have hh : r.body.inHand = true := by rw [hb]; rfl
  unfold State.unprint
  dsimp only
  split
  · refine .single ?_
    rw [State.toDraft_table]
    exact .unlabel hr hl hh rfl rfl
  · exact .single (.unlabel hr hl hh rfl rfl)

/-! ### The grace expiry and the switch -/

theorem lapseEach_edits (l : List Nat) (s : State) : s.Edits (lapseEach l s).1 := by
  induction l generalizing s with
  | nil => exact .refl s
  | cons n rest ih =>
    unfold lapseEach
    split
    · exact ih s
    · rename_i r hr
      have read : s.Edits (s.readAt .graceExpiry n r).1 := State.readAt_edits hr _
      split
      · rename_i t m q hf
        obtain ⟨rfl, rfl, rfl, -⟩ := State.readAt_found hf
        split
        · rename_i e quote hb
          exact (State.toDraft_edits hr (by rw [hb]; rfl) e).trans (ih _)
        · exact ih _
      · rename_i t found hf
        rw [hf] at read
        exact read.trans (ih _)

theorem State.expireGrace_edits (s : State) (l : BankLetter) : s.Edits (s.expireGrace l) := by
  refine (lapseEach_edits (ratedOn l s.table.records.cells) s).to_table ?_
  simp only [State.expireGrace]
  (repeat' split) <;> simp

theorem State.takeSwitch_edits (s : State) (l : BankLetter) : s.Edits (s.takeSwitch l) := by
  unfold State.takeSwitch
  split
  · rename_i ed time grace _
    have out : s.Edits (((s.setBank l { s.bank l with state := .active ed }).retireOutgoing (otherBank l)
        grace).raise .switchTaken) := .of_table (by simp)
    dsimp only
    split
    · exact out.trans (State.expireGrace_edits _ _)
    · exact out
  · exact .refl s

theorem State.switchIfDue_edits (s : State) : s.Edits s.switchIfDue := by
  unfold State.switchIfDue
  split
  · exact State.takeSwitch_edits s _
  · exact .refl s

/-! ### The soft reset -/

@[simp] theorem State.softResetPosition_table (s : State) (p : PositionNo) :
    (s.softResetPosition p).table = s.table := by
  unfold State.softResetPosition
  (repeat' split) <;> simp

@[simp] theorem State.softResetDispatch_table (s : State) : s.softResetDispatch.table = s.table := by
  unfold State.softResetDispatch
  split <;> simp

/-- A fold whose every step is a chain of edits is one. -/
theorem State.Edits.foldl {α : Type} (f : State → α → State) (hf : ∀ (s : State) x, s.Edits (f s x)) (l : List α)
    (s : State) : s.Edits (l.foldl f s) := by
  induction l generalizing s with
  | nil => exact .refl s
  | cons x rest ih => exact (hf s x).trans (ih _)

theorem State.softResetQueue_edits (s : State) : s.Edits s.softResetQueue :=
  (State.Edits.foldl (fun (t : State) (e : QueueEntry) => t.markQueued e.handle.slot false)
    (fun t _ => State.markQueued_edits t _ _) s.queue s).to_table rfl

theorem State.beginDrain_edits (s : State) : s.Edits s.beginDrain := by
  have positions : s.Edits ((List.finRange 24).foldl State.softResetPosition s) :=
    State.Edits.foldl _ (fun t p => .of_table (by simp)) _ s
  have dispatch := positions.to_table (State.softResetDispatch_table _)
  exact (dispatch.trans (State.softResetQueue_edits _)).to_table (by simp only [State.beginDrain])

@[simp] theorem State.endDrain_table (s : State) : s.endDrain.table = s.table := by simp [State.endDrain]

end Sys2Proof.Machine
end

section
/-! SUPPORT. The path of a request taken apart: what a request that goes on can have done before its body. -/
namespace Sys2Proof.Machine

variable {s t : State}

/-- A request frame is not taken, is refused at once, or reaches its body (R187). -/
theorem request_cases {k : Kind} {h : Header} {ok : Bool} {body : State → Outcome}
    (hn : request k h ok s body = .next t) :
    t = s ∨ (∃ a, t = s.send h.link h.tag k.code a) ∨ body (s.hold h.link k h.tag) = .next t := by
  unfold request at hn
  split at hn
  · cases hn
    exact .inl rfl
  · split at hn
    · cases hn
      exact .inr (.inl ⟨_, rfl⟩)
    · exact .inr (.inr hn)

/-- Past HALTED (R183). -/
theorem haltedRequest_cases {k : Kind} {h : Header} {ok : Bool} {body : State → Outcome}
    (hn : haltedRequest k h ok s body = .next t) :
    t = s ∨ (∃ a, t = s.send h.link h.tag k.code a) ∨ t = (s.hold h.link k h.tag).answer h.link .halted ∨
      body (s.hold h.link k h.tag) = .next t := by
  rcases request_cases hn with h | h | h
  · exact .inl h
  · exact .inr (.inl h)
  · split at h
    · cases h
      exact .inr (.inr (.inl rfl))
    · exact .inr (.inr (.inr h))

/-- Past the judgement of Position Control (R117). -/
theorem positionRequest_cases {k : Kind} {h : Header} {ok : Bool}
    {body : PositionNo → Session → Option Reservation → State → Outcome}
    (hn : positionRequest k h ok s body = .next t) :
    t = s ∨ (∃ a, t = s.send h.link h.tag k.code a) ∨ (∃ l a, t = (s.hold h.link k h.tag).answer l a) ∨
      ∃ p session res, h.link = .position p ∧ s.ctx p = .opened session res ∧
        body p session res (s.hold h.link k h.tag) = .next t := by
  rcases request_cases hn with h | h | h
  · exact .inl h
  · exact .inr (.inl h)
  · refine .inr (.inr ?_)
    split at h
    · rename_i p hp
      split at h
      · cases h
        exact .inl ⟨_, _, rfl⟩
      · cases hc : s.ctx p with
        | opened session res =>
          rw [State.ctx_hold, hc] at h
          exact .inr ⟨p, session, res, hp, hc, h⟩
        | _ =>
          rw [State.ctx_hold, hc] at h
          cases h
          exact .inl ⟨_, _, rfl⟩
    · cases h
      exact .inl ⟨_, _, rfl⟩

/-- Past the record that a position's request names by handle (R80, checks 5 to 7). -/
theorem withRecord_cases {p : PositionNo} {items : List Item} {refusing : Rec → Bool}
    {body : Handle → Rec → State → Outcome} (hn : withRecord p items s refusing body = .next t) :
    (∃ a, t = s.answer (.position p) a) ∨
    (∃ h a, t = ((s.lookupHandle (.position p) h).1.answer (.position p) a).judge) ∨
      ∃ h r, handleOf items = some h ∧ s.Finds h r ∧ refusing r = false ∧ (∀ l, r.body ≠ .damaged l) ∧
        body h r s = .next t := by
  unfold withRecord at hn
  split at hn
  · cases hn
    exact .inl ⟨_, rfl⟩
  · rename_i h hh
    split at hn
    · rename_i u hl
      have : u = s := by
        unfold State.lookupHandle at hl
        split at hl
        · exact (congrArg Prod.fst hl).symm
        · unfold State.readAt at hl
          split at hl <;> cases hl
      subst this
      cases hn
      exact .inl ⟨_, rfl⟩
    · rename_i u subject hl
      cases hn
      exact .inr (.inl ⟨h, _, by rw [hl]⟩)
    · rename_i u m r hl
      obtain ⟨rfl, -, hf⟩ := State.lookupHandle_found hl
      split at hn
      · cases hn
        exact .inl ⟨_, rfl⟩
      · rename_i hr
        split at hn
        · cases hn
          exact .inl ⟨_, rfl⟩
        · rename_i hb
          exact .inr (.inr ⟨h, r, hh, hf, by simpa using hr, hb, hn⟩)

end Sys2Proof.Machine
end

section
/-! SUPPORT. Every command changes the record table by a chain of edits, or by the issue of a label: one lemma for each
part of the path of a request, one for each command that writes the table. -/
namespace Sys2Proof.Machine

/-- Wherever an outcome goes on, it leaves the record table as a chain of edits, or the issue of a label, does. -/
def State.EditsTo (s : State) (o : Outcome) : Prop := ∀ t, o = .next t → s.table.Becomes s.pool t.table

variable {s t : State}

theorem State.EditsTo.next (h : s.Edits t) : s.EditsTo (.next t) := by
  rintro _ ⟨⟩
  exact h.becomes .same

/-- The table stands as it did. -/
theorem State.EditsTo.keep (h : t.table = s.table) : s.EditsTo (.next t) := .next (.of_table h)

/-- An answer, given after a chain of edits. -/
theorem State.EditsTo.reply (h : s.Edits t) (l : Link) (a : Answer) : s.EditsTo (t.reply l a) :=
  .next (h.to_table (by simp))

/-- An answer and the judgement of the conditions, after a chain of edits. -/
theorem State.EditsTo.finish (h : s.Edits t) (l : Link) (a : Answer) : s.EditsTo (t.finish l a) :=
  .next (h.to_table (by simp))

/-- The judgement of the conditions after a chain of edits. -/
theorem State.EditsTo.judge (h : s.Edits t) : s.EditsTo (.next t.judge) := .next (h.to_table rfl)

/-- A chain of edits that leaves the pool may go first. -/
theorem State.EditsTo.after (h : s.Edits t) (hp : t.pool = s.pool) {o : Outcome} (ho : t.EditsTo o) : s.EditsTo o := by
  intro v hv
  have := ho v hv
  rw [hp] at this
  exact h.becomes this

/-! ### The path of a request -/

theorem request_editsTo {k : Kind} {h : Header} {ok : Bool} {body : State → Outcome}
    (hb : ∀ s : State, s.EditsTo (body s)) : s.EditsTo (request k h ok s body) := by
  intro t ht
  rcases request_cases ht with rfl | ⟨a, rfl⟩ | hn
  · exact .same
  · exact .same
  · exact State.EditsTo.after (.of_table (by simp [State.hold])) (by simp [State.hold]) (hb _) t hn

theorem haltedRequest_editsTo {k : Kind} {h : Header} {ok : Bool} {body : State → Outcome}
    (hb : ∀ s : State, s.EditsTo (body s)) : s.EditsTo (haltedRequest k h ok s body) :=
  request_editsTo fun s => by
    split
    · exact .reply (.refl s) _ _
    · exact hb s

theorem positionRequest_editsTo {k : Kind} {h : Header} {ok : Bool}
    {body : PositionNo → Session → Option Reservation → State → Outcome}
    (hb : ∀ p session res (s : State), s.EditsTo (body p session res s)) :
    s.EditsTo (positionRequest k h ok s body) := by
  intro t ht
  have held : s.Edits (s.hold h.link k h.tag) := .of_table (by simp [State.hold])
  rcases positionRequest_cases ht with rfl | ⟨a, rfl⟩ | ⟨l, a, rfl⟩ | ⟨p, session, res, -, -, hn⟩
  · exact .same
  · exact .same
  · exact State.EditsTo.reply held l a _ rfl
  · exact State.EditsTo.after held (by simp [State.hold]) (hb p session res _) t hn

theorem withRecord_editsTo {p : PositionNo} {items : List Item} {refusing : Rec → Bool}
    {body : Handle → Rec → State → Outcome}
    (hb : ∀ h r, s.Finds h r → s.record h.slot = some r → s.EditsTo (body h r s)) :
    s.EditsTo (withRecord p items s refusing body) := by
  intro t ht
  rcases withRecord_cases ht with ⟨a, rfl⟩ | ⟨h, a, rfl⟩ | ⟨h, r, -, hf, -, -, hn⟩
  · exact State.EditsTo.reply (.refl s) _ a _ rfl
  · exact State.EditsTo.finish (State.lookupHandle_edits s _ h) _ a _ rfl
  · exact hb h r hf (State.record_of_find hf.1) t hn

theorem atPosition_editsTo {k : Kind} {h : Header} {items : List Item} {body : PositionNo → State → Outcome}
    (hb : ∀ p (s : State), s.EditsTo (body p s)) : s.EditsTo (atPosition k h items s body) :=
  haltedRequest_editsTo fun s => by
    split
    · exact .reply (.refl s) _ _
    · exact hb _ s

theorem bankRequest_editsTo {k : Kind} {h : Header} {items : List Item} {body : BankLetter → State → Outcome}
    (hb : ∀ l (s : State), s.EditsTo (body l s)) : s.EditsTo (bankRequest k h items s body) :=
  haltedRequest_editsTo fun s => by
    split
    · exact .reply (.refl s) _ _
    · split
      · exact hb _ s
      · exact .reply (.refl s) _ _

theorem labelledBySerial_editsTo {l : Link} {serial : Nat} {refusing : Rec → Bool}
    {body : Nat → Rec → Entered → Quote → Label → Nat → Option ReweighPart → State → Outcome}
    (hb : ∀ n r e q lab adj rw, s.record n = some r → r.body = .labelled e q lab adj rw →
      s.EditsTo (body n r e q lab adj rw s)) : s.EditsTo (labelledBySerial l serial refusing s body) := by
  have read := State.lookupSerial_edits s .dispatch serial
  unfold labelledBySerial
  split
  · rename_i t h
    rw [h] at read
    exact .reply read _ _
  · rename_i t subject h
    rw [h] at read
    exact .finish read _ _
  · rename_i t n r h
    obtain ⟨rfl, hr, -⟩ := State.lookupSerial_found h
    split
    · exact .reply (.refl _) _ _
    · split
      · exact .reply (.refl _) _ _
      · exact .reply (.refl _) _ _
      · exact .reply (.refl _) _ _
      · exact hb _ _ _ _ _ _ _ hr ‹_›
      · exact .reply (.refl _) _ _
      · exact .reply (.refl _) _ _

theorem heldRecord_editsTo {l : Link} {items : List Item}
    {body : Nat → Rec → Entered → Quote → Label → Nat → ReweighPart → State → Outcome}
    (hb : ∀ n r e q lab adj rw reason, s.record n = some r → r.body = .held e q lab adj rw reason →
      s.EditsTo (body n r e q lab adj rw s)) : s.EditsTo (heldRecord l items s body) := by
  have read := State.lookupItems_edits s .supervisor items
  unfold heldRecord
  split
  · rename_i t h
    rw [h] at read
    exact .reply read _ _
  · rename_i t subject h
    rw [h] at read
    exact .finish read _ _
  · rename_i t n r h
    obtain ⟨rfl, hr, -⟩ := State.lookupItems_found h
    split
    · exact .reply (.refl _) _ _
    · split
      · exact .reply (.refl _) _ _
      · exact hb _ _ _ _ _ _ _ _ hr ‹_›
      · exact .reply (.refl _) _ _

end Sys2Proof.Machine
end

section
/-! SUPPORT. Every command changes the record table by a chain of edits, or by the issue of a label: the commands. -/
namespace Sys2Proof.Machine

variable {s t : State}

/-! ### Acceptance and shared records (05, 06) -/

/-- The lowest free key is not listed. -/
theorem Table.get_of_lowestFree {α : Type} (t : Table α) {fuel k n : Nat} (h : t.lowestFree fuel k = some n) :
    t.get n = none := by
  induction fuel generalizing k with
  | zero => cases h
  | succ fuel ih =>
    simp only [Table.lowestFree] at h
    split at h
    · cases h
      assumption
    · exact ih h

/-- Where a position has room, a record without a label may be put in a slot whose record has none. -/
theorem State.putRecord_receives {n : Nat} {r' : Rec} (hr : ∀ r, s.record n = some r → r.body.label = none)
    (hn : r'.body.label = none) (hc : ¬ Config.ownedLimit ≤ s.ownedInHand r'.owner) : s.Edits (s.putRecord n r') :=
  .single (.receive hr hn (Nat.lt_of_not_le hc))

theorem execNewParcel_editsTo (h : Header) (items : List Item) : s.EditsTo (execNewParcel h items s) :=
  positionRequest_editsTo fun p _ _ s => by
    have read := State.readAll_edits s (.position p)
    dsimp only
    split
    · exact .finish read _ _
    · rename_i hc
      split
      · exact .finish read _ _
      · rename_i n hn
        refine .finish (read.trans (State.putRecord_receives (fun r hr => ?_) rfl hc)) _ _
        have free := Table.get_of_lowestFree _ hn
        rw [State.record, free] at hr
        cases hr

theorem execSetAttributes_editsTo (h : Header) (items : List Item) : s.EditsTo (execSetAttributes h items s) :=
  positionRequest_editsTo fun p _ _ s => withRecord_editsTo fun hd r _ hr => by
    split
    · exact .reply (.refl s) _ _
    · split
      · exact .reply (.refl s) _ _
      · rename_i e he
        split
        · exact .reply (.refl s) _ _
        · split
          · exact .reply (.refl s) _ _
          · split
            · exact .reply (.refl s) _ _
            · exact .finish (State.toDraft_edits hr he _) _ _

theorem rateRequest_editsTo (p : PositionNo) (session : Session) (res : Option Reservation) (eg : Nat) (tag : Tag)
    (items : List Item) : s.EditsTo (rateRequest p session res eg tag items s) :=
  withRecord_editsTo fun hd r _ hr => by
    split
    · exact .reply (.refl s) _ _
    · split
      · exact .reply (.refl s) _ _
      · rename_i e he
        split
        · exact .reply (.refl s) _ _
        · split
          · exact .reply (.refl s) _ _
          · dsimp only
            split
            · exact .judge (((State.toDraft_edits hr he e).trans (State.join_edits _ _)).setCtx _ _)
            · exact .judge ((State.join_edits s _).setCtx _ _)

/-- The issue of a label (R91). -/
theorem issueLabel_editsTo {p : PositionNo} {hd : Handle} {r : Rec} {e : Entered} {q : Quote} {serial : Nat}
    {pool : Pool} (service : Service) (z : Zone) (hr : s.record hd.slot = some r) (hb : r.body = .rated e q)
    (hd' : s.pool.draw = some (serial, pool)) : s.EditsTo (issueLabel p hd r e q serial pool service z s) := by
  rintro _ ⟨⟩
  simp only [State.judge_table, State.answer_table]
  exact .label (l := labelFor service z serial s.hallTime) hd' hr (by rw [hb]; rfl) (by rw [hb]; rfl) rfl rfl rfl

theorem commitRequest_editsTo (p : PositionNo) (session : Session) (eg : Nat) (tag : Tag) (items : List Item) :
    s.EditsTo (commitRequest p session eg tag items s) :=
  withRecord_editsTo fun hd r _ hr => by
    split
    · exact .reply (.refl s) _ _
    · split
      · rename_i e q hb
        have he : r.body.openEntries = some e := by rw [hb]; rfl
        dsimp only
        split
        · split
          · rename_i entry _
            have failed : s.Edits (s.failBankEntry q.bank entry (.position p) none) := .of_table (by simp)
            exact .finish (failed.trans (State.toDraft_edits (by simpa [State.record] using hr) he e)) _ _
          · exact .finish (State.toDraft_edits hr he e) _ _
        · split
          · exact .keep (by simp)
          · split
            · exact .reply (.refl s) _ _
            · rename_i serial pool hdraw
              split
              · exact issueLabel_editsTo _ _ hr hb hdraw
              · exact .finish (.of_table (by simp)) _ _
              · split
                · exact .reply (.refl s) _ _
                · exact .reply (.refl s) _ _
      · exact .reply (.refl s) _ _

theorem execPrinted_editsTo (h : Header) (items : List Item) : s.EditsTo (execPrinted h items s) :=
  positionRequest_editsTo fun p _ _ s => withRecord_editsTo fun hd r _ hr => by
    split
    · exact .reply (.refl s) _ _
    · split
      · rename_i e q l d hb
        split
        · exact .finish ((State.putRecord_edits hr (Rec.change_follows_out (by rw [hb]; rfl) rfl)).releasePin _) _ _
        · exact .reply (.refl s) _ _
      · exact .reply (.refl s) _ _

theorem execSpoilt_editsTo (h : Header) (items : List Item) : s.EditsTo (execSpoilt h items s) :=
  positionRequest_editsTo fun p _ _ s => withRecord_editsTo fun hd r _ hr => by
    split
    · exact .reply (.refl s) _ _
    · split
      · split
        · exact .finish (State.unprint_edits hr ‹_›) _ _
        · exact .reply (.refl s) _ _
      · exact .reply (.refl s) _ _

theorem execPrintDeadlineExpiry_editsTo (n : Nat) : s.EditsTo (execPrintDeadlineExpiry n s) := by
  unfold execPrintDeadlineExpiry
  split
  · exact .keep rfl
  · split
    · exact .keep rfl
    · rename_i r hr
      split
      · have read := State.readAt_edits hr .printDeadline
        split
        · rename_i u m q hf
          obtain ⟨rfl, rfl, rfl, -⟩ := State.readAt_found hf
          split
          · exact .next ((State.unprint_edits hr ‹_›).to_table (by simp))
          · exact .keep rfl
        · rename_i u found hf
          rw [hf] at read
          exact .next (read.to_table (by simp))
      · exact .keep rfl

theorem execQuery_editsTo (h : Header) (items : List Item) : s.EditsTo (execQuery h items s) :=
  positionRequest_editsTo fun p session _ s => by
    have read := State.lookupItems_edits s (.position p) items
    split <;> rename_i hl <;> rw [hl] at read
    · exact .reply read _ _
    · exact .finish read _ _
    · dsimp only
      split
      · exact .reply (read.to_table (by simp)) _ _
      · exact .reply read _ _

theorem execQuerySupervisor_editsTo (h : Header) (items : List Item) : s.EditsTo (execQuerySupervisor h items s) :=
  haltedRequest_editsTo fun s => by
    have read := State.lookupItems_edits s .supervisor items
    split <;> rename_i hl <;> rw [hl] at read
    · exact .reply read _ _
    · exact .finish read _ _
    · exact .reply read _ _

theorem amendRequest_editsTo (p : PositionNo) (session : Session) (presented : Option Reservation) (eg : Nat)
    (tag : Tag) (items : List Item) : s.EditsTo (amendRequest p session presented eg tag items s) :=
  withRecord_editsTo fun hd r _ _ => by
    have lost : s.Edits (s.setCtx p (.opened session none)) := .of_table (by simp)
    dsimp only
    split
    · exact .reply lost _ _
    · split
      · split
        · exact .reply lost _ _
        · split
          · exact .reply lost _ _
          · split
            · exact .reply lost _ _
            · split
              · exact .keep (by simp)
              · split
                · exact .reply lost _ _
                · exact .judge ((lost.trans (State.join_edits _ _)).setCtx _ _)
      · exact .reply lost _ _

/-- A record that passes its check stands as it did after the reading of other records. -/
theorem readEach_record_sound (reader : Reader) (l : List Nat) {n : Nat} {r : Rec} (hs : r.sound = true) (s : State)
    (hr : s.record n = some r) : (readEach reader l s).record n = some r := by
  induction l generalizing s with
  | nil => exact hr
  | cons m rest ih =>
    unfold readEach
    split
    · exact ih s hr
    · rename_i q hq
      refine ih _ ?_
      cases hqs : q.sound
      · have hne : n ≠ m := by
          rintro rfl
          rw [hr, Option.some.injEq] at hq
          rw [← hq, hs] at hqs
          cases hqs
        rw [State.readAt_failing _ _ _ _ hqs]
        exact (congrArg (fun t : RecordTable => t.records.get n) (State.report_table _ _ _)).trans
          ((s.damageRecord_record_other _ _ _ _ hne).trans hr)
      · rw [State.readAt_sound _ _ _ _ hqs]
        exact hr

theorem State.readAll_record_sound (s : State) (reader : Reader) {n : Nat} {r : Rec} (hs : r.sound = true)
    (hr : s.record n = some r) : (s.readAll reader).record n = some r := readEach_record_sound reader _ hs s hr

/-- A DRAFT or RATED record has no label. -/
theorem RecordBody.label_of_isOpen {b : RecordBody} (h : b.isOpen = true) : b.label = none := by
  cases b <;> first | rfl | cases h

theorem execTakeOver_editsTo (h : Header) (items : List Item) : s.EditsTo (execTakeOver h items s) :=
  positionRequest_editsTo fun p session res s => withRecord_editsTo fun hd r hf hr => by
    have lost : s.Edits (s.setCtx p (.opened session none)) := .of_table (by simp)
    dsimp only
    split
    · exact .reply lost _ _
    · split
      · exact .reply lost _ _
      · rename_i ho
        have hl : r.body.label = none := RecordBody.label_of_isOpen (by simpa using ho)
        split
        · exact .reply lost _ _
        · have read := lost.trans (State.readAll_edits _ (.position p))
          split
          · exact .finish read _ _
          · rename_i hc
            refine .finish (read.trans (State.putRecord_receives (r' := { r.change r.body with owner := p })
              (fun q hq => ?_) hl hc)) _ _
            have stays := State.readAll_record_sound (s.setCtx p (.opened session none)) (.position p) hf.2 hr
            rw [stays, Option.some.injEq] at hq
            exact hq ▸ hl

theorem voidRequest_editsTo (p : PositionNo) (session : Session) (presented : Option Reservation) (eg : Nat) (tag : Tag)
    (items : List Item) : s.EditsTo (voidRequest p session presented eg tag items s) :=
  withRecord_editsTo fun hd r _ hr => by
    split
    · have lost : s.Edits (s.setCtx p (.opened session none)) := .of_table (by simp)
      dsimp only
      split
      · exact .reply lost _ _
      · split
        · exact .keep (by simp)
        · exact .finish (lost.trans (State.retire_edits hr)) _ _
    · exact .reply (.refl s) _ _
    · split
      · exact .reply (.refl s) _ _
      · exact .finish (State.retire_edits hr) _ _

theorem execVoidSupervisor_editsTo (h : Header) (items : List Item) : s.EditsTo (execVoidSupervisor h items s) :=
  haltedRequest_editsTo fun s => by
    have read := State.lookupItems_edits s .supervisor items
    split
    · rename_i t hl
      rw [hl] at read
      exact .reply read _ _
    · rename_i t subject hl
      rw [hl] at read
      exact .finish read _ _
    · rename_i t n r hl
      obtain ⟨rfl, hr, -⟩ := State.lookupItems_found hl
      split
      · exact .reply (.refl _) _ _
      · exact .finish (State.retire_edits hr) _ _

/-! ### The dispatch line (10) -/

theorem reweighLabelled_editsTo {l : Link} {serial mass : Nat} {sides : Sides} {bank : BankLetter} {n : Nat} {r : Rec}
    {e : Entered} {q : Quote} {lab : Label} {adj : Nat} {rw : Option ReweighPart} (hr : s.record n = some r)
    (hb : r.body = .labelled e q lab adj rw) :
    s.EditsTo (reweighLabelled l serial mass sides bank n r e q lab adj s) := by
  unfold reweighLabelled
  dsimp only
  split
  · exact .finish (State.putRecord_edits hr (Rec.change_follows_out (by rw [hb]; rfl) rfl)) _ _
  · split
    · exact .reply (.refl s) _ _
    · exact .judge (.trans (.of_table (t := { s with pendingReweigh := some _ }) rfl) (State.join_edits _ _))

theorem execReweigh_editsTo (h : Header) (items : List Item) : s.EditsTo (execReweigh h items s) :=
  haltedRequest_editsTo fun s => by
    split
    · split
      · exact .reply (.refl s) _ _
      · exact labelledBySerial_editsTo fun _ _ _ _ _ _ _ hr hb => reweighLabelled_editsTo hr hb
    · exact .reply (.refl s) _ _

theorem execHandover_editsTo (h : Header) (items : List Item) : s.EditsTo (execHandover h items s) :=
  haltedRequest_editsTo fun s => by
    split
    · exact .reply (.refl s) _ _
    · exact labelledBySerial_editsTo fun _ _ _ _ _ _ _ hr _ => .finish (State.retire_edits hr) _ _

theorem execSettleAccept_editsTo (h : Header) (items : List Item) : s.EditsTo (execSettleAccept h items s) :=
  haltedRequest_editsTo fun _ => heldRecord_editsTo fun _ _ _ _ _ _ _ _ hr hb =>
    .finish (State.putRecord_edits hr (Rec.change_follows_out (by rw [hb]; rfl) rfl)) _ _

theorem execSettleVoid_editsTo (h : Header) (items : List Item) : s.EditsTo (execSettleVoid h items s) :=
  haltedRequest_editsTo fun _ => heldRecord_editsTo fun _ _ _ _ _ _ _ _ hr _ =>
    .finish (State.retire_edits hr) _ _

/-! ### Labels and positions (08, 07) -/

theorem loadBlock_editsTo (l : Link) (first count : Nat) : s.EditsTo (loadBlock l first count s) := by
  have found := scanIndex_cases first (first + count - 1) s.table.index.cells
  unfold loadBlock
  dsimp only
  split
  · exact .reply (.refl s) _ _
  · split
    · exact .reply (.refl s) _ _
    · split
      · exact .reply (.refl s) _ _
      · cases hx : scanIndex first (first + count - 1) s.table.index.cells with
        | carried => exact .reply (.refl s) _ _
        | failing n e =>
          rw [hx] at found
          exact .finish (State.failIndexEntry_edits found.1 .supervisor) _ _
        | clear =>
          refine .finish ?_ _ _
          exact .of_table rfl

theorem execLoadBlock_editsTo (h : Header) (items : List Item) : s.EditsTo (execLoadBlock h items s) :=
  haltedRequest_editsTo fun s => by
    split
    · exact loadBlock_editsTo _ _ _
    · exact .reply (.refl s) _ _

theorem execClosePosition_editsTo (h : Header) (items : List Item) : s.EditsTo (execClosePosition h items s) :=
  atPosition_editsTo fun p s => by
    split
    · exact .reply (.refl s) _ _
    · have read := State.readAll_edits s .supervisor
      dsimp only
      split
      · exact .finish read _ _
      · exact .finish (read.to_table (by simp)) _ _
    · exact .reply (.refl s) _ _

theorem execResetPosition_editsTo (h : Header) (items : List Item) : s.EditsTo (execResetPosition h items s) :=
  atPosition_editsTo fun p s => by
    split
    · exact .reply (.refl s) _ _
    · exact .finish ((State.removeEntryOf_edits s (.position p)).to_table (by simp)) _ _

theorem reexecute_editsTo (p : PositionNo) (session : Session) (g : Nat) (request : HeldRequest) :
    s.EditsTo (reexecute p session g request s) := by
  unfold reexecute
  split
  · exact rateRequest_editsTo _ _ _ _ _ _
  · exact commitRequest_editsTo _ _ _ _ _
  · exact amendRequest_editsTo _ _ _ _ _ _
  · exact voidRequest_editsTo _ _ _ _ _ _

/-- What follows an outcome may leave the table alone. -/
theorem State.EditsTo.andThen {o : Outcome} {f : State → State} (ho : s.EditsTo o)
    (hf : ∀ t : State, (f t).table = t.table) : s.EditsTo (andThen o f) := by
  intro t ht
  cases o with
  | next u =>
    cases ht
    rw [hf]
    exact ho u rfl
  | fault r => cases ht
  | refused r => cases ht

theorem execGrant_editsTo (h : Header) (items : List Item) : s.EditsTo (execGrant h items s) :=
  atPosition_editsTo fun p s => by
    split
    · exact .reply (.refl s) _ _
    · split
      · exact .reply (.refl s) _ _
      · split
        · exact .reply (.refl s) _ _
        · refine State.EditsTo.andThen (.after ?_ ?_ (reexecute_editsTo _ _ _ _)) fun t => by simp
          · exact .of_table (by simp)
          · simp
      · exact .reply (.refl s) _ _

theorem cancelAt_editsTo (h : Header) (p : PositionNo) : s.EditsTo (cancelAt h p s) := by
  unfold cancelAt
  dsimp only
  split
  · exact .keep rfl
  · exact .keep rfl
  · exact .keep rfl
  · exact .keep (by simp)
  · split
    · exact .keep rfl
    · exact .next ((State.removeEntryOf_edits s (.position p)).to_table (by simp))

theorem execCancel_editsTo (h : Header) (items : List Item) : s.EditsTo (execCancel h items s) := by
  unfold execCancel
  split
  · exact .keep rfl
  · split
    · exact .keep rfl
    · split
      · exact .keep rfl
      · split
        · exact cancelAt_editsTo h _
        · exact .keep rfl

end Sys2Proof.Machine
end

section
/-! SUPPORT. Every command changes the record table by a chain of edits, or by the issue of a label: jobs, tariff, hall,
and the step. -/
namespace Sys2Proof.Machine

variable {s t : State}

/-! ### Jobs (04) -/

theorem dropEntry_edits (e : QueueEntry) (a : Answer) (s : State) : s.Edits (dropEntry e a s) :=
  ((State.removeEntryOf_edits s e.requester).answerRequester _ _).judge

/-- A grant marks its record, then reads it (R71). -/
theorem grantEntry_edits {e : QueueEntry} (u : UnitNo) (l : BankLetter) (edition : Nat) (values : JobValues) {r : Rec}
    (hr : s.record e.handle.slot = some r) : s.Edits (grantEntry e u l edition values r s) := by
  unfold grantEntry
  extract_lets queued started r' marked
  have mark : s.Edits marked :=
    (State.Edits.trans (t := started) (.of_table rfl)
      (State.putRecord_edits (s := started) (r' := r') hr (.of_body rfl rfl))).to_table (State.takePin_table _ _)
  have own : marked.record e.handle.slot = some r' := by
    show Table.get marked.table.records _ = _
    rw [show marked.table = (started.putRecord e.handle.slot r').table from State.takePin_table _ _]
    exact Table.get_insert_same _ _ _
  have read := mark.trans (State.readAt_edits own (.unit u))
  split
  · rename_i v subject hv
    rw [hv] at read
    exact (read.trans (State.endUnread_edits v e.handle subject)).judge
  · rename_i v found _ hv
    rw [hv] at read
    exact read.judge

theorem execGrantOfJob_editsTo : s.EditsTo (execGrantOfJob s) := by
  unfold execGrantOfJob
  split
  · exact .keep rfl
  · split
    · split
      · exact .keep rfl
      · split
        · exact .next (dropEntry_edits _ _ s)
        · rename_i r hf
          split
          · exact .next (dropEntry_edits _ _ s)
          · exact .next (grantEntry_edits _ _ _ _ (State.record_of_find hf))
    · exact .keep rfl

@[simp] theorem State.runJob_table (s : State) (u : UnitNo) (j : Job) : (s.runJob u j).1.table = s.table := by
  unfold State.runJob
  (repeat' split) <;> simp

@[simp] theorem State.runJob_pool (s : State) (u : UnitNo) (j : Job) : (s.runJob u j).1.pool = s.pool := by
  unfold State.runJob
  (repeat' split) <;> simp

theorem State.finishJob_editsTo (h : s.Edits t) (u : UnitNo) (j : Job) (a : Answer) : s.EditsTo (t.finishJob u j a) :=
  .judge ((h.trans (State.endJob_edits t u j)).answerRequester _ _)

/-- A completion hands on, of a record in the slot of its job, a result that it applies. -/
theorem completion_editsTo {u : UnitNo} {kind : JobKind → Bool} {apply : Job → Rec → JobResult → State → Outcome}
    (ha : ∀ j r result (s : State), s.record j.entry.handle.slot = some r → s.EditsTo (apply j r result s)) :
    s.EditsTo (completion u kind s apply) := by
  unfold completion
  split
  · exact .keep rfl
  · split
    · exact .keep rfl
    · rename_i j _
      split
      · exact .keep rfl
      · have run : s.Edits (s.runJob u j).1 := .of_table (by simp)
        have pool := s.runJob_pool u j
        split <;> rename_i hrun <;> rw [hrun] at run pool
        · exact .judge run
        · split
          · exact State.finishJob_editsTo run u j _
          · rename_i r hf
            have hr := State.record_of_find hf
            have read := run.trans (State.readAt_edits hr (.unit u))
            split <;> rename_i hread
            · obtain ⟨rfl, rfl, rfl, -⟩ := State.readAt_found hread
              exact .after run pool (ha j _ _ _ hr)
            · rw [hread] at read
              exact .judge (read.trans (State.endUnread_edits _ _ _))
            · rw [hread] at read
              exact .judge read

theorem positionFault_editsTo (u : UnitNo) (j : Job) (f : FaultReport) : s.EditsTo (positionFault u j f s) := by
  unfold positionFault
  split
  · exact State.finishJob_editsTo (.refl s) u j _
  · split
    · split
      · exact State.finishJob_editsTo (.refl s) u j _
      · split
        · exact State.finishJob_editsTo (.refl s) u j _
        · exact .judge ((State.endJob_edits s u j).to_table (by simp))
    · exact State.finishJob_editsTo (.refl s) u j _

theorem storeQuote_edits {u : UnitNo} {j : Job} {r : Rec} {e : Entered} (q : Quote)
    (hr : s.record j.entry.handle.slot = some r) (hb : r.body = .draft e) : s.Edits (storeQuote u j r e q s) := by
  have stays (b : RecordBody) (hl : b.label = none) : r.Follows (r.change b) :=
    Rec.change_follows (by rw [hl, hb]; rfl) fun _ => by rw [hb]; rfl
  unfold storeQuote
  dsimp only
  split
  · have put := State.putRecord_edits hr (stays (.draft e) rfl)
    exact (((put.trans (State.endJob_edits _ u j)).raise _).answerRequester _ _).judge
  · have put := (State.putRecord_edits hr (stays (.rated e q) rfl)).to_table (State.takePin_table _ q.bank)
    exact ((put.trans (State.endJob_edits _ u j)).answerRequester _ _).judge

theorem execRateJobCompletion_editsTo (u : UnitNo) : s.EditsTo (execRateJobCompletion u s) :=
  completion_editsTo fun j r result s hr => by
    split
    · exact .next (storeQuote_edits _ hr ‹_›)
    · exact positionFault_editsTo u j _
    · exact State.finishJob_editsTo (.refl s) u j _

theorem addOption_edits {u : UnitNo} {j : Job} {r : Rec} {e : Entered} {q : Quote} {l : Label} {adj : Nat}
    {rw : Option ReweighPart} (line : Option Line) (hr : s.record j.entry.handle.slot = some r)
    (hb : r.body = .labelled e q l adj rw) : s.Edits (addOption u j r e q l adj rw line s) := by
  unfold addOption
  extract_lets code amount e' q' r'
  have follows : r.Follows r' := Rec.change_follows_out (by rw [hb]; rfl) rfl
  exact (((State.putRecord_edits hr follows).trans (State.endJob_edits _ u j)).answerRequester _ _).judge

theorem execRateOptionCompletion_editsTo (u : UnitNo) : s.EditsTo (execRateOptionCompletion u s) :=
  completion_editsTo fun j r result s hr => by
    split
    · exact .next (addOption_edits _ hr ‹_›)
    · exact positionFault_editsTo u j _
    · exact State.finishJob_editsTo (.refl s) u j _

/-- A re-rating leaves the record LABELLED or HELD, its label kept (R170). -/
theorem reweighVerdict_follows {pr : PendingReweigh} {r r' : Rec} {e : Entered} {q : Quote} {l : Label} {adj : Nat}
    {result : JobResult} {a : Answer} (hl : r.body.label = some l)
    (h : reweighVerdict pr r e q l adj result = some (r', a)) : r.Follows r' := by
  unfold reweighVerdict at h
  split at h
  · split at h
    all_goals
      cases h
      exact Rec.change_follows_out hl.symm rfl
  · cases h
    exact Rec.change_follows_out hl.symm rfl
  · cases h

theorem execRerateReweighCompletion_editsTo (u : UnitNo) : s.EditsTo (execRerateReweighCompletion u s) :=
  completion_editsTo fun j r result s hr => by
    split
    · rename_i hb
      split
      · rename_i hv
        exact State.finishJob_editsTo
          (State.putRecord_edits hr (reweighVerdict_follows (by rw [hb]; rfl) hv)) u j _
      · exact State.finishJob_editsTo (.refl s) u j _
    · exact State.finishJob_editsTo (.refl s) u j _

theorem execDiscardedJobCompletion_editsTo (u : UnitNo) : s.EditsTo (execDiscardedJobCompletion u s) := by
  unfold execDiscardedJobCompletion
  split
  · exact .keep rfl
  · split
    · exact .keep rfl
    · rename_i j _
      split
      · exact .keep rfl
      · have run : s.Edits (s.runJob u j).1 := .of_table (by simp)
        split <;> rename_i hrun <;> rw [hrun] at run
        · exact .judge run
        · exact .judge (run.trans (State.endJob_edits _ u j))

theorem execJobReadFailsCheck_editsTo (u : UnitNo) (e : BankEntry) : s.EditsTo (execJobReadFailsCheck u e s) := by
  unfold execJobReadFailsCheck
  (repeat' split) <;> exact .keep (by simp)

/-! ### Tariff (09) -/

theorem verifyBank_editsTo (link : Link) (l : BankLetter) (number : Nat) : s.EditsTo (verifyBank link l number s) := by
  unfold verifyBank
  (repeat' split) <;> exact .keep (by simp)

theorem execBankClear_editsTo (h : Header) (items : List Item) : s.EditsTo (execBankClear h items s) :=
  bankRequest_editsTo fun l s => .finish (.of_table (by simp)) _ _

theorem execUnschedule_editsTo (h : Header) (items : List Item) : s.EditsTo (execUnschedule h items s) :=
  bankRequest_editsTo fun l s => .finish (.of_table (by simp)) _ _

theorem execBankWrite_editsTo (h : Header) (items : List Item) : s.EditsTo (execBankWrite h items s) :=
  bankRequest_editsTo fun l s => by split <;> exact .keep (by simp)

theorem execBankCopy_editsTo (h : Header) (items : List Item) : s.EditsTo (execBankCopy h items s) :=
  bankRequest_editsTo fun l s => by (repeat' split) <;> exact .keep (by simp)

theorem execBankVerify_editsTo (h : Header) (items : List Item) : s.EditsTo (execBankVerify h items s) :=
  bankRequest_editsTo fun l s => by
    split
    · exact .keep (by simp)
    · exact verifyBank_editsTo _ l _

theorem scheduleSwitch_editsTo (link : Link) (l : BankLetter) (effective grace : Nat) :
    s.EditsTo (scheduleSwitch link l effective grace s) := by
  unfold scheduleSwitch
  split
  · exact .reply (.refl s) _ _
  · dsimp only
    refine .finish ?_ _ _
    have scheduled (b : Bank) : s.Edits (s.setBank l b) := .of_table (by simp)
    split
    · exact (scheduled _).trans (State.takeSwitch_edits _ l)
    · exact scheduled _

theorem execScheduleSwitch_editsTo (h : Header) (items : List Item) : s.EditsTo (execScheduleSwitch h items s) :=
  bankRequest_editsTo fun l s => by
    split
    · exact scheduleSwitch_editsTo _ l _ _
    · exact .reply (.refl s) _ _

theorem execSwitch_editsTo : s.EditsTo (execSwitch s) := by
  unfold execSwitch
  split
  · exact .keep rfl
  · split
    · exact .judge (State.takeSwitch_edits s _)
    · exact .keep rfl

theorem execGraceExpiry_editsTo (l : BankLetter) : s.EditsTo (execGraceExpiry l s) := by
  unfold execGraceExpiry
  split
  · exact .keep rfl
  · split
    · exact .judge (State.expireGrace_edits s l)
    · exact .keep rfl

@[simp] theorem State.patchSlot_table (s : State) (p : Patch) : (s.patchSlot p).1.table = s.table := by
  unfold State.patchSlot
  dsimp only
  (repeat' split) <;> simp

@[simp] theorem State.applyPatch_table (s : State) (p : Patch) : (s.applyPatch p).table = s.table := by
  simp [State.applyPatch]

theorem patchRequest_editsTo (change : PatchChange) (h : Header) (items : List Item) :
    s.EditsTo (patchRequest change h items s) := by
  unfold patchRequest
  (repeat' split) <;> exact .keep (by simp)

theorem execPatchApplied_editsTo : s.EditsTo (execPatchApplied s) := by
  unfold execPatchApplied
  (repeat' split) <;> exact .keep (by simp)

/-! ### Positions and the hall (07, 12) -/

theorem execOpenPosition_editsTo (h : Header) (items : List Item) : s.EditsTo (execOpenPosition h items s) :=
  atPosition_editsTo fun p s => by (repeat' split) <;> exact .keep (by simp)

theorem execDeny_editsTo (h : Header) (items : List Item) : s.EditsTo (execDeny h items s) :=
  atPosition_editsTo fun p s => by (repeat' split) <;> exact .keep (by simp)

theorem execSuspend_editsTo (h : Header) (items : List Item) : s.EditsTo (execSuspend h items s) :=
  atPosition_editsTo fun p s => by (repeat' split) <;> exact .keep (by simp)

theorem execResume_editsTo (h : Header) (items : List Item) : s.EditsTo (execResume h items s) :=
  atPosition_editsTo fun p s => by (repeat' split) <;> exact .keep (by simp)

theorem execEscalationTimeout_editsTo (p : PositionNo) : s.EditsTo (execEscalationTimeout p s) := by
  unfold execEscalationTimeout
  (repeat' split) <;> exact .keep (by simp)

theorem execSetTime_editsTo (h : Header) (items : List Item) : s.EditsTo (execSetTime h items s) :=
  haltedRequest_editsTo fun s => by
    split
    · exact .reply (.refl s) _ _
    · rename_i time _
      exact .finish (.trans (t := { s with hallTime := time }) (.of_table rfl) (State.switchIfDue_edits _)) _ _

theorem execSetTimers_editsTo (h : Header) (items : List Item) : s.EditsTo (execSetTimers h items s) :=
  haltedRequest_editsTo fun s => .keep (by simp)

theorem execSetEnables_editsTo (h : Header) (items : List Item) : s.EditsTo (execSetEnables h items s) :=
  haltedRequest_editsTo fun s => by split <;> exact .keep (by simp)

theorem execAcknowledge_editsTo (h : Header) (items : List Item) : s.EditsTo (execAcknowledge h items s) :=
  haltedRequest_editsTo fun s => by split <;> exact .keep (by simp)

theorem execStatus_editsTo (h : Header) (items : List Item) : s.EditsTo (execStatus h items s) :=
  request_editsTo fun s => by split <;> exact .keep (by simp)

theorem execHallTimeTick_editsTo : s.EditsTo (execHallTimeTick s) := by
  unfold execHallTimeTick State.countDown
  split
  · exact .keep rfl
  · split
    · exact .keep rfl
    · exact .next (.single .tick)

theorem execSoftReset_editsTo (h : Header) (items : List Item) : s.EditsTo (execSoftReset h items s) :=
  haltedRequest_editsTo fun s => by
    dsimp only
    split
    · exact .next ((State.beginDrain_edits s).to_table (State.endDrain_table _))
    · exact .judge (State.beginDrain_edits s)

theorem execDrainEnd_editsTo : s.EditsTo (execDrainEnd s) := by
  unfold execDrainEnd
  (repeat' split) <;> exact .keep (by simp)

theorem State.hardResetValues_edits (s : State) (asserted : Bool) : s.Edits (s.hardResetValues asserted) :=
  .single .clear

theorem execResetRelease_editsTo : s.EditsTo (execResetRelease s) := by
  unfold execResetRelease
  split
  · exact .next (s.hardResetValues_edits false)
  · exact .keep rfl

theorem execUnknownRequest_editsTo (h : Header) (kind : Byte) : s.EditsTo (execUnknownRequest h kind s) := by
  unfold execUnknownRequest
  split <;> exact .keep rfl

/-! ### The step -/

/-- What every command does to the record table. -/
theorem exec_editsTo (i : Instr) : s.EditsTo (exec i s) := by
  cases i with
  | newParcel h items => exact execNewParcel_editsTo h items
  | setAttributes h items => exact execSetAttributes_editsTo h items
  | rate h items => exact positionRequest_editsTo fun _ _ _ _ => rateRequest_editsTo _ _ _ _ _ _
  | commit h items => exact positionRequest_editsTo fun _ _ _ _ => commitRequest_editsTo _ _ _ _ _
  | printed h items => exact execPrinted_editsTo h items
  | spoilt h items => exact execSpoilt_editsTo h items
  | query h items => exact execQuery_editsTo h items
  | amendAddOption h items => exact positionRequest_editsTo fun _ _ _ _ => amendRequest_editsTo _ _ _ _ _ _
  | takeOver h items => exact execTakeOver_editsTo h items
  | void h items => exact positionRequest_editsTo fun _ _ _ _ => voidRequest_editsTo _ _ _ _ _ _
  | cancel h items => exact execCancel_editsTo h items
  | reweigh h items => exact execReweigh_editsTo h items
  | handover h items => exact execHandover_editsTo h items
  | setTime h items => exact execSetTime_editsTo h items
  | setTimers h items => exact execSetTimers_editsTo h items
  | setEnables h items => exact execSetEnables_editsTo h items
  | acknowledge h items => exact execAcknowledge_editsTo h items
  | status h items => exact execStatus_editsTo h items
  | openPosition h items => exact execOpenPosition_editsTo h items
  | closePosition h items => exact execClosePosition_editsTo h items
  | resetPosition h items => exact execResetPosition_editsTo h items
  | suspend h items => exact execSuspend_editsTo h items
  | resume h items => exact execResume_editsTo h items
  | grant h items => exact execGrant_editsTo h items
  | deny h items => exact execDeny_editsTo h items
  | loadBlock h items => exact execLoadBlock_editsTo h items
  | bankClear h items => exact execBankClear_editsTo h items
  | bankWrite h items => exact execBankWrite_editsTo h items
  | bankCopy h items => exact execBankCopy_editsTo h items
  | bankVerify h items => exact execBankVerify_editsTo h items
  | scheduleSwitch h items => exact execScheduleSwitch_editsTo h items
  | unschedule h items => exact execUnschedule_editsTo h items
  | patchWithdraw h items => exact haltedRequest_editsTo fun _ => patchRequest_editsTo _ _ _
  | patchRestore h items => exact haltedRequest_editsTo fun _ => patchRequest_editsTo _ _ _
  | patchRegrade h items => exact haltedRequest_editsTo fun _ => patchRequest_editsTo _ _ _
  | patchApplied => exact execPatchApplied_editsTo
  | settleAccept h items => exact execSettleAccept_editsTo h items
  | settleVoid h items => exact execSettleVoid_editsTo h items
  | querySupervisor h items => exact execQuerySupervisor_editsTo h items
  | voidSupervisor h items => exact execVoidSupervisor_editsTo h items
  | softReset h items => exact execSoftReset_editsTo h items
  | drainEnd => exact execDrainEnd_editsTo
  | frameDiscarded link bytes => exact .keep rfl
  | unknownRequest h kind => exact execUnknownRequest_editsTo h kind
  | hardReset => exact .next (s.hardResetValues_edits true)
  | resetRelease => exact execResetRelease_editsTo
  | hallTimeTick => exact execHallTimeTick_editsTo
  | printDeadlineExpiry n => exact execPrintDeadlineExpiry_editsTo n
  | escalationTimeout p => exact execEscalationTimeout_editsTo p
  | graceExpiry l => exact execGraceExpiry_editsTo l
  | switch => exact execSwitch_editsTo
  | grantOfJob => exact execGrantOfJob_editsTo
  | rateJobCompletion u => exact execRateJobCompletion_editsTo u
  | rateOptionCompletion u => exact execRateOptionCompletion_editsTo u
  | rerateReweighCompletion u => exact execRerateReweighCompletion_editsTo u
  | discardedJobCompletion u => exact execDiscardedJobCompletion_editsTo u
  | jobReadFailsCheck u e => exact execJobReadFailsCheck_editsTo u e

/-- What a step does to the record table. -/
theorem step_becomes (h : step s = .next t) : s.table.Becomes s.pool t.table := by
  unfold step at h
  split at h
  · cases h
    exact .same
  · rename_i c rest _
    exact exec_editsTo (s := { s with pending := rest }) c t h

end Sys2Proof.Machine
end

section
/-! The label index and the limit of eight records in hand (R20 to R22): O59. -/
namespace Sys2Proof.Machine

variable {s : State}

/-- The stores of a state in canonical form that are looked up rise. -/
theorem State.canonical_rising (h : s.canonical = true) : s.table.Rising := by
  simp only [State.canonical, Bool.and_eq_true] at h
  obtain ⟨⟨⟨⟨hr, -⟩, hi⟩, -⟩, -⟩ := h
  exact ⟨((Table.canonical_iff _ _).1 hr).1, ((Table.canonical_iff _ _).1 hi).1⟩

theorem State.indexLaw_iff (h : s.table.Rising) : s.indexLaw = true ↔ s.table.Indexed := by
  simp only [State.indexLaw, Bool.and_eq_true, List.all_eq_true, Option.all_eq_true, Option.any_eq_true, beq_iff_eq]
  refine and_congr ⟨fun hl n r l hr => hl (n, r) (mem_of_getCell hr) l, fun hl c hc l =>
      hl c.1 c.2 l (getCell_of_mem h.1 hc)⟩
    ⟨fun hl serial e he => ?_, fun hl c hc => ?_⟩
  · obtain ⟨r, hr, l, hrl, hs⟩ := hl (serial, e) (mem_of_getCell he)
    exact ⟨r, l, hr, hrl, hs⟩
  · obtain ⟨r, l, hr, hrl, hs⟩ := hl c.1 c.2 (getCell_of_mem h.2 hc)
    exact ⟨r, hr, l, hrl, hs⟩

theorem State.handLaw_iff : s.handLaw = true ↔ s.table.Handed := by
  simp only [State.handLaw, List.all_eq_true, List.mem_finRange, forall_const, decide_eq_true_eq]
  rfl

/-- The serial the pool draws next has no entry in the index (R139). -/
theorem State.poolLaw_draw (h : s.poolLaw = true) {serial : Nat} {rest : Pool}
    (hd : s.pool.draw = some (serial, rest)) : s.table.index.get serial = none := by
  simp only [State.poolLaw, Bool.and_eq_true, List.all_eq_true, Bool.not_eq_true', List.any_eq_false] at h
  obtain ⟨⟨⟨-, ok⟩, -⟩, free⟩ := h
  unfold Pool.draw at hd
  split at hd
  · cases hd
  · rename_i b blocks hb
    cases hd
    have mem : b ∈ s.pool.blocks := by rw [hb]; exact List.mem_cons_self ..
    have hok := ok b mem
    simp only [Block.ok, Bool.and_eq_true, decide_eq_true_eq] at hok
    cases hi : s.table.index.get b.next with
    | none => rfl
    | some e => exact absurd (by simp [Block.holds, hok.1.2]) (free (b.next, e) (mem_of_getCell hi) b mem)

/-- Settles O59: every step's change of the record table is a chain of edits, closed at a COMMIT by the issue of a
label, and each of them keeps both laws. -/
theorem recordLawsAreKept : Obligations.RecordLawsAreKept := by
  unfold Obligations.RecordLawsAreKept
  refine ⟨fun s t hc hp hi hs => ?_, fun s hc hi n m r r' l l' hr hr' hl hl' => ?_, fun s t hc hh hs => ?_⟩
  · have rising := State.canonical_rising hc
    have becomes := step_becomes hs
    rw [State.indexLaw_iff (becomes.rising rising)]
    exact becomes.indexed rising ((State.indexLaw_iff rising).1 hi) fun _ _ hd => State.poolLaw_draw hp hd
  · exact ((State.indexLaw_iff (State.canonical_rising hc)).1 hi).slot_unique hr hr' hl hl'
  · rw [State.handLaw_iff]
    exact (step_becomes hs).handed (State.canonical_rising hc) (State.handLaw_iff.1 hh)

end Sys2Proof.Machine
end

section
/-! The refusals of a position's request on a record (R80, checks 5 to 9): O23. -/
namespace Sys2Proof.Machine

variable {s : State}

/-! ### The record a request names by handle -/

/-- A request held and answered at once: only the answer frame is new. -/
theorem State.reply_hold (l : Link) (k : Kind) (g : Tag) (a : Answer) (h : (s.link l).outstanding = none) :
    (s.hold l k g).reply l a = .next (s.send l g k.code a) := congrArg _ (s.answer_hold l k g a h)

/-- No live record answers to the handle. -/
theorem withRecord_missing (p : PositionNo) (items : List Item) (refusing : Rec → Bool)
    (body : Handle → Rec → State → Outcome) {h : Handle} (hh : handleOf items = some h) (hf : s.find h = none) :
    withRecord p items s refusing body = s.reply (.position p) .noRecord := by
  simp only [withRecord, hh, State.lookupHandle, hf]

/-- A mark of the record refuses the request. -/
theorem withRecord_refused (p : PositionNo) (items : List Item) (refusing : Rec → Bool)
    (body : Handle → Rec → State → Outcome) {h : Handle} {r : Rec} (hh : handleOf items = some h) (hf : s.Finds h r)
    (hr : refusing r = true) : withRecord p items s refusing body = s.reply (.position p) .recordBusy := by
  simp only [withRecord, hh, State.lookupHandle, hf.1, s.readAt_sound _ _ _ hf.2, hr, if_true]

/-- The record is DAMAGED. -/
theorem withRecord_damaged (p : PositionNo) (items : List Item) (refusing : Rec → Bool)
    (body : Handle → Rec → State → Outcome) {h : Handle} {r : Rec} {l : Option Label} (hh : handleOf items = some h)
    (hf : s.Finds h r) (hr : refusing r = false) (hb : r.body = .damaged l) :
    withRecord p items s refusing body = s.reply (.position p) (.damaged (.record h)) := by
  simp [withRecord, hh, State.lookupHandle, hf.1, s.readAt_sound _ _ _ hf.2, hr, hb]

/-! ### The requests of a position on a record -/

/-- The requests of R80, R104, R108 and R110, which name a record by handle. -/
def handleKinds : List Kind := [.setAttributes, .rate, .commit, .printed, .spoilt, .amend, .takeOver, .void]

/-- The requests among them that only the record's owner may make (R80, check 8). -/
def ownerKinds : List Kind := [.setAttributes, .rate, .commit, .printed, .spoilt]

/-- The marks that refuse a request (R18, R19). -/
def refusedBy : Kind → Rec → Bool
  | .rate => refusedMarked
  | .amend => refusedMarked
  | .printed => refusedNever
  | .spoilt => refusedNever
  | _ => refusedBusy

/-- A body of a request on a record refuses as checks 8 and 9 of R80 say. -/
structure RefusesAs (k : Kind) (p : PositionNo) (body : Handle → Rec → State → Outcome) : Prop where
  notOwner : k ∈ ownerKinds → ∀ h r s, r.owner ≠ p → body h r s = s.reply (.position p) .notOwner
  notOpen : k ∈ [Kind.setAttributes, .rate] → ∀ h r s, r.owner = p → r.body.openEntries = none →
    body h r s = s.reply (.position p) .wrongState
  notRated : k = .commit → ∀ h r s, r.owner = p → (∀ e q, r.body ≠ .rated e q) →
    body h r s = s.reply (.position p) .wrongState

/-- Each of the requests, past Position Control, looks the record up and goes on with a body that refuses so. -/
theorem exec_handleKind {k : Kind} (hk : k ∈ handleKinds) {p : PositionNo} (g : Tag) {items : List Item}
    {session : Session} {res : Option Reservation} (hs : s.ServesAt k p items session res) :
    ∃ body, exec (requestCommand k ⟨.position p, g⟩ items) s =
      withRecord p items (s.hold (.position p) k g) (refusedBy k) body ∧ RefusesAs k p body := by
  simp only [handleKinds, List.mem_cons, List.not_mem_nil, or_false] at hk
  rcases hk with rfl | rfl | rfl | rfl | rfl | rfl | rfl | rfl
  all_goals
    dsimp only [requestCommand, exec, execSetAttributes, execRate, execCommit, execPrinted, execSpoilt,
      execAmendAddOption, execTakeOver, execVoid]
    refine ⟨_, positionRequest_servesAt _ p g items session res _ hs, ?_⟩
  · exact ⟨fun _ h r s ho => by simp [ho], fun _ h r s ho hb => by simp [ho, hb], nofun⟩
  · exact ⟨fun _ h r s ho => by simp [ho], fun _ h r s ho hb => by simp [ho, hb], nofun⟩
  · refine ⟨fun _ h r s ho => by simp [ho], by simp, fun _ h r s ho hb => ?_⟩
    cases hx : r.body with
    | rated e q => exact absurd hx (hb e q)
    | _ => simp [ho]
  · exact ⟨fun _ h r s ho => by simp [ho], by simp, nofun⟩
  · exact ⟨fun _ h r s ho => by simp [ho], by simp, nofun⟩
  all_goals exact ⟨by simp [ownerKinds], by simp, nofun⟩

/-- The marks that refuse a request, each on its own. -/
theorem refusedBy_busy {k : Kind} {r : Rec} (hk : k ≠ .printed ∧ k ≠ .spoilt) (h : r.busy = true) :
    refusedBy k r = true := by
  unfold refusedBy
  split <;> simp_all [refusedMarked, refusedBusy]

theorem refusedBy_queued {k : Kind} {r : Rec} (hk : k ∈ [Kind.rate, .amend]) (h : r.queued = true) :
    refusedBy k r = true := by
  simp only [List.mem_cons, List.not_mem_nil, or_false] at hk
  rcases hk with rfl | rfl <;> simp [refusedBy, refusedMarked, h]

/-- No mark that counts for a request is set. -/
theorem refusedBy_unmarked {k : Kind} {r : Rec} (hb : k ∉ [Kind.printed, .spoilt] → r.busy = false)
    (hq : k ∈ [Kind.rate, .amend] → r.queued = false) : refusedBy k r = false := by
  unfold refusedBy
  split
  · simp [refusedMarked, hb (by decide), hq (by decide)]
  · simp [refusedMarked, hb (by decide), hq (by decide)]
  · rfl
  · rfl
  · rename_i h1 h2 h3 h4
    exact hb (by simp_all)

/-- Settles O23: each of the requests looks its record up, and the checks of R80 are taken in their order. -/
theorem markedAndMissingRecordsRefuse : Obligations.MarkedAndMissingRecordsRefuse := by
  unfold Obligations.MarkedAndMissingRecordsRefuse
  intro k g items s p session res hd hs hh
  have held (h : Handle) : (s.hold (.position p) k g).find h = s.find h := s.find_hold _ _ _ h
  have answered (a : Answer) := s.reply_hold (.position p) k g a hs.1.1.2.2.1
  have found {r : Rec} (hf : s.Finds hd r) : (s.hold (.position p) k g).Finds hd r := ⟨(held hd).trans hf.1, hf.2⟩
  have refused {r : Rec} (hk : k ∈ handleKinds) (hf : s.Finds hd r) (hr : refusedBy k r = true) :
      exec (requestCommand k ⟨.position p, g⟩ items) s = .next (s.send (.position p) g k.code .recordBusy) := by
    obtain ⟨body, he, -⟩ := exec_handleKind hk g hs
    rw [he, withRecord_refused p items _ body hh (found hf) hr, answered]
  refine ⟨fun hk hf => ?_, fun r hk hf hb => ?_, fun r hk hf hq => ?_, fun r hf hb hq => ?_⟩
  · obtain ⟨body, he, -⟩ := exec_handleKind hk g hs
    rw [he, withRecord_missing p items _ body hh ((held hd).trans hf), answered]
  · exact refused ((by decide : [Kind.setAttributes, .rate, .commit, .amend, .takeOver, .void] ⊆ handleKinds) hk) hf
      (refusedBy_busy (by constructor <;> (rintro rfl; simp at hk)) hb)
  · exact refused ((by decide : [Kind.rate, .amend] ⊆ handleKinds) hk) hf (refusedBy_queued hk hq)
  have unmarked := refusedBy_unmarked hb hq
  have reaches (hk : k ∈ handleKinds) (hd' : ∀ l, r.body ≠ .damaged l) : ∃ body,
      exec (requestCommand k ⟨.position p, g⟩ items) s = body hd r (s.hold (.position p) k g) ∧ RefusesAs k p body := by
    obtain ⟨body, he, refuses⟩ := exec_handleKind hk g hs
    exact ⟨body, he.trans (withRecord_found p items _ body hd r hh (found hf) unmarked hd'), refuses⟩
  refine ⟨fun l hk hl => ?_, fun hk hl ho => ?_, fun hk ho hn => ?_, fun hk ho hn => ?_⟩
  · obtain ⟨body, he, -⟩ := exec_handleKind hk g hs
    rw [he, withRecord_damaged p items _ body hh (found hf) unmarked hl, answered]
  · obtain ⟨body, he, refuses⟩ := reaches ((by decide : ownerKinds ⊆ handleKinds) hk) hl
    rw [he, refuses.notOwner hk _ _ _ ho, answered]
  · obtain ⟨body, he, refuses⟩ := reaches ((by decide : [Kind.setAttributes, .rate] ⊆ handleKinds) hk)
      (by intro l hl; simp [hl, RecordBody.name] at hn)
    rw [he, refuses.notOpen hk _ _ _ ho (by cases hx : r.body <;> simp_all [RecordBody.name, RecordBody.openEntries]),
      answered]
  · obtain ⟨body, he, refuses⟩ := reaches (by simp [hk, handleKinds])
      (by intro l hl; simp [hl, RecordBody.name] at hn)
    rw [he, refuses.notRated hk _ _ _ ho (by intro e q hl; simp [hl, RecordBody.name] at hn), answered]

end Sys2Proof.Machine
end

section
/-! SUPPORT. What a requester is answered, what the end of a queue entry leaves, and what the release of a pin does. -/
namespace Sys2Proof.Machine

variable (s : State)

/-! ### Answers -/

/-- The answer to a link that holds a request. -/
theorem State.answer_held {l : Link} {o : Outstanding} (a : Answer) (h : (s.link l).outstanding = some o) :
    s.answer l a = (s.setLink l { s.link l with outstanding := none }).send l o.tag o.kind.code a := by
  simp only [State.answer, h]

/-- An answered link holds no request. -/
theorem State.answer_outstanding (l : Link) (a : Answer) : ((s.answer l a).link l).outstanding = none := by
  cases h : (s.link l).outstanding with
  | none => simp only [State.answer, h]
  | some o =>
    rw [s.answer_held a h]
    exact congrArg LinkState.outstanding (State.link_setLink s l _)

theorem State.answer_answers {l : Link} {o : Outstanding} (a : Answer) (h : (s.link l).outstanding = some o) :
    (s.answer l a).answers = s.answers ++ [⟨l, o.tag, answerKind o.kind.code, a⟩] := by
  rw [s.answer_held a h, State.send, State.setLink_answers]

/-- What a position is answered. -/
theorem State.answerRequester_position {p : PositionNo} {o : Outstanding} (a : Answer)
    (h : (s.link (.position p)).outstanding = some o) :
    (s.answerRequester (.position p) a).answers =
        s.answers ++ [⟨.position p, o.tag, answerKind o.kind.code, a⟩] ∧
      ((s.answerRequester (.position p) a).link (.position p)).outstanding = none ∧
      (s.answerRequester (.position p) a).ctx p = (s.ctx p).released :=
  ⟨s.answer_answers a h, s.answer_outstanding (.position p) a, State.ctx_setCtx _ p _⟩

/-- What dispatch is answered; its pending reweigh is emptied (R171). -/
theorem State.answerRequester_dispatch {o : Outstanding} (a : Answer) (h : s.links.dispatch.outstanding = some o) :
    (s.answerRequester .dispatch a).answers = s.answers ++ [⟨.dispatch, o.tag, answerKind o.kind.code, a⟩] ∧
      (s.answerRequester .dispatch a).links.dispatch.outstanding = none ∧
      (s.answerRequester .dispatch a).pendingReweigh = none :=
  ⟨s.answer_answers (l := .dispatch) a h, s.answer_outstanding .dispatch a, rfl⟩

/-! ### The end of a queue entry -/

/-- The entry on a record goes and its requester is answered. -/
theorem State.dropEntryOn_some {h : Handle} {e : QueueEntry} (a : Answer)
    (he : s.queue.find? (fun x => x.handle == h) = some e) :
    s.dropEntryOn h a =
      State.answerRequester { s with queue := s.queue.filter fun x => x.handle != h } e.requester a := by
  simp only [State.dropEntryOn, he]

/-- No entry on the record is left. -/
theorem State.dropEntryOn_queue (h : Handle) (a : Answer) :
    (s.dropEntryOn h a).queue = s.queue.filter fun x => x.handle != h := by
  cases he : s.queue.find? (fun x => x.handle == h) with
  | none =>
    have absent : ∀ e ∈ s.queue, e.handle ≠ h := fun e hm => by simpa using List.find?_eq_none.1 he e hm
    rw [s.dropEntryOn_none h a absent, List.filter_eq_self.2 fun e hm => by simpa using absent e hm]
  | some e => rw [s.dropEntryOn_some a he, State.answerRequester_queue]

theorem State.dropEntryOn_handle (h : Handle) (a : Answer) : ∀ x ∈ (s.dropEntryOn h a).queue, x.handle ≠ h := by
  intro x hx
  rw [State.dropEntryOn_queue, List.mem_filter] at hx
  simpa using hx.2

/-! ### The release of a pin -/

theorem State.releasePin_pins (l : BankLetter) : ((s.releasePin l).bank l).pins = (s.bank l).pins - 1 := by
  unfold State.releasePin
  dsimp only
  split
  · split
    · rename_i hz
      exact (congrArg Bank.pins (State.bank_setBank s l _)).trans hz.symm
    · rw [State.bank_setBank]
  · rw [State.bank_setBank]

theorem State.releasePin_bank_other {l m : BankLetter} (h : l ≠ m) : (s.releasePin l).bank m = s.bank m := by
  unfold State.releasePin
  dsimp only
  split
  · split
    · exact State.bank_setBank_other s l m _ h
    · exact State.bank_setBank_other s l m _ h
  · exact State.bank_setBank_other s l m _ h

theorem otherBank_ne (l : BankLetter) : l ≠ otherBank l := by cases l <;> decide

end Sys2Proof.Machine
end

section
/-! The retirement of a record (R5): O27. -/
namespace Sys2Proof.Machine

variable (s : State) (slot : Nat) (r : Rec)

/-- A retirement before its queue entry goes: the pin released, the index entry of the label removed. -/
def State.retiring : State :=
  match r.body.label with
  | some l => (s.releaseBodyPin r.body).eraseIndex l.serial
  | none => s.releaseBodyPin r.body

theorem State.retire_eq : s.retire slot r = ((s.retiring r).dropEntryOn (s.handleAt slot) .noRecord).freeSlot slot := by
  unfold State.retire State.retiring
  cases r.body.label <;> rfl

@[simp] theorem State.retiring_links : (s.retiring r).links = s.links := by
  unfold State.retiring
  split <;> simp

@[simp] theorem State.retiring_positions : (s.retiring r).positions = s.positions := by
  unfold State.retiring
  split <;> simp

@[simp] theorem State.retiring_answers : (s.retiring r).answers = s.answers := by
  unfold State.retiring
  split <;> simp

@[simp] theorem State.retiring_queue : (s.retiring r).queue = s.queue := by
  unfold State.retiring
  split <;> simp

@[simp] theorem State.retiring_pendingReweigh : (s.retiring r).pendingReweigh = s.pendingReweigh := by
  unfold State.retiring
  split <;> simp

/-- Retirement touches the banks by the release of the record's pin alone. -/
theorem State.retire_banks : (s.retire slot r).bankA = (s.releaseBodyPin r.body).bankA ∧
    (s.retire slot r).bankB = (s.releaseBodyPin r.body).bankB := by
  rw [State.retire_eq]
  unfold State.retiring
  constructor <;> cases r.body.label <;> simp

theorem State.retire_bank (l : BankLetter) : (s.retire slot r).bank l = (s.releaseBodyPin r.body).bank l := by
  cases l
  · exact (s.retire_banks slot r).1
  · exact (s.retire_banks slot r).2

theorem State.retire_record (n : Nat) : (s.retire slot r).record n = (s.table.records.erase slot).get n := by
  simp only [State.record, State.retire_table]

theorem State.retire_generation (n : Nat) : (s.retire slot r).generation n =
    (s.table.generations.put slot (if s.generation slot = 255 then 1 else s.generation slot + 1) 1).getD n 1 := by
  simp only [State.generation, State.retire_table]

theorem State.retire_index : (s.retire slot r).table.index =
    r.body.label.elim s.table.index fun l => s.table.index.erase l.serial := by rw [State.retire_table]

variable {s slot r}

/-- What retirement does to its slot (R5, R2). -/
theorem State.retire_slot (h : s.canonical = true) : (s.retire slot r).record slot = none ∧
    (s.retire slot r).generation slot = (if s.generation slot = 255 then 1 else s.generation slot + 1) := by
  have generations : risingKeys s.table.generations.cells = true := by
    simp only [State.canonical, Bool.and_eq_true] at h
    exact ((Table.canonical_iff _ _).1 h.1.1.1.2).1
  rw [State.retire_record, State.retire_generation]
  exact ⟨Table.get_erase_same _ _ (State.canonical_rising h).1, Table.getD_put_same _ _ _ _ generations⟩

/-- No other slot changes. -/
theorem State.retire_other {n : Nat} (h : n ≠ slot) :
    (s.retire slot r).record n = s.record n ∧ (s.retire slot r).generation n = s.generation n := by
  rw [State.retire_record, State.retire_generation]
  exact ⟨Table.get_erase_other _ _ _ h, Table.getD_put_other _ _ _ _ _ h⟩

/-- No entry but that of the record's label goes. -/
theorem State.retire_index_other {n : Nat} (h : ∀ l, r.body.label = some l → l.serial ≠ n) :
    (s.retire slot r).table.index.get n = s.table.index.get n := by
  rw [State.retire_index]
  cases hl : r.body.label with
  | none => rfl
  | some l => exact Table.get_erase_other _ _ _ (h l hl).symm

/-- With no entry queued on the record nobody is answered. -/
theorem State.retire_unqueued (h : ∀ x ∈ s.queue, x.handle ≠ s.handleAt slot) :
    (s.retire slot r).links = s.links ∧ (s.retire slot r).positions = s.positions ∧
      (s.retire slot r).answers = s.answers ∧ (s.retire slot r).queue = s.queue ∧
      (s.retire slot r).pendingReweigh = s.pendingReweigh := by
  rw [State.retire_eq, State.dropEntryOn_none _ _ _ (by simpa using h)]
  simp [State.freeSlot]

/-- With an entry queued on the record its requester is answered NO RECORD. -/
theorem State.retire_queued {x : QueueEntry} (h : s.queue.find? (fun e => e.handle == s.handleAt slot) = some x) :
    s.retire slot r = (State.answerRequester { s.retiring r with
      queue := (s.retiring r).queue.filter fun e => e.handle != s.handleAt slot } x.requester .noRecord).freeSlot
        slot := by
  rw [State.retire_eq, State.dropEntryOn_some (e := x) _ _ (by simpa using h)]

/-- Settles O27: retirement is the release of the pin, the end of the index entry, the end of the queue entry and the
freeing of the slot, each with its own rule. -/
theorem retirementEndsTheRecord : Obligations.RetirementEndsTheRecord := by
  unfold Obligations.RetirementEndsTheRecord
  intro s slot r hc _
  obtain ⟨hrecord, hgeneration⟩ := State.retire_slot (slot := slot) (r := r) hc
  refine ⟨hrecord, hgeneration, fun n hn => State.retire_other hn, fun l hl => ?_,
    fun n hn => State.retire_index_other hn, ?_, fun l hl => ?_, fun hl => ?_, by simp, by simp, by simp, by simp,
    by simp, by simp, State.retire_unqueued, fun x p o hx hp ho => ?_, fun x o hx hp ho => ?_⟩
  · rw [State.retire_index, hl]
    exact Table.get_erase_same _ _ (State.canonical_rising hc).2
  · rw [State.retire_eq]
    exact State.dropEntryOn_handle _ _ _
  · have released : s.releaseBodyPin r.body = s.releasePin l := by simp only [State.releaseBodyPin, hl]
    rw [State.retire_bank, State.retire_bank, released]
    exact ⟨s.releasePin_pins l, s.releasePin_bank_other (otherBank_ne l)⟩
  · have kept : s.releaseBodyPin r.body = s := by simp only [State.releaseBodyPin, hl]
    obtain ⟨ha, hb⟩ := s.retire_banks slot r
    rw [kept] at ha hb
    exact ⟨ha, hb⟩
  · rw [State.retire_queued hx, hp]
    generalize hu : ({ s.retiring r with
      queue := (s.retiring r).queue.filter fun e => e.handle != s.handleAt slot } : State) = u
    have links : u.links = s.links := by rw [← hu]; exact s.retiring_links r
    have held : (u.link (.position p)).outstanding = some o := by
      rw [← ho, State.link, links]
      rfl
    obtain ⟨answers, freed, ctx⟩ := u.answerRequester_position .noRecord held
    refine ⟨answers.trans (by rw [← hu]; simp), freed, fun session pend res request hw => ?_⟩
    have working : u.ctx p = .working session pend res request := by
      rw [← hw, ← hu]
      exact congrArg (fun v : Vector Context 24 => v.get p) (s.retiring_positions r)
    rw [working] at ctx
    exact ctx
  · rw [State.retire_queued hx, hp]
    generalize hu : ({ s.retiring r with
      queue := (s.retiring r).queue.filter fun e => e.handle != s.handleAt slot } : State) = u
    have held : u.links.dispatch.outstanding = some o := by
      rw [← ho, ← hu]
      exact congrArg (fun k : Links => k.dispatch.outstanding) (s.retiring_links r)
    obtain ⟨answers, freed, emptied⟩ := u.answerRequester_dispatch .noRecord held
    exact ⟨answers.trans (by rw [← hu]; simp), freed, emptied⟩

end Sys2Proof.Machine
end

section
/-! SUPPORT. What damage of a record ends (R17, R74, R77), clause by clause. -/
namespace Sys2Proof.Machine

variable {s t : State}

/-! ### The running job on a record -/

/-- The unit found on a handle runs a job of that handle. -/
theorem State.unitOn_some {h : Handle} {u : UnitNo} (hu : s.unitOn h = some u) :
    ∃ j, s.unit u = some j ∧ j.entry.handle = h := by
  have found := List.find?_some hu
  simp only [Option.any_eq_true, beq_iff_eq] at found
  exact found

/-- The end of a job as its unit leaves it, before its requester is answered. -/
def State.jobEnded (s : State) (u : UnitNo) (j : Job) : State := (s.setUnit u none).releasePin j.bank

@[simp] theorem State.jobEnded_links (s : State) (u : UnitNo) (j : Job) : (s.jobEnded u j).links = s.links := by
  simp [State.jobEnded]

@[simp] theorem State.jobEnded_answers (s : State) (u : UnitNo) (j : Job) : (s.jobEnded u j).answers = s.answers := by
  simp [State.jobEnded]

@[simp] theorem State.jobEnded_queue (s : State) (u : UnitNo) (j : Job) : (s.jobEnded u j).queue = s.queue := by
  simp [State.jobEnded]

theorem State.endJobOn_some {h : Handle} {u : UnitNo} {j : Job} (a : Answer) (hu : s.unitOn h = some u)
    (hj : s.unit u = some j) : s.endJobOn h a =
      if j.discarded then s.jobEnded u j else (s.jobEnded u j).answerRequester j.entry.requester a := by
  simp only [State.endJobOn, hu, hj]
  rfl

/-- The unit becomes IDLE, no other changes. -/
theorem State.endJobOn_units {h : Handle} {u : UnitNo} (a : Answer) (hu : s.unitOn h = some u) :
    (s.endJobOn h a).units = (s.setUnit u none).units := by
  obtain ⟨j, hj, -⟩ := State.unitOn_some hu
  rw [State.endJobOn_some a hu hj]
  split <;> simp [State.jobEnded]

theorem State.endJobOn_unit {h : Handle} {u : UnitNo} (a : Answer) (hu : s.unitOn h = some u) :
    (s.endJobOn h a).unit u = none := by
  rw [State.unit, State.endJobOn_units a hu]
  exact s.unit_setUnit u none

theorem State.endJobOn_unit_other {h : Handle} {v : UnitNo} (a : Answer) (hv : s.unitOn h ≠ some v) :
    (s.endJobOn h a).unit v = s.unit v := by
  cases hu : s.unitOn h with
  | none => rw [State.endJobOn_none _ _ _ hu]
  | some u =>
    rw [State.unit, State.endJobOn_units a hu]
    exact s.unit_setUnit_other u v none fun e => hv (e ▸ hu)

/-- The release of a pin looks at the banks alone. -/
theorem State.releasePin_bank_congr (ha : t.bankA = s.bankA) (hb : t.bankB = s.bankB) (l m : BankLetter) :
    (t.releasePin l).bank m = (s.releasePin l).bank m := by
  have same (k : BankLetter) : t.bank k = s.bank k := by cases k <;> assumption
  by_cases h : l = m
  · subst h
    unfold State.releasePin
    dsimp only
    rw [same]
    have written (u : State) (b : Bank) (c : Cause) : ((u.setBank l b).raise c).bank l = b := by cases l <;> rfl
    split
    · split
      · rw [written, written]
      · simp
    · simp
  · rw [State.releasePin_bank_other _ h, State.releasePin_bank_other _ h, same]

/-! ### Damage -/

/-- The damage of a record before the job and the entry on it end. -/
def State.damaging (s : State) (slot : Nat) (r : Rec) : State := (s.putRecord slot r.damage).releaseBodyPin r.body

section
variable (s : State) (slot : Nat) (r : Rec)

@[simp] theorem State.damaging_links : (s.damaging slot r).links = s.links := by simp [State.damaging]
@[simp] theorem State.damaging_answers : (s.damaging slot r).answers = s.answers := by simp [State.damaging]
@[simp] theorem State.damaging_queue : (s.damaging slot r).queue = s.queue := by simp [State.damaging]
@[simp] theorem State.damaging_units : (s.damaging slot r).units = s.units := by simp [State.damaging]
@[simp] theorem State.damaging_unit (u : UnitNo) : (s.damaging slot r).unit u = s.unit u := by simp [State.unit]
@[simp] theorem State.damaging_unitOn (h : Handle) : (s.damaging slot r).unitOn h = s.unitOn h := by
  simp [State.unitOn]

end

variable {slot : Nat} {r : Rec} {subject : ReportSubject}

theorem State.damageRecord_eq (h : ∀ l, r.body ≠ .damaged l) : s.damageRecord slot r subject =
    ((s.damaging slot r).endJobOn (s.handleAt slot) (.damaged subject)).dropEntryOn (s.handleAt slot)
      (.damaged subject) := by
  unfold State.damageRecord
  split
  · exact absurd ‹_› (h _)
  · rfl

/-- The record that is left (R17). -/
theorem State.damageRecord_record (h : ∀ l, r.body ≠ .damaged l) :
    (s.damageRecord slot r subject).record slot = some r.damage := by
  rw [State.record, State.damageRecord_table _ _ _ _ h]
  exact Table.get_insert_same _ _ _

theorem State.damageRecord_unit {u : UnitNo} (h : ∀ l, r.body ≠ .damaged l)
    (hu : s.unitOn (s.handleAt slot) = some u) : (s.damageRecord slot r subject).unit u = none := by
  rw [State.damageRecord_eq h, State.unit, State.dropEntryOn_units]
  exact State.endJobOn_unit _ (by simpa using hu)

theorem State.damageRecord_unit_other {u : UnitNo} (h : ∀ l, r.body ≠ .damaged l)
    (hu : s.unitOn (s.handleAt slot) ≠ some u) : (s.damageRecord slot r subject).unit u = s.unit u := by
  rw [State.damageRecord_eq h, State.unit, State.dropEntryOn_units]
  exact (State.endJobOn_unit_other _ (by simpa using hu)).trans (s.damaging_unit slot r u)

/-- With an entry and no job on the record, the entry goes and its requester is answered. -/
theorem State.damageRecord_queued {x : QueueEntry} (h : ∀ l, r.body ≠ .damaged l)
    (hu : s.unitOn (s.handleAt slot) = none) (hx : s.queue.find? (fun e => e.handle == s.handleAt slot) = some x) :
    s.damageRecord slot r subject = State.answerRequester { s.damaging slot r with
      queue := (s.damaging slot r).queue.filter fun e => e.handle != s.handleAt slot } x.requester
        (.damaged subject) := by
  rw [State.damageRecord_eq h, State.endJobOn_none _ _ _ (by simpa using hu),
    State.dropEntryOn_some (e := x) _ _ (by simpa using hx)]

/-- With a job and no entry on the record, the job ends; its requester is answered unless it is discarded. -/
theorem State.damageRecord_running {u : UnitNo} {j : Job} (h : ∀ l, r.body ≠ .damaged l)
    (hu : s.unitOn (s.handleAt slot) = some u) (hj : s.unit u = some j)
    (hq : ∀ y ∈ s.queue, y.handle ≠ s.handleAt slot) : s.damageRecord slot r subject =
      if j.discarded then (s.damaging slot r).jobEnded u j
      else ((s.damaging slot r).jobEnded u j).answerRequester j.entry.requester (.damaged subject) := by
  rw [State.damageRecord_eq h, State.endJobOn_some (u := u) (j := j) _ (by simpa using hu) (by simpa using hj),
    State.dropEntryOn_none _ _ _ fun e he => hq e ?_]
  split at he <;> simpa using he

/-- Without a pin of its own a record's damage releases that of its job alone. -/
theorem State.damageRecord_running_bank {u : UnitNo} {j : Job} (h : ∀ l, r.body ≠ .damaged l)
    (hu : s.unitOn (s.handleAt slot) = some u) (hj : s.unit u = some j)
    (hq : ∀ y ∈ s.queue, y.handle ≠ s.handleAt slot) (hp : r.body.pin = none) (l : BankLetter) :
    (s.damageRecord slot r subject).bank l = (s.releasePin j.bank).bank l := by
  have banks (v : State) (x : Requester) (a : Answer) : (v.answerRequester x a).bank l = v.bank l := by
    cases l
    · exact v.answerRequester_bankA x a
    · exact v.answerRequester_bankB x a
  have unpinned : s.damaging slot r = s.putRecord slot r.damage := by
    simp only [State.damaging, State.releaseBodyPin, hp]
  have ended : ((s.damaging slot r).jobEnded u j).bank l = (s.releasePin j.bank).bank l := by
    rw [unpinned]
    exact State.releasePin_bank_congr (s := s) (t := (s.putRecord slot r.damage).setUnit u none) rfl rfl j.bank l
  rw [State.damageRecord_running h hu hj hq]
  split
  · exact ended
  · rw [banks, ended]

/-- A position is answered on its link as it held its request. -/
theorem State.answers_of_position {p : PositionNo} {o : Outstanding} {a : Answer} (hl : t.links = s.links)
    (ha : t.answers = s.answers) (ho : (s.link (.position p)).outstanding = some o) :
    (t.answerRequester (.position p) a).answers =
      s.answers ++ [⟨.position p, o.tag, answerKind o.kind.code, a⟩] := by
  rw [(t.answerRequester_position a (by rw [State.link, hl]; exact ho)).1, ha]

/-- Dispatch is answered on its link as it held its request, the pending reweigh emptied (R171). -/
theorem State.answers_of_dispatch {o : Outstanding} {a : Answer} (hl : t.links = s.links) (ha : t.answers = s.answers)
    (ho : s.links.dispatch.outstanding = some o) :
    (t.answerRequester .dispatch a).pendingReweigh = none ∧
      (t.answerRequester .dispatch a).links.dispatch.outstanding = none ∧
      (t.answerRequester .dispatch a).answers =
        s.answers ++ [⟨.dispatch, o.tag, answerKind o.kind.code, a⟩] := by
  obtain ⟨answers, freed, emptied⟩ := t.answerRequester_dispatch a (by rw [hl]; exact ho)
  exact ⟨emptied, freed, by rw [answers, ha]⟩

/-- The serial of a label finds the first record that carries it (R178). -/
theorem carrierAmong_some {serial n : Nat} {cells : List (Nat × Rec)} (h : carrierAmong serial cells = some n) :
    ∃ c ∈ cells, c.1 = n ∧ ∃ l, c.2.body.label = some l ∧ l.serial = serial := by
  induction cells with
  | nil => cases h
  | cons c rest ih =>
    simp only [carrierAmong] at h
    split at h
    · rename_i hc
      cases h
      simp only [Option.any_eq_true, beq_iff_eq] at hc
      exact ⟨c, List.mem_cons_self .., rfl, hc⟩
    · obtain ⟨d, hd, found⟩ := ih h
      exact ⟨d, List.mem_cons_of_mem _ hd, found⟩

/-- A serial that finds no record stands on none. -/
theorem carrierAmong_none {serial : Nat} {cells : List (Nat × Rec)} (h : carrierAmong serial cells = none) :
    ∀ c ∈ cells, ∀ l, c.2.body.label = some l → l.serial ≠ serial := by
  induction cells with
  | nil => exact fun _ hc => nomatch hc
  | cons c rest ih =>
    simp only [carrierAmong] at h
    split at h
    · cases h
    · rename_i hc
      intro d hd l hl
      rcases List.mem_cons.1 hd with rfl | hd
      · simpa [hl] using hc
      · exact ih h d hd l hl

end Sys2Proof.Machine
end

section
/-! SUPPORT. The failing reads of the requests that name a record (R177 to R179): each ends with the answer DAMAGED on
the state its lookup leaves. -/
namespace Sys2Proof.Machine

variable {s t : State}

/-! ### A step beside the links -/

/-- A state with its links replaced. -/
def State.withLinks (s : State) (links : Links) : State := { s with links := links }

theorem State.hold_eq (s : State) (l : Link) (k : Kind) (g : Tag) :
    s.hold l k g = s.withLinks (s.hold l k g).links := by cases l <;> rfl

/-- The release of a record's pin leaves the links aside. -/
theorem State.releaseBodyPin_withLinks (s : State) (links : Links) (b : RecordBody) :
    (s.withLinks links).releaseBodyPin b = (s.releaseBodyPin b).withLinks links := by
  have banks (l : BankLetter) : (s.withLinks links).bank l = s.bank l := by cases l <;> rfl
  unfold State.releaseBodyPin
  split
  · rename_i l _
    simp only [State.releasePin, banks]
    (repeat' split) <;> cases l <;> rfl
  · rfl

/-- A report leaves the links aside. -/
theorem State.report_withLinks (s : State) (links : Links) (subject : ReportSubject) (reader : Reader) :
    (s.withLinks links).report subject reader = (s.report subject reader).withLinks links := by
  unfold State.report State.withLinks
  dsimp only
  split <;> rfl

/-- What leaves the links aside may be done before the request is held: only the answer frame is new besides. -/
theorem State.finish_beside {f : State → State} (hf : ∀ links, f (s.withLinks links) = (f s).withLinks links) (l : Link)
    (k : Kind) (g : Tag) (a : Answer) (h : (s.link l).outstanding = none) :
    (f (s.hold l k g)).finish l a = .next ((f s).judge.send l g k.code a) := by
  have held := hf (s.hold l k g).links
  rw [← State.hold_eq] at held
  have own : f s = (f s).withLinks s.links := hf s.links
  rw [State.finish_of_held l k g a (by rw [held]; rfl) h, held]
  exact congrArg (fun u : State => (.next (u.judge.send l g k.code a) : Outcome)) own.symm

/-- A record written, its pin released and its failing read reported. -/
def State.damagedIdle (s : State) (slot : Nat) (r : Rec) (subject : ReportSubject) (reader : Reader) : State :=
  ((s.putRecord slot r.damage).releaseBodyPin r.body).report subject reader

theorem State.damagedIdle_withLinks (s : State) (links : Links) (slot : Nat) (r : Rec) (subject : ReportSubject)
    (reader : Reader) : (s.withLinks links).damagedIdle slot r subject reader =
      (s.damagedIdle slot r subject reader).withLinks links := by
  unfold State.damagedIdle
  rw [← State.report_withLinks, ← State.releaseBodyPin_withLinks]
  rfl

theorem State.damageRecord_report {slot : Nat} {r : Rec} (subject : ReportSubject) (reader : Reader)
    (h : ∀ l, r.body ≠ .damaged l) (hu : s.unitOn (s.handleAt slot) = none)
    (hq : ∀ e ∈ s.queue, e.handle ≠ s.handleAt slot) :
    (s.damageRecord slot r subject).report subject reader = s.damagedIdle slot r subject reader := by
  rw [State.damageRecord_idle _ _ _ _ h hu hq]
  rfl

/-! ### The requests that name a record -/

theorem State.lookupItems_handle {items : List Item} {h : Handle} (reader : Reader) (hh : handleOf items = some h) :
    s.lookupItems reader items = s.lookupHandle reader h := by simp only [State.lookupItems, hh]

theorem State.lookupItems_serial {items : List Item} {n : Nat} (reader : Reader) (hh : handleOf items = none)
    (hn : serialOf items = some n) : s.lookupItems reader items = s.lookupSerial reader n := by
  simp only [State.lookupItems, hh, hn]

theorem withRecord_lookup {p : PositionNo} {items : List Item} {refusing : Rec → Bool}
    {body : Handle → Rec → State → Outcome} {h : Handle} {subject : ReportSubject} (hh : handleOf items = some h)
    (hl : s.lookupHandle (.position p) h = (t, .damaged subject)) :
    withRecord p items s refusing body = t.finish (.position p) (.damaged subject) := by
  simp only [withRecord, hh, hl]

/-- A position's QUERY whose lookup fails. -/
theorem exec_query_damaged {p : PositionNo} {g : Tag} {items : List Item} {session : Session} {res : Option Reservation}
    {subject : ReportSubject} (hs : s.ServesAt .query p items session res)
    (hl : (s.hold (.position p) .query g).lookupItems (.position p) items = (t, .damaged subject)) :
    exec (.query ⟨.position p, g⟩ items) s = t.finish (.position p) (.damaged subject) := by
  dsimp only [exec, execQuery]
  rw [positionRequest_servesAt _ p g items session res _ hs, hl]

theorem heldRecord_damaged {l : Link} {items : List Item} {subject : ReportSubject}
    {body : Nat → Rec → Entered → Quote → Label → Nat → ReweighPart → State → Outcome}
    (hl : s.lookupItems .supervisor items = (t, .damaged subject)) :
    heldRecord l items s body = t.finish l (.damaged subject) := by
  simp only [heldRecord, hl]

/-- The items of a SETTLE row are accepted where they carry its form. -/
theorem settleAccepted_eq {items : List Item} {form : Nat} (h : settleFormOf items = some form) :
    settleAccepted form items = itemsAccepted .settle items := by simp [settleAccepted, h]

/-- A request of the supervisor on a record whose lookup fails. -/
theorem exec_supervisor_damaged {k : Kind} (hk : k ∈ [Kind.querySupervisor, .voidSupervisor, .settle]) {g : Tag}
    {items : List Item} {subject : ReportSubject} (hs : s.Serves k .supervisor items)
    (hl : (s.hold .supervisor k g).lookupItems .supervisor items = (t, .damaged subject)) :
    exec (requestCommand k ⟨.supervisor, g⟩ items) s = t.finish .supervisor (.damaged subject) := by
  have served (body : State → Outcome) := haltedRequest_serves k ⟨.supervisor, g⟩ items body hs
  simp only [List.mem_cons, List.not_mem_nil, or_false] at hk
  rcases hk with rfl | rfl | rfl
  · dsimp only [requestCommand, exec, execQuerySupervisor]
    rw [served, hl]
  · dsimp only [requestCommand, exec, execVoidSupervisor]
    rw [served, hl]
  · rcases settleForm_of_accepted hs.1.2.2.2 with hf | hf
    · simp only [requestCommand, hf, exec, execSettleAccept, settleAccepted_eq hf]
      rw [served, heldRecord_damaged hl]
    · simp only [requestCommand, hf, exec, execSettleVoid, settleAccepted_eq hf]
      rw [served, heldRecord_damaged hl]

/-- A request that names a record by handle, whose lookup fails. -/
theorem exec_asksByHandle {k : Kind} {g : Tag} {items : List Item} {l : Link} {hd : Handle} {subject : ReportSubject}
    (ha : s.AsksByHandle k l items hd)
    (hl : (s.hold l k g).lookupHandle (linkReader l) hd = (t, .damaged subject)) :
    exec (requestCommand k ⟨l, g⟩ items) s = t.finish l (.damaged subject) := by
  obtain ⟨hh, ⟨hk, p, session, res, rfl, hs⟩ | ⟨hk, rfl, hs⟩⟩ := ha
  · by_cases hq : k = .query
    · subst hq
      exact exec_query_damaged hs ((State.lookupItems_handle _ hh).trans hl)
    · have hk : k ∈ handleKinds := by
        simp only [List.mem_cons, List.not_mem_nil, or_false] at hk
        simp only [handleKinds, List.mem_cons, List.not_mem_nil, or_false]
        tauto
      obtain ⟨body, he, -⟩ := exec_handleKind hk g hs
      rw [he, withRecord_lookup hh hl]
  · exact exec_supervisor_damaged hk hs ((State.lookupItems_handle _ hh).trans hl)

theorem labelledBySerial_damaged {l : Link} {serial : Nat} {refusing : Rec → Bool} {subject : ReportSubject}
    {body : Nat → Rec → Entered → Quote → Label → Nat → Option ReweighPart → State → Outcome}
    (hl : s.lookupSerial .dispatch serial = (t, .damaged subject)) :
    labelledBySerial l serial refusing s body = t.finish l (.damaged subject) := by
  simp only [labelledBySerial, hl]

/-- A REWEIGH or HANDOVER whose lookup fails. -/
theorem exec_dispatch_damaged {k : Kind} (hk : k ∈ [Kind.reweigh, .handover]) {g : Tag} {items : List Item}
    {serial : Nat} {subject : ReportSubject} (hn : serialOf items = some serial) (hs : s.Serves k .dispatch items)
    (hb : k = .reweigh → s.activeBank ≠ none)
    (hl : (s.hold .dispatch k g).lookupSerial .dispatch serial = (t, .damaged subject)) :
    exec (requestCommand k ⟨.dispatch, g⟩ items) s = t.finish .dispatch (.damaged subject) := by
  have served (body : State → Outcome) := haltedRequest_serves k ⟨.dispatch, g⟩ items body hs
  simp only [List.mem_cons, List.not_mem_nil, or_false] at hk
  rcases hk with rfl | rfl
  · obtain ⟨⟨mass, hm⟩, sides, hd⟩ := measures_of_accepted hs.1.2.2.2
    obtain ⟨bank, hbank⟩ := Option.ne_none_iff_exists'.1 (hb rfl)
    have active : (s.hold .dispatch .reweigh g).activeBank = some bank := hbank
    dsimp only [requestCommand, exec, execReweigh]
    rw [served]
    simp only [hn, hm, hd, active]
    exact labelledBySerial_damaged hl
  · dsimp only [requestCommand, exec, execHandover]
    rw [served]
    simp only [hn]
    exact labelledBySerial_damaged hl

/-- A request that names a record by serial, whose lookup fails. -/
theorem exec_asksBySerial {k : Kind} {g : Tag} {items : List Item} {l : Link} {serial : Nat} {subject : ReportSubject}
    (ha : s.AsksBySerial k l items serial)
    (hl : (s.hold l k g).lookupSerial (linkReader l) serial = (t, .damaged subject)) :
    exec (requestCommand k ⟨l, g⟩ items) s = t.finish l (.damaged subject) := by
  obtain ⟨hh, hn, ⟨rfl, p, session, res, rfl, hs⟩ | ⟨hk, rfl, hs⟩ | ⟨hk, rfl, hs, hb⟩⟩ := ha
  · exact exec_query_damaged hs ((State.lookupItems_serial _ hh hn).trans hl)
  · exact exec_supervisor_damaged hk hs ((State.lookupItems_serial _ hh hn).trans hl)
  · exact exec_dispatch_damaged hk hn hs hb hl

/-- The link of a request that names a record holds nothing before it. -/
theorem State.AsksByHandle.outstanding {k : Kind} {l : Link} {items : List Item} {hd : Handle}
    (ha : s.AsksByHandle k l items hd) : (s.link l).outstanding = none := by
  obtain ⟨-, ⟨-, p, session, res, rfl, hs⟩ | ⟨-, rfl, hs⟩⟩ := ha
  · exact hs.1.1.2.2.1
  · exact hs.1.2.2.1

theorem State.AsksBySerial.outstanding {k : Kind} {l : Link} {items : List Item} {serial : Nat}
    (ha : s.AsksBySerial k l items serial) : (s.link l).outstanding = none := by
  obtain ⟨-, -, ⟨-, p, session, res, rfl, hs⟩ | ⟨-, rfl, hs⟩ | ⟨-, rfl, hs, -⟩⟩ := ha
  · exact hs.1.1.2.2.1
  · exact hs.1.2.2.1
  · exact hs.1.2.2.1

/-! ### A GRANT -/

/-- A request re-executed looks its record up by handle. -/
theorem reexecute_withRecord (p : PositionNo) (session : Session) (g : Nat) (request : HeldRequest) (s : State) :
    ∃ refusing body, reexecute p session g request s = withRecord p request.items s refusing body := by
  unfold reexecute
  split <;> exact ⟨_, _, rfl⟩

theorem State.judge_judge (s : State) : s.judge.judge = s.judge := by
  show { s.judge with attention := (s.attention.judge s.conditions).judge s.conditions } = s.judge
  rw [Attention.judge_judge]
  rfl

/-- An answer leaves the conditions as they are judged. -/
theorem State.judge_answer (s : State) (l : Link) (a : Answer) : s.judge.answer l a = (s.answer l a).judge := by
  have same : s.judge.link l = s.link l := by cases l <;> rfl
  unfold State.answer
  rw [same]
  split
  · rfl
  · cases l <;> rfl

end Sys2Proof.Machine
end

section
/-! Damage of a record, and the requests whose read of it fails: O28. -/
namespace Sys2Proof.Machine

variable {s : State} {k : Kind} {g : Tag} {items : List Item} {l : Link}

/-! ### Requests by handle -/

/-- The failing read of the record that a request names by handle (R177 to R179). -/
theorem exec_handle_failing {hd : Handle} {r : Rec} (ha : s.AsksByHandle k l items hd) (hf : s.find hd = some r)
    (hr : r.sound = false) : exec (requestCommand k ⟨l, g⟩ items) s =
      (((s.hold l k g).damageRecord hd.slot r (.record hd)).report (.record hd) (linkReader l)).finish l
        (.damaged (.record hd)) :=
  exec_asksByHandle ha (State.lookupHandle_failing _ _ ((s.find_hold l k g hd).trans hf) hr)

/-- What a request held leaves of what damage looks at. -/
theorem State.hold_idle {h : Handle} (hu : s.unitOn h = none) (hq : ∀ e ∈ s.queue, e.handle ≠ h) :
    (s.hold l k g).unitOn h = none ∧ ∀ e ∈ (s.hold l k g).queue, e.handle ≠ h := by
  rw [State.hold_eq]
  exact ⟨hu, hq⟩

/-- Where neither a job nor an entry stands on the record, it is written, its pin released, and the failure reported. -/
theorem exec_handle_failing_idle {hd : Handle} {r : Rec} (ha : s.AsksByHandle k l items hd) (hf : s.find hd = some r)
    (hr : r.sound = false) (hb : ∀ l, r.body ≠ .damaged l) (hu : s.unitOn hd = none)
    (hq : ∀ y ∈ s.queue, y.handle ≠ hd) : exec (requestCommand k ⟨l, g⟩ items) s =
      .next ((s.damagedIdle hd.slot r (.record hd) (linkReader l)).judge.send l g k.code (.damaged (.record hd))) := by
  have own : (s.hold l k g).handleAt hd.slot = hd := State.handleAt_of_find _ ((s.find_hold l k g hd).trans hf)
  obtain ⟨hu, hq⟩ := State.hold_idle (l := l) (k := k) (g := g) hu hq
  rw [exec_handle_failing ha hf hr, State.damageRecord_report _ _ hb (own.symm ▸ hu) (own.symm ▸ hq)]
  exact State.finish_beside (f := fun t => t.damagedIdle hd.slot r _ _)
    (fun links => s.damagedIdle_withLinks links _ _ _ _) l k g _ ha.outstanding

/-! ### Requests by serial -/

theorem State.carrier_hold (serial : Nat) : (s.hold l k g).carrier serial = s.carrier serial := by
  rw [State.hold_eq]
  rfl

theorem State.handleAt_hold (n : Nat) : (s.hold l k g).handleAt n = s.handleAt n := by
  rw [State.hold_eq]
  rfl

theorem State.record_hold (n : Nat) : (s.hold l k g).record n = s.record n := by
  rw [State.hold_eq]
  rfl

theorem State.index_hold : (s.hold l k g).table.index = s.table.index := by
  rw [State.hold_eq]
  rfl

variable {serial : Nat} {x : IndexEntry}

/-- An index entry that failed before is answered without a report. -/
theorem exec_serial_failed (ha : s.AsksBySerial k l items serial) (hx : s.table.index.get serial = some x)
    (hf : x.failed = true) : exec (requestCommand k ⟨l, g⟩ items) s =
      .next (s.judge.send l g k.code (.damaged (.indexEntry serial ((s.carrier serial).map s.handleAt)))) := by
  have looked := State.lookupSerial_failed (s.hold l k g) (linkReader l) (by rw [State.index_hold]; exact hx) hf
  have same : (s.hold l k g).handleAt = s.handleAt := funext fun n => State.handleAt_hold n
  rw [State.carrier_hold, same] at looked
  rw [exec_asksBySerial ha looked]
  exact State.finish_beside (f := id) (fun _ => rfl) l k g _ ha.outstanding

/-- One that fails now and is carried by a record. -/
theorem exec_serial_carried {slot : Nat} {r : Rec} (ha : s.AsksBySerial k l items serial)
    (hx : s.table.index.get serial = some x) (hf : x.failed = false) (hs : x.sound = false)
    (hc : s.carrier serial = some slot) (hr : s.record slot = some r) : exec (requestCommand k ⟨l, g⟩ items) s =
      ((((s.hold l k g).putIndex serial { x with failed := true }).damageRecord slot r
        (.indexEntry serial (some (s.handleAt slot)))).report (.indexEntry serial (some (s.handleAt slot)))
          (linkReader l)).finish l (.damaged (.indexEntry serial (some (s.handleAt slot)))) := by
  refine exec_asksBySerial ha ?_
  rw [State.lookupSerial_failing (e := x) _ _ (by rw [State.index_hold]; exact hx) hf hs,
    State.failIndexEntry_carried _ _ x ((State.carrier_hold serial).trans hc) ((State.record_hold slot).trans hr),
    State.handleAt_hold]

/-- Where neither a job nor an entry stands on that record. -/
theorem exec_serial_carried_idle {slot : Nat} {r : Rec} (ha : s.AsksBySerial k l items serial)
    (hx : s.table.index.get serial = some x) (hf : x.failed = false) (hs : x.sound = false)
    (hc : s.carrier serial = some slot) (hr : s.record slot = some r) (hb : ∀ l, r.body ≠ .damaged l)
    (hu : s.unitOn (s.handleAt slot) = none) (hq : ∀ y ∈ s.queue, y.handle ≠ s.handleAt slot) :
    exec (requestCommand k ⟨l, g⟩ items) s =
      .next (((s.putIndex serial { x with failed := true }).damagedIdle slot r
        (.indexEntry serial (some (s.handleAt slot))) (linkReader l)).judge.send l g k.code
          (.damaged (.indexEntry serial (some (s.handleAt slot))))) := by
  have own : ((s.hold l k g).putIndex serial { x with failed := true }).handleAt slot = s.handleAt slot :=
    State.handleAt_hold slot
  obtain ⟨hu, hq⟩ := State.hold_idle (l := l) (k := k) (g := g) hu hq
  rw [exec_serial_carried ha hx hf hs hc hr, State.damageRecord_report _ _ hb (own.symm ▸ hu) (own.symm ▸ hq)]
  exact State.finish_beside (f := fun t => (t.putIndex serial { x with failed := true }).damagedIdle slot r _ _)
    (fun links => State.damagedIdle_withLinks (s.putIndex serial { x with failed := true }) links _ _ _ _) l k g _
    ha.outstanding

/-- One that fails now and is carried by no record. -/
theorem exec_serial_alone (ha : s.AsksBySerial k l items serial) (hx : s.table.index.get serial = some x)
    (hf : x.failed = false) (hs : x.sound = false) (hc : s.carrier serial = none) :
    exec (requestCommand k ⟨l, g⟩ items) s =
      .next (((s.putIndex serial { x with failed := true }).report (.indexEntry serial none)
        (linkReader l)).judge.send l g k.code (.damaged (.indexEntry serial none))) := by
  have looked := State.lookupSerial_failing (s.hold l k g) (linkReader l) (e := x)
    (by rw [State.index_hold]; exact hx) hf hs
  rw [State.failIndexEntry_alone _ _ x ((State.carrier_hold serial).trans hc)] at looked
  rw [exec_asksBySerial ha looked]
  exact State.finish_beside (f := fun t => (t.putIndex serial { x with failed := true }).report _ _)
    (fun links => State.report_withLinks (s.putIndex serial { x with failed := true }) links _ _) l k g _ ha.outstanding

/-- One that passes and leads to a record that fails. -/
theorem exec_serial_record {r : Rec} (ha : s.AsksBySerial k l items serial) (hx : s.table.index.get serial = some x)
    (hf : x.failed = false) (hs : x.sound = true) (hr : s.record x.slot = some r) (hb : r.sound = false) :
    exec (requestCommand k ⟨l, g⟩ items) s =
      (((s.hold l k g).damageRecord x.slot r (.record (s.handleAt x.slot))).report (.record (s.handleAt x.slot))
        (linkReader l)).finish l (.damaged (.record (s.handleAt x.slot))) := by
  refine exec_asksBySerial ha ?_
  rw [State.lookupSerial_record (e := x) (r := r) _ _ (by rw [State.index_hold]; exact hx) hf hs
    ((State.record_hold _).trans hr) hb, State.handleAt_hold]

/-! ### A GRANT -/

/-- A GRANT whose re-execution meets a failing read answers the saved request DAMAGED and itself DONE (R185, R127). -/
theorem exec_grant_failing {p : PositionNo} {grade : Nat} {session : Session} {slot : NormalSlot} {hd : Handle}
    {r : Rec} (hs : s.Serves .grant .supervisor items) (hp : positionOf items = some p)
    (hg : gradeOf items = some grade) (hc : s.ctx p = .escalated session slot) (hn : grade ≤ slot.needed)
    (hh : handleOf slot.request.items = some hd) (hf : s.find hd = some r) (hr : r.sound = false) : exec (.grant ⟨.supervisor, g⟩ items) s =
      .next ((((((s.hold .supervisor .grant g).setCtx p (.opened session none)).damageRecord hd.slot r
        (.record hd)).report (.record hd) (.position p)).answer (.position p) (.damaged (.record hd))).answer
        .supervisor (.done .plain)).judge := by
  have opened : ((s.hold .supervisor .grant g).setCtx p (.opened session none)).find hd = some r := by simpa using hf
  dsimp only [exec, execGrant, atPosition]
  rw [haltedRequest_serves .grant ⟨.supervisor, g⟩ items _ hs]
  simp only [hp, hg, State.ctx_hold, hc, if_neg (Nat.not_lt.2 hn)]
  obtain ⟨refusing, body, he⟩ := reexecute_withRecord p session grade slot.request
    ((s.hold .supervisor .grant g).setCtx p (.opened session none))
  rw [he, withRecord_failing _ p _ refusing body hh opened hr]
  simp only [State.finish, andThen]
  rw [State.judge_answer, State.judge_judge]

/-- Settles O28: the clauses of damage of a record, then the failing reads, one lemma for each way to the record. -/
theorem damageOfARecord : Obligations.DamageOfARecord := by
  unfold Obligations.DamageOfARecord
  refine ⟨fun s slot r subject _ => ⟨fun ⟨l, hl⟩ => s.damageRecord_damaged slot r subject l hl, fun hb => ?_⟩,
    fun k g items s l hd r ha hf hr => ⟨exec_handle_failing ha hf hr, exec_handle_failing_idle ha hf hr⟩,
    fun k g items s l serial x ha hx =>
      ⟨exec_serial_failed ha hx, fun hf hs => ⟨?_, exec_serial_alone ha hx hf hs⟩, ?_⟩,
    fun g items s p grade session slot hd r hs hp hg hc hn hh hf hr => exec_grant_failing hs hp hg hc hn hh hf hr,
    fun serial cells => ⟨fun slot => carrierAmong_some, carrierAmong_none⟩⟩
  · refine ⟨State.damageRecord_record hb, ?_, fun u => State.damageRecord_unit hb,
      fun u => State.damageRecord_unit_other hb, fun hu hq => s.damageRecord_idle slot r subject hb hu hq,
      fun x p o hu hx hp ho => ?_, fun u j hu hj hq => ⟨State.damageRecord_running_bank hb hu hj hq, fun hd => ?_,
        fun p o hd hp ho => ?_⟩, fun o ho => ?_⟩
    · rw [State.damageRecord_eq hb]
      exact State.dropEntryOn_handle _ _ _
    · rw [State.damageRecord_queued hb hu hx, hp]
      exact State.answers_of_position (s.damaging_links slot r) (s.damaging_answers slot r) ho
    · rw [State.damageRecord_running hb hu hj hq, if_pos hd]
      simp
    · rw [State.damageRecord_running hb hu hj hq, hd, hp]
      exact State.answers_of_position (by simp) (by simp) ho
    · rintro (⟨hu, x, hx, hp⟩ | ⟨hq, u, j, hu, hj, hd, hp⟩)
      · rw [State.damageRecord_queued hb hu hx, hp]
        exact State.answers_of_dispatch (s.damaging_links slot r) (s.damaging_answers slot r) ho
      · rw [State.damageRecord_running hb hu hj hq, hd, hp]
        exact State.answers_of_dispatch (by simp) (by simp) ho
  · rintro slot r _ hc hr rfl
    exact ⟨exec_serial_carried ha hx hf hs hc hr, exec_serial_carried_idle ha hx hf hs hc hr⟩
  · rintro r _ hf hs hr hb rfl
    exact exec_serial_record ha hx hf hs hr hb

end Sys2Proof.Machine
end

section
/-! The measures of a surcharge condition, the comparisons, the line of a surcharge and the chargeable mass (R35, R36,
R54): O30. -/
namespace Sys2Proof.Machine

/-! ### Measures and comparisons (R35) -/

/-- A side at or above the other two is the longest, and the girth adds twice the rest of the sum. -/
theorem Sides.girth_of_longest {s : Sides} {long rest : Nat} (hl : s.longest = long)
    (hsum : s.a + s.b + s.c = long + rest) : s.girth = long + 2 * rest := by
  rw [Sides.girth, hl, hsum, Nat.add_sub_cancel_left]

/-- Whichever side is the longest, the girth is that side plus twice the sum of the other two. -/
theorem Sides.girth_cases (s : Sides) :
    (s.b ≤ s.a → s.c ≤ s.a → s.girth = s.a + 2 * (s.b + s.c)) ∧
    (s.a ≤ s.b → s.c ≤ s.b → s.girth = s.b + 2 * (s.a + s.c)) ∧
    (s.a ≤ s.c → s.b ≤ s.c → s.girth = s.c + 2 * (s.a + s.b)) := by
  refine ⟨fun hb hc => girth_of_longest ?_ ?_, fun ha hc => girth_of_longest ?_ ?_,
    fun ha hb => girth_of_longest ?_ ?_⟩
  · exact max_eq_left (max_le hb hc)
  · omega
  · exact (max_eq_right (le_max_of_le_left ha)).trans (max_eq_left hc)
  · omega
  · exact (max_eq_right (le_max_of_le_right ha)).trans (max_eq_right hb)
  · omega

section
variable {v t : Nat}

@[simp] theorem Comparison.holds_always : Comparison.always.holds v t = true := rfl

@[simp] theorem Comparison.holds_above : Comparison.above.holds v t = true ↔ v > t := decide_eq_true_iff

@[simp] theorem Comparison.holds_atLeast : Comparison.atLeast.holds v t = true ↔ v ≥ t := decide_eq_true_iff

@[simp] theorem Comparison.holds_below : Comparison.below.holds v t = true ↔ v < t := decide_eq_true_iff

@[simp] theorem Comparison.holds_atMost : Comparison.atMost.holds v t = true ↔ v ≤ t := decide_eq_true_iff

@[simp] theorem Comparison.holds_equal : Comparison.equal.holds v t = true ↔ v = t := decide_eq_true_iff

@[simp] theorem Comparison.holds_notEqual : Comparison.notEqual.holds v t = true ↔ v ≠ t := decide_eq_true_iff

end

/-! ### The line of a surcharge (R36) -/

section
variable {d : Surcharge} {base : Nat}

theorem Surcharge.lineAmount_fixed {n : Int} (ha : d.amount = .fixed n) : d.lineAmount base = some n := by
  rw [Surcharge.lineAmount, ha]

/-- The PER MILLE amount `k` is the base times the value over 1,000, rounded down; a line holds it up to 999,999. -/
theorem Surcharge.lineAmount_perMille {v k : Nat} (ha : d.amount = .perMille v) (hk : base * v / 1000 = k) :
    d.lineAmount base = if k ≤ 999999 then some (k : Int) else none := by
  simp only [Surcharge.lineAmount, ha, hk, Config.lineMax]

variable {sel : Selector} {m : Measured}

theorem lineOf_not_holds (hd : d.holds m = false) : lineOf sel d m base = .ok none := by
  simp [lineOf, hd]

theorem lineOf_amount {a : Int} (hd : d.holds m = true) (ha : d.lineAmount base = some a) :
    lineOf sel d m base = .ok (some ⟨sel, a⟩) := by
  simp [lineOf, hd, ha]

theorem lineOf_amountRange (hd : d.holds m = true) (ha : d.lineAmount base = none) :
    lineOf sel d m base = .error (.fault ⟨.amountRange, .selector sel, none⟩) := by
  simp [lineOf, hd, ha, faultOf]

end

/-! ### The chargeable mass (R54) -/

/-- The volumetric mass is the one number that is the quotient by 5,000 rounded up. -/
theorem Sides.volumetric_eq {s : Sides} {v : Nat} (hlt : 5000 * v < s.a * s.b * s.c + 5000)
    (hle : s.a * s.b * s.c ≤ 5000 * v) : s.volumetric = v := by
  have : s.volumetric = (s.a * s.b * s.c + 4999) / 5000 := rfl
  omega

theorem chargeableMass_flat (mass : Nat) (sides : Sides) : chargeableMass false mass sides = mass := rfl

theorem chargeableMass_volumetric (mass : Nat) (sides : Sides) :
    chargeableMass true mass sides = max mass sides.volumetric := rfl

/-- Settles O30: the measures with the girth by its longest side, each comparison, the line by the form of its amount,
and the chargeable mass by the one rounded quotient. -/
theorem measuresAndSurchargeLines : Obligations.MeasuresAndSurchargeLines := by
  unfold Obligations.MeasuresAndSurchargeLines
  refine ⟨fun m => ⟨rfl, rfl, fun x y z hxyz => ?_, rfl, rfl, fun v t => ?_⟩,
    fun sel d m base => ⟨lineOf_not_holds, fun n hd ha => lineOf_amount hd (Surcharge.lineAmount_fixed ha),
      fun v k hd ha hle hlt => ?_⟩,
    fun mass sides => ⟨chargeableMass_flat mass sides, fun v hlt hle => ?_⟩⟩
  · cases hxyz
    exact m.sides.girth_cases
  · exact ⟨Comparison.holds_always, Comparison.holds_above, Comparison.holds_atLeast, Comparison.holds_below,
      Comparison.holds_atMost, Comparison.holds_equal, Comparison.holds_notEqual⟩
  · have amount := Surcharge.lineAmount_perMille ha (base := base) (k := k) (by omega)
    exact ⟨fun within => lineOf_amount hd (by rw [amount, if_pos within]),
      fun above => lineOf_amountRange hd (by rw [amount, if_neg (Nat.not_le_of_lt above)])⟩
  · rw [chargeableMass_volumetric, Sides.volumetric_eq hlt hle]
    exact ⟨max_eq_left, max_eq_right⟩

end Sys2Proof.Machine
end

section
/-! SUPPORT. A procedure's outcome with the number of its reading left out (R47): on a bank that stands still the steps of a
procedure are the steps of the readings themselves. -/
namespace Sys2Proof.Machine

variable {ε α β : Type}

/-! ### One outcome after another -/

@[simp] theorem ok_bind (a : α) (f : α → Except ε β) : (Except.ok a >>= f) = f a := rfl

@[simp] theorem error_bind (e : ε) (f : α → Except ε β) : (Except.error e >>= f) = .error e := rfl

/-- Two steps end well where the first does and the second does from there. -/
theorem bind_eq_ok_iff {x : Except ε α} {f : α → Except ε β} {y : β} :
    (x >>= f) = .ok y ↔ ∃ a, x = .ok a ∧ f a = .ok y := by
  cases x with
  | ok a => exact ⟨fun h => ⟨a, rfl, h⟩, by rintro ⟨_, ⟨⟩, h⟩; exact h⟩
  | error e => exact ⟨nofun, by rintro ⟨_, ⟨⟩, _⟩⟩

/-! ### Readings without their number -/

@[simp] theorem onOneBank_atReading (n : Nat) (x : Except Stop α) : onOneBank (atReading n x) = x := by
  cases x <;> rfl

@[simp] theorem onOneBank_bind (x : Except StopAt α) (f : α → Except StopAt β) :
    onOneBank (x >>= f) = onOneBank x >>= fun a => onOneBank (f a) := by
  cases x <;> rfl

@[simp] theorem onOneBank_pure (a : α) : onOneBank (pure a : Except StopAt α) = .ok a := rfl

@[simp] theorem onOneBank_throw (x : StopAt) : onOneBank (throw x : Except StopAt α) = .error x.stop := rfl

@[simp] theorem onOneBank_map (f : α → β) (x : Except StopAt α) : onOneBank (x.map f) = (onOneBank x).map f := by
  cases x <;> rfl

end Sys2Proof.Machine
end

section
/-! The readings of a bank: resolving a selector (R48), the catalogue and zone lookups (R26, R28), the recheck of COMMIT (R89)
and RATE OPTION (R60, R61): O32. -/
namespace Sys2Proof.Machine

variable {b : Bank} {code district fuel n : Nat} {sel : Selector}

/-! ### Resolving a selector (R48) -/

section
variable {wanted : Wanted} {checked : Option Nat}

theorem resolve_nullSelector : resolve b ⟨.n, 0⟩ wanted checked =
    .error (.fault ⟨.nullSelector, .selector ⟨.n, 0⟩, none⟩) := rfl

theorem resolve_noSupplement (hn : sel ≠ ⟨.n, 0⟩) (ht : sel.table = .h) (hl : b.hLimit = 0) :
    resolve b sel wanted checked = .error (.fault ⟨.noSupplement, .selector sel, none⟩) := by
  simp [resolve, hn, ht, hl, faultOf]

theorem resolve_beyondLimit (hn : sel ≠ ⟨.n, 0⟩) (hs : sel.table = .h → b.hLimit ≠ 0) (hl : b.limit sel.table ≤ sel.index) :
    resolve b sel wanted checked = .error (.fault ⟨.beyondLimit, .selector sel, none⟩) := by
  have supplement : ¬(sel.table = .h ∧ b.hLimit = 0) := fun h => hs h.1 h.2
  simp only [resolve, if_neg hn, if_neg supplement, if_pos hl, faultOf]

/-- An index within its table's limit belongs to a table that is not empty. -/
theorem supplement_of_within (hl : sel.index < b.limit sel.table) : ¬(sel.table = .h ∧ b.hLimit = 0) := by
  rintro ⟨ht, hz⟩
  rw [ht, Bank.limit, hz] at hl
  exact absurd hl (Nat.not_lt_zero _)

/-- Past the first three checks a resolution goes by its slot alone. -/
theorem resolve_within (hn : sel ≠ ⟨.n, 0⟩) (hl : sel.index < b.limit sel.table) :
    resolve b sel wanted checked =
      if (b.slotCell sel).damaged then .error (.fault ⟨.damagedTariff, .selector sel, none⟩)
      else if (b.slotCell sel).sound = false then .error (.badRead (.slot sel) ⟨.damagedTariff, .selector sel, none⟩)
      else if wanted.accepts (b.slotCell sel).content = false then .error (.fault ⟨.wrongKind, .selector sel, none⟩)
      else if (b.slotCell sel).present = false then .error (.fault ⟨.notPresent, .selector sel, none⟩)
      else (gradeFault sel (b.slotCell sel).content checked).elim (.ok (b.slotCell sel).content) (.error ∘ .fault) := by
  simp only [resolve, if_neg hn, if_neg (supplement_of_within hl), if_neg (Nat.not_le_of_lt hl), Bool.not_eq_true', faultOf]
  cases gradeFault sel (b.slotCell sel).content checked <;> rfl

theorem gradeFault_below {d : Descriptor} {eg needed : Nat} (hg : d.accessGrade = some needed) (h : needed < eg) :
    gradeFault sel d (some eg) = some ⟨.grade, .selector sel, some (needed, eg)⟩ := by
  simp [gradeFault, hg, h]

/-- No grade is checked, the descriptor has none, or it reaches the grade checked. -/
theorem gradeFault_eq_none {d : Descriptor}
    (h : ∀ eg needed, checked = some eg → d.accessGrade = some needed → eg ≤ needed) : gradeFault sel d checked = none := by
  unfold gradeFault
  split
  · rename_i eg needed hg
    exact if_neg (Nat.not_lt_of_le (h eg needed rfl hg))
  · rfl

end

/-! ### The catalogue walk (R26) -/

theorem lookupCode_eq : lookupCode b code = walkCatalogue b code 32 0 := rfl

theorem walkCatalogue_zero : walkCatalogue b code 0 n = .error (.fault ⟨.unknownService, .code code, none⟩) := rfl

theorem walkCatalogue_damaged (hd : (b.segmentCell n).damaged = true) :
    walkCatalogue b code (fuel + 1) n = .error (.fault ⟨.damagedTariff, .code code, none⟩) := by
  simp [walkCatalogue, hd, faultOf]

theorem walkCatalogue_unused (hd : (b.segmentCell n).damaged = false) (hc : (b.segmentCell n).content = none) :
    walkCatalogue b code (fuel + 1) n = .error (.fault ⟨.unknownService, .code code, none⟩) := by
  simp [walkCatalogue, hd, hc, faultOf]

section
variable {x : Segment} (hd : (b.segmentCell n).damaged = false) (hc : (b.segmentCell n).content = some x)
include hd hc

theorem walkCatalogue_unsound (hs : (b.segmentCell n).sound = false) :
    walkCatalogue b code (fuel + 1) n = .error (.badRead (.segment n) ⟨.damagedTariff, .code code, none⟩) := by
  simp [walkCatalogue, hd, hc, hs, faultOf]

theorem walkCatalogue_hit (hs : (b.segmentCell n).sound = true) (hf : x.first ≤ code) (hl : code ≤ x.last) :
    walkCatalogue b code (fuel + 1) n = .ok ⟨x.base.table, x.base.index + (code - x.first)⟩ := by
  simp [walkCatalogue, hd, hc, hs, hf, hl]

theorem walkCatalogue_end (hs : (b.segmentCell n).sound = true) (ho : ¬(x.first ≤ code ∧ code ≤ x.last))
    (hx : x.next = none) :
    walkCatalogue b code (fuel + 1) n = .error (.fault ⟨.unknownService, .code code, none⟩) := by
  simp only [walkCatalogue, hd, hc, hs, if_neg ho, hx, faultOf, Bool.not_true, Bool.false_eq_true, if_false]

theorem walkCatalogue_next {m : Nat} (hs : (b.segmentCell n).sound = true) (ho : ¬(x.first ≤ code ∧ code ≤ x.last))
    (hx : x.next = some m) : walkCatalogue b code (fuel + 1) n = walkCatalogue b code fuel m := by
  simp only [walkCatalogue, hd, hc, hs, if_neg ho, hx, Bool.not_true, Bool.false_eq_true, if_false]

end

/-- The fault a stop gives. -/
def Stop.report : Stop → FaultReport
  | .fault f => f
  | .badRead _ f => f

/-- Whatever stops the walk, the fault is of the code looked up. -/
theorem walkCatalogue_subject {stop : Stop} (h : walkCatalogue b code fuel n = .error stop) :
    stop.report.subject = .code code := by
  induction fuel generalizing n with
  | zero => cases h; rfl
  | succ fuel ih =>
    cases hd : (b.segmentCell n).damaged with
    | true => rw [walkCatalogue_damaged hd] at h; cases h; rfl
    | false =>
      cases hc : (b.segmentCell n).content with
      | none => rw [walkCatalogue_unused hd hc] at h; cases h; rfl
      | some x =>
        cases hs : (b.segmentCell n).sound with
        | false => rw [walkCatalogue_unsound hd hc hs] at h; cases h; rfl
        | true =>
          by_cases hr : x.first ≤ code ∧ code ≤ x.last
          · rw [walkCatalogue_hit hd hc hs hr.1 hr.2] at h
            cases h
          · cases hx : x.next with
            | none => rw [walkCatalogue_end hd hc hs hr hx] at h; cases h; rfl
            | some m => exact ih ((walkCatalogue_next hd hc hs hr hx).symm.trans h)

/-! ### The zone lookup (R28) -/

section
variable {c : Cell Zone} {rest : List (Nat × Cell Zone)}

theorem scanZones_damaged (hd : c.damaged = true) :
    scanZones district ((n, c) :: rest) = .error (.fault ⟨.damagedTariff, .district district, none⟩) := by
  simp [scanZones, hd, faultOf]

theorem scanZones_unused (hd : c.damaged = false) (hc : c.content = none) :
    scanZones district ((n, c) :: rest) = scanZones district rest := by
  simp [scanZones, hd, hc]

variable {z : Zone} (hd : c.damaged = false) (hc : c.content = some z)
include hd hc

theorem scanZones_unsound (hs : c.sound = false) :
    scanZones district ((n, c) :: rest) = .error (.badRead (.place n) ⟨.damagedTariff, .district district, none⟩) := by
  simp [scanZones, hd, hc, hs, faultOf]

theorem scanZones_below (hs : c.sound = true) (hz : z.high < district) :
    scanZones district ((n, c) :: rest) = scanZones district rest := by
  simp [scanZones, hd, hc, hs, hz]

theorem scanZones_hit (hs : c.sound = true) (hl : z.low ≤ district) (hh : district ≤ z.high) :
    scanZones district ((n, c) :: rest) = .ok z := by
  simp [scanZones, hd, hc, hs, hl, Nat.not_lt_of_le hh]

theorem scanZones_noZone (hs : c.sound = true) (hl : district < z.low) (hh : district ≤ z.high) :
    scanZones district ((n, c) :: rest) = .error (.fault ⟨.noZone, .district district, none⟩) := by
  simp [scanZones, hd, hc, hs, Nat.not_le_of_lt hl, Nat.not_lt_of_le hh, faultOf]

end

/-! ### The recheck of COMMIT (R89) -/

theorem recheckSlot_damaged (hd : (b.slotCell sel).damaged = true) : recheckSlot b sel = .error ⟨.selector sel, none⟩ := by
  simp [recheckSlot, hd]

theorem recheckSlot_unsound (hd : (b.slotCell sel).damaged = false) (hs : (b.slotCell sel).sound = false) :
    recheckSlot b sel = .error ⟨.selector sel, some (.slot sel)⟩ := by
  simp [recheckSlot, hd, hs]

theorem recheckSlot_notPresent (hd : (b.slotCell sel).damaged = false) (hs : (b.slotCell sel).sound = true)
    (hp : (b.slotCell sel).present = false) : recheckSlot b sel = .error ⟨.selector sel, none⟩ := by
  simp [recheckSlot, hd, hs, hp]

theorem recheckSlot_present (hd : (b.slotCell sel).damaged = false) (hs : (b.slotCell sel).sound = true)
    (hp : (b.slotCell sel).present = true) : recheckSlot b sel = .ok (b.slotCell sel).content := by
  simp [recheckSlot, hd, hs, hp]

theorem recheck_fault {f : FaultReport} (h : lookupCode b code = .error (.fault f)) :
    recheck b code = .error ⟨.code code, none⟩ := by
  have subject : f.subject = .code code := walkCatalogue_subject h
  simp only [recheck, h, subject]

theorem recheck_badRead {e : BankEntry} {f : FaultReport} (h : lookupCode b code = .error (.badRead e f)) :
    recheck b code = .error ⟨.code code, some e⟩ := by
  have subject : f.subject = .code code := walkCatalogue_subject h
  simp only [recheck, h, subject]

section
variable (hl : lookupCode b code = .ok sel)
include hl

theorem recheck_withdrawn {w : Withdrawn} (hs : recheckSlot b sel = .error w) : recheck b code = .error w := by
  simp only [recheck, hl, hs]

theorem recheck_service {d : Service} (hs : recheckSlot b sel = .ok (.service d)) : recheck b code = .ok d := by
  simp only [recheck, hl, hs]

variable {grade : Nat} {target : Selector} (hs : recheckSlot b sel = .ok (.redirect grade target))
include hs

theorem recheck_redirect_withdrawn {w : Withdrawn} (ht : recheckSlot b target = .error w) : recheck b code = .error w := by
  simp only [recheck, hl, hs, ht]

theorem recheck_redirect_service {d : Service} (ht : recheckSlot b target = .ok (.service d)) : recheck b code = .ok d := by
  simp only [recheck, hl, hs, ht]

end

/-! ### The line of a selector, and RATE OPTION (R56, R57, R60, R61) -/

theorem surchargeLine_stop {grade base : Nat} {m : Measured} {stop : Stop}
    (h : resolve b sel .surcharge (some grade) = .error stop) : surchargeLine b sel grade m base = .error stop := by
  simp only [surchargeLine, h]

theorem surchargeLine_surcharge {grade base : Nat} {m : Measured} {d : Surcharge}
    (h : resolve b sel .surcharge (some grade) = .ok (.surcharge d)) :
    surchargeLine b sel grade m base = lineOf sel d m base := by
  simp only [surchargeLine, h]

section
variable {v : OptionValues} {eg : Nat}

/-- RATE OPTION on one bank: look the code up, take its line, check it. -/
theorem rateAddedOption_eq : rateAddedOption b v eg =
    (do let sel ← lookupCode b v.code
        let line ← surchargeLine b sel eg ⟨v.chargeable, v.sides, v.declaredValue.getD 0, v.zone⟩ v.base
        checkAddedLine sel v line) := by
  simp only [rateAddedOption, rateAddedOptionAt, onOneBank_bind, onOneBank_atReading]

theorem checkAddedLine_within {l : Line} (h0 : 0 ≤ l.amount) (ht : (v.total : Int) + l.amount ≤ 99999999)
    (ha : (v.adjustment : Int) + l.amount ≤ 99999999) : checkAddedLine sel v (some l) = .ok (some l) := by
  have : ((Config.totalMax : Nat) : Int) = 99999999 := rfl
  exact if_neg (by omega)

theorem checkAddedLine_amountRange {l : Line}
    (h : l.amount < 0 ∨ 99999999 < (v.total : Int) + l.amount ∨ 99999999 < (v.adjustment : Int) + l.amount) :
    checkAddedLine sel v (some l) = .error (.fault ⟨.amountRange, .selector sel, none⟩) := if_pos h

end

/-- Settles O32: the checks of a resolution in their order, each visit of the catalogue walk and of the zone lookup, the
recheck by what its walk and its slots give, and RATE OPTION as its three steps. -/
theorem selectorAndCatalogueChecks : Obligations.SelectorAndCatalogueChecks := by
  unfold Obligations.SelectorAndCatalogueChecks
  refine ⟨fun b sel wanted checked => ⟨?_, resolve_noSupplement, resolve_beyondLimit, fun hn hl => ?_⟩,
    fun b code => ⟨lookupCode_eq, fun n => ⟨walkCatalogue_zero, fun fuel => ⟨walkCatalogue_damaged, walkCatalogue_unused,
      fun x hd hc => ⟨walkCatalogue_unsound hd hc, walkCatalogue_hit hd hc, walkCatalogue_end hd hc,
        fun m => walkCatalogue_next hd hc⟩⟩⟩⟩,
    fun b district => ⟨rfl, rfl, fun n c rest => ⟨scanZones_damaged, scanZones_unused, fun z hd hc =>
      ⟨scanZones_unsound hd hc, scanZones_below hd hc, scanZones_hit hd hc, scanZones_noZone hd hc⟩⟩⟩,
    fun b code => ⟨fun f => recheck_fault, fun e f => recheck_badRead, fun sel hl => ?_⟩,
    fun b v eg => ⟨fun stop hl => ?_, fun sel hl => ⟨fun stop hr => ?_, fun d hr => ?_⟩⟩⟩
  · rintro rfl
    exact resolve_nullSelector
  · rw [resolve_within hn hl]
    refine ⟨fun hd => if_pos hd, fun hd hs => by simp [hd, hs], fun hd hs => ⟨fun hk => by simp [hd, hs, hk],
      fun hk hp => by simp [hd, hs, hk, hp], fun eg needed hk hp hc hg hlt => ?_, fun hk hp hg => ?_⟩⟩
    · simp [hd, hs, hk, hp, hc, gradeFault_below hg hlt]
    · simp [hd, hs, hk, hp, gradeFault_eq_none hg]
  · refine ⟨fun hd => recheck_withdrawn hl (recheckSlot_damaged hd),
      fun hd hs => recheck_withdrawn hl (recheckSlot_unsound hd hs), fun hd hs =>
        ⟨fun hp => recheck_withdrawn hl (recheckSlot_notPresent hd hs hp), fun d hp hc => ?_, fun grade target hp hc => ?_⟩⟩
    · exact recheck_service hl ((recheckSlot_present hd hs hp).trans (congrArg _ hc))
    have reached : recheckSlot b sel = .ok (.redirect grade target) :=
      (recheckSlot_present hd hs hp).trans (congrArg _ hc)
    refine ⟨fun td => recheck_redirect_withdrawn hl reached (recheckSlot_damaged td),
      fun td ts => recheck_redirect_withdrawn hl reached (recheckSlot_unsound td ts), fun td ts =>
        ⟨fun tp => recheck_redirect_withdrawn hl reached (recheckSlot_notPresent td ts tp), fun d tp tc => ?_⟩⟩
    exact recheck_redirect_service hl reached ((recheckSlot_present td ts tp).trans (congrArg _ tc))
  · rw [rateAddedOption_eq, hl, error_bind]
  · rw [rateAddedOption_eq, hl, ok_bind, surchargeLine_stop hr, error_bind]
  · rw [rateAddedOption_eq, hl, ok_bind, surchargeLine_surcharge hr]
    refine ⟨fun stop h => by rw [h, error_bind], fun h => by rw [h, ok_bind]; rfl, fun l h => ?_⟩
    rw [h, ok_bind]
    exact ⟨checkAddedLine_within, checkAddedLine_amountRange⟩

end Sys2Proof.Machine
end

section
/-! The rating order step by step (R50 to R59) and what a job runs of it (R44, R45): O31, O33. -/
namespace Sys2Proof.Machine

variable {b : Bank} {l : BankLetter} {edition eg : Nat} {v : ParcelValues} {stop : Stop}

/-! ### Step 1: the required values (R51) -/

theorem requirePresent_mass_absent (hm : v.mass = none) :
    requirePresent v = .error (.fault ⟨.missingAttribute, .field .mass, none⟩) := by
  simp only [requirePresent, hm, faultOf]

section
variable {mass : Nat} (hm : v.mass = some mass)
include hm

theorem requirePresent_sides_absent (hs : v.sides = none) :
    requirePresent v = .error (.fault ⟨.missingAttribute, .field .sides, none⟩) := by
  simp only [requirePresent, hm, hs, faultOf]

variable {sides : Sides} (hs : v.sides = some sides)
include hs

theorem requirePresent_destination_absent (hd : v.destination = none) :
    requirePresent v = .error (.fault ⟨.missingAttribute, .field .destination, none⟩) := by
  simp only [requirePresent, hm, hs, hd, faultOf]

variable {district : Nat} (hd : v.destination = some district)
include hd

theorem requirePresent_serviceCode_absent (hc : v.serviceCode = none) :
    requirePresent v = .error (.fault ⟨.missingAttribute, .field .serviceCode, none⟩) := by
  simp only [requirePresent, hm, hs, hd, hc, faultOf]

theorem requirePresent_present {code : Nat} (hc : v.serviceCode = some code) :
    requirePresent v = .ok ⟨mass, sides, district, code⟩ := by
  simp only [requirePresent, hm, hs, hd, hc]

end

/-- Step 1 ends well where the four values are there, and hands them on. -/
theorem requirePresent_eq_ok {p : Required} (h : requirePresent v = .ok p) :
    v.mass = some p.mass ∧ v.sides = some p.sides ∧ v.destination = some p.destination ∧
      v.serviceCode = some p.serviceCode := by
  unfold requirePresent at h
  split at h
  case h_5 hm hs hd hc =>
    cases h
    exact ⟨hm, hs, hd, hc⟩
  all_goals cases h

/-! ### Step 3: the service (R52, R46) -/

/-- The number a resolution carries does not count on one bank. -/
theorem findServiceAt_onOneBank (n : Nat) (sel : Selector) :
    onOneBank (findServiceAt (fun _ => b) n sel eg) = findService b sel eg := by
  unfold findService findServiceAt
  dsimp only
  cases resolve b sel .serviceOrRedirect (some eg) with
  | error stop => rfl
  | ok d =>
    cases d with
    | redirect grade target =>
      dsimp only
      cases resolve b target .service none with
      | error stop => rfl
      | ok d => cases d <;> rfl
    | _ => rfl

section
variable {sel : Selector}

theorem findService_stop (h : resolve b sel .serviceOrRedirect (some eg) = .error stop) :
    findService b sel eg = .error stop := by
  simp only [findService, findServiceAt, h, onOneBank]

theorem findService_direct {d : Service} (h : resolve b sel .serviceOrRedirect (some eg) = .ok (.service d)) :
    findService b sel eg = .ok ⟨sel, d, eg⟩ := by
  simp only [findService, findServiceAt, h, onOneBank]

variable {grade : Nat} {target : Selector}
  (h : resolve b sel .serviceOrRedirect (some eg) = .ok (.redirect grade target))
include h

theorem findService_redirect_stop (ht : resolve b target .service none = .error stop) :
    findService b sel eg = .error stop := by
  simp only [findService, findServiceAt, h, ht, onOneBank]

theorem findService_redirect {d : Service} (ht : resolve b target .service none = .ok (.service d)) :
    findService b sel eg = .ok ⟨target, d, d.grade⟩ := by
  simp only [findService, findServiceAt, h, ht, onOneBank]

end

/-! ### Steps 4 and 5: the scope and the customs data (R53) -/

theorem Scope.admitsDistrict_iff (district : Nat) :
    (Scope.domestic.admitsDistrict district = true ↔ district < 10000) ∧
    (Scope.international.admitsDistrict district = true ↔ 10000 ≤ district) ∧
    Scope.both.admitsDistrict district = true := ⟨decide_eq_true_iff, decide_eq_true_iff, rfl⟩

theorem customsMissing_exempt {d : Service} (hd : d.customs = false) : customsMissing d v = none := by
  simp [customsMissing, hd]

section
variable {d : Service} (hd : d.customs = true)
include hd

theorem customsMissing_declaredValue (hv : v.declaredValue = none) : customsMissing d v = some .declaredValue := by
  simp [customsMissing, hd, hv]

theorem customsMissing_contentCategory (hv : v.declaredValue ≠ none) (hc : v.contentCategory = none) :
    customsMissing d v = some .contentCategory := by
  simp [customsMissing, hd, hv, hc]

theorem customsMissing_complete (hv : v.declaredValue ≠ none) (hc : v.contentCategory ≠ none) :
    customsMissing d v = none := by
  simp [customsMissing, hd, hv, hc]

end

/-- Steps 4 and 5: whether the service found carries the parcel there, with its customs data. -/
def judgeService (f : ServiceFound) (district : Nat) (v : ParcelValues) : Except Stop Unit :=
  if f.service.scope.admitsDistrict district then
    (customsMissing f.service v).elim (.ok ()) fun field => .error (.fault ⟨.customsDataMissing, .field field, none⟩)
  else .error (.fault ⟨.scopeMismatch, .selector f.sel, none⟩)

section
variable {f : ServiceFound} {district : Nat}

theorem judgeService_scopeMismatch (h : f.service.scope.admitsDistrict district = false) :
    judgeService f district v = .error (.fault ⟨.scopeMismatch, .selector f.sel, none⟩) := by
  simp [judgeService, h]

theorem judgeService_customsMissing (h : f.service.scope.admitsDistrict district = true) {field : ParcelField}
    (hc : customsMissing f.service v = some field) :
    judgeService f district v = .error (.fault ⟨.customsDataMissing, .field field, none⟩) := by
  simp [judgeService, h, hc]

theorem judgeService_passed (h : f.service.scope.admitsDistrict district = true)
    (hc : customsMissing f.service v = none) : judgeService f district v = .ok () := by
  simp [judgeService, h, hc]

end

/-! ### Steps 7 and 8: the chargeable mass and the base (R54, R55) -/

theorem le_chargeableMass (volumetric : Bool) (mass : Nat) (sides : Sides) : mass ≤ chargeableMass volumetric mass sides := by
  cases volumetric with
  | false => exact (chargeableMass_flat mass sides).ge
  | true => exact (le_max_left mass _).trans (chargeableMass_volumetric mass sides).ge

section
variable {mass n : Nat} {bands : List Band}

/-- The bands below the mass are passed over and counted. -/
theorem bandFor_append {before : List Band} (hb : ∀ x ∈ before, x.limit < mass) (rest : List Band) :
    bandFor mass n (before ++ rest) = bandFor mass (n + before.length) rest := by
  induction before generalizing n with
  | nil => rfl
  | cons x before ih =>
    have below : ¬mass ≤ x.limit := Nat.not_le_of_lt (hb x List.mem_cons_self)
    rw [List.cons_append, bandFor, if_neg below, ih fun y hy => hb y (List.mem_cons_of_mem _ hy), List.length_cons,
      Nat.add_right_comm, Nat.add_assoc]

theorem bandFor_first {before after : List Band} {band : Band} (hb : ∀ x ∈ before, x.limit < mass)
    (hm : mass ≤ band.limit) : bandFor mass n (before ++ band :: after) = some (n + before.length, band) := by
  rw [bandFor_append hb, bandFor, if_pos hm]

theorem bandFor_none (hb : ∀ x ∈ bands, x.limit < mass) : bandFor mass n bands = none := by
  rw [← bands.append_nil, bandFor_append hb, bandFor]

/-- The bands are numbered from `n` upward. -/
theorem le_of_bandFor {k : Nat} {band : Band} (h : bandFor mass n bands = some (k, band)) : n ≤ k := by
  induction bands generalizing n with
  | nil => cases h
  | cons x rest ih =>
    rw [bandFor] at h
    split at h
    · cases h
      exact le_rfl
    · exact (Nat.le_succ n).trans (ih h)

end

section
variable {sel : Selector} {mass zone : Nat}

theorem findBase_stop (h : resolve b sel .rate none = .error stop) : findBase b sel mass zone = .error stop := by
  simp only [findBase, h]

section
variable {bands : List Band} (h : resolve b sel .rate none = .ok (.rate bands))
include h

theorem findBase_band {n price : Nat} {band : Band} (hb : bandFor mass 1 bands = some (n, band))
    (hp : band.prices[zone - 1]? = some price) : findBase b sel mass zone = .ok (n, price) := by
  simp only [findBase, h, hb, List.getD_eq_getElem?_getD, hp, Option.getD_some]

theorem findBase_overMassLimit (hb : bandFor mass 1 bands = none) :
    findBase b sel mass zone = .error (.fault ⟨.overMassLimit, .selector sel, none⟩) := by
  simp only [findBase, h, hb, faultOf]

end

/-- Bands are numbered from 1. -/
theorem one_le_of_findBase {band : Nat × Nat} (h : findBase b sel mass zone = .ok band) : 1 ≤ band.1 := by
  unfold findBase at h
  split at h
  · cases h
  · split at h
    · rename_i hband
      cases h
      exact le_of_bandFor hband
    · cases h
  · cases h

end

/-! ### Steps 9 and 10: the lines (R56, R57) -/

section
variable {base n : Nat} {m : Measured}

theorem listedLines_nil {ag : Nat} : onOneBank (listedLines (fun _ => b) ag m base n []) = .ok [] := rfl

theorem listedLines_cons {ag : Nat} (sel : Selector) (rest : List Selector) :
    onOneBank (listedLines (fun _ => b) ag m base n (sel :: rest)) =
      (do let line ← surchargeLine b sel ag m base
          let more ← onOneBank (listedLines (fun _ => b) ag m base (n + 1) rest)
          .ok (line.toList ++ more)) := by
  simp only [listedLines, onOneBank_bind, onOneBank_atReading, onOneBank_pure]

theorem optionLines_nil : onOneBank (optionLines (fun _ => b) eg m base n []) = .ok [] := rfl

theorem optionLines_cons (code : Nat) (rest : List Nat) :
    onOneBank (optionLines (fun _ => b) eg m base n (code :: rest)) =
      (do let sel ← lookupCode b code
          let line ← surchargeLine b sel eg m base
          let more ← onOneBank (optionLines (fun _ => b) eg m base (n + 2) rest)
          .ok (line.toList ++ more)) := by
  simp only [optionLines, onOneBank_bind, onOneBank_atReading, onOneBank_pure]

/-- The line of a surcharge, then the lines of the rest. -/
theorem lines_in_turn {x : Except Stop (Option Line)} {y : Except Stop (List Line)} :
    (∀ stop, x = .error stop → (do let line ← x; let more ← y; .ok (line.toList ++ more)) = .error stop) ∧
    ∀ line, x = .ok line →
      (∀ stop, y = .error stop → (do let line ← x; let more ← y; .ok (line.toList ++ more)) = .error stop) ∧
      ∀ more, y = .ok more → (do let line ← x; let more ← y; .ok (line.toList ++ more)) = .ok (line.toList ++ more) := by
  refine ⟨?_, ?_⟩
  · rintro stop rfl
    rfl
  · rintro line rfl
    exact ⟨by rintro stop rfl; rfl, by rintro more rfl; rfl⟩

theorem listedLines_length {ag : Nat} {sels : List Selector} {lines : List Line}
    (h : onOneBank (listedLines (fun _ => b) ag m base n sels) = .ok lines) : lines.length ≤ sels.length := by
  induction sels generalizing n lines with
  | nil => cases h; exact le_rfl
  | cons sel rest ih =>
    simp only [listedLines_cons, bind_eq_ok_iff] at h
    obtain ⟨line, -, more, hmore, ⟨⟩⟩ := h
    rw [List.length_append, List.length_cons, Nat.add_comm rest.length]
    exact Nat.add_le_add (Option.length_toList_le) (ih hmore)

theorem optionLines_length {codes : List Nat} {lines : List Line}
    (h : onOneBank (optionLines (fun _ => b) eg m base n codes) = .ok lines) : lines.length ≤ codes.length := by
  induction codes generalizing n lines with
  | nil => cases h; exact le_rfl
  | cons code rest ih =>
    simp only [optionLines_cons, bind_eq_ok_iff] at h
    obtain ⟨sel, -, line, -, more, hmore, ⟨⟩⟩ := h
    rw [List.length_append, List.length_cons, Nat.add_comm rest.length]
    exact Nat.add_le_add (Option.length_toList_le) (ih hmore)

end

/-! ### Step 11: the total (R58) -/

section
variable {base : Nat} {lines : List Line}

theorem totalOf_eq_ok_iff {total : Nat} :
    totalOf base lines = .ok total ↔ (base : Int) + (lines.map (·.amount)).sum = total ∧ total ≤ 99999999 := by
  have limit : ((Config.totalMax : Nat) : Int) = 99999999 := rfl
  unfold totalOf
  dsimp only
  split
  · exact ⟨nofun, by omega⟩
  · rw [Except.ok.injEq]
    omega

theorem totalOf_amountRange (h : (base : Int) + (lines.map (·.amount)).sum < 0 ∨
    99999999 < (base : Int) + (lines.map (·.amount)).sum) :
    totalOf base lines = .error (.fault ⟨.amountRange, .field .total, none⟩) := if_pos h

end

/-! ### The eleven steps (R50) -/

/-- What steps 8 to 10 evaluate with, the mass the chargeable one of step 7 (R54). -/
def ServiceFound.measured (f : ServiceFound) (p : Required) (v : ParcelValues) (z : Zone) : Measured :=
  ⟨chargeableMass f.service.volumetric p.mass p.sides, p.sides, v.declaredValue.getD 0, z.zone⟩

/-- Steps 6 to 11 on one bank, of a service that carries the parcel. -/
def priceParcel (b : Bank) (l : BankLetter) (edition eg : Nat) (v : ParcelValues) (p : Required) (f : ServiceFound) :
    Except Stop Quote := do
  let z ← lookupZone b p.destination
  let m := f.measured p v z
  let band ← findBase b f.service.rate m.chargeable z.zone
  let listed ← onOneBank (listedLines (fun _ => b) f.ag m band.2 5 f.service.surcharges)
  let added ← onOneBank (optionLines (fun _ => b) eg m band.2 (5 + f.service.surcharges.length) v.options)
  let total ← totalOf band.2 (listed ++ added)
  .ok ⟨l, edition, z.zone, m.chargeable, band.1, band.2, listed ++ added, total⟩

/-- The rating order on one bank: its required values, the code, the service, its judgement, the price. -/
theorem rateParcel_eq : rateParcel b l edition v eg =
    (do let p ← requirePresent v
        let sel ← lookupCode b p.serviceCode
        let f ← findService b sel eg
        judgeService f p.destination v
        priceParcel b l edition eg v p f) := by
  simp only [rateParcel, rateParcelAt, onOneBank_bind, onOneBank_atReading, findServiceAt_onOneBank]
  refine bind_congr fun p => bind_congr fun sel => bind_congr fun f => ?_
  cases hs : f.service.scope.admitsDistrict p.destination with
  | false => simp [judgeService_scopeMismatch hs, faultOf]
  | true =>
    cases hc : customsMissing f.service v with
    | some field => simp [judgeService_customsMissing hs hc, faultOf]
    | none =>
      simp only [judgeService_passed hs hc, priceParcel, ServiceFound.measured, Bool.not_true, Bool.false_eq_true, if_false,
        ok_bind, onOneBank_bind, onOneBank_atReading, onOneBank_pure]

theorem rateParcel_required_stop (h : requirePresent v = .error stop) : rateParcel b l edition v eg = .error stop := by
  rw [rateParcel_eq, h, error_bind]

section
variable {p : Required} (hp : requirePresent v = .ok p)
include hp

theorem rateParcel_lookup_stop (h : lookupCode b p.serviceCode = .error stop) :
    rateParcel b l edition v eg = .error stop := by
  rw [rateParcel_eq, hp, ok_bind, h, error_bind]

variable {sel : Selector} (hl : lookupCode b p.serviceCode = .ok sel)
include hl

theorem rateParcel_service_stop (h : findService b sel eg = .error stop) : rateParcel b l edition v eg = .error stop := by
  rw [rateParcel_eq, hp, ok_bind, hl, ok_bind, h, error_bind]

variable {f : ServiceFound} (hf : findService b sel eg = .ok f)
include hf

theorem rateParcel_judged_stop (h : judgeService f p.destination v = .error stop) :
    rateParcel b l edition v eg = .error stop := by
  rw [rateParcel_eq, hp, ok_bind, hl, ok_bind, hf, ok_bind, h, error_bind]

theorem rateParcel_judged (h : judgeService f p.destination v = .ok ()) :
    rateParcel b l edition v eg = priceParcel b l edition eg v p f := by
  rw [rateParcel_eq, hp, ok_bind, hl, ok_bind, hf, ok_bind, h, ok_bind]

end

/-- A quote has come through the first five steps to its price. -/
theorem rateParcel_eq_ok {q : Quote} (h : rateParcel b l edition v eg = .ok q) :
    ∃ p sel f, requirePresent v = .ok p ∧ lookupCode b p.serviceCode = .ok sel ∧ findService b sel eg = .ok f ∧
      priceParcel b l edition eg v p f = .ok q := by
  simp only [rateParcel_eq, bind_eq_ok_iff] at h
  obtain ⟨p, hp, sel, hl, f, hf, -, -, hq⟩ := h
  exact ⟨p, sel, f, hp, hl, hf, hq⟩

section
variable {p : Required} {f : ServiceFound}

/-- What a priced quote holds. -/
theorem priceParcel_eq_ok {q : Quote} (h : priceParcel b l edition eg v p f = .ok q) :
    q.bank = l ∧ q.edition = edition ∧ (q.total : Int) = q.base + (q.lines.map (·.amount)).sum ∧ q.total ≤ 99999999 ∧
      p.mass ≤ q.chargeable ∧ 1 ≤ q.band ∧ q.lines.length ≤ f.service.surcharges.length + v.options.length ∧
      ∃ z, lookupZone b p.destination = .ok z ∧ q.zone = z.zone := by
  simp only [priceParcel, bind_eq_ok_iff] at h
  obtain ⟨z, hz, band, hband, listed, hlisted, added, hadded, total, htotal, ⟨⟩⟩ := h
  obtain ⟨sum, within⟩ := totalOf_eq_ok_iff.1 htotal
  refine ⟨rfl, rfl, sum.symm, within, le_chargeableMass _ _ _, one_le_of_findBase hband, ?_, z, hz, rfl⟩
  rw [List.length_append]
  exact Nat.add_le_add (listedLines_length hlisted) (optionLines_length hadded)

theorem priceParcel_zone_stop (h : lookupZone b p.destination = .error stop) :
    priceParcel b l edition eg v p f = .error stop := by
  rw [priceParcel, h, error_bind]

variable {z : Zone} (hz : lookupZone b p.destination = .ok z)
include hz

theorem priceParcel_base_stop (h : findBase b f.service.rate (f.measured p v z).chargeable z.zone = .error stop) :
    priceParcel b l edition eg v p f = .error stop := by
  simp only [priceParcel, hz, h, ok_bind, error_bind]

variable {band base : Nat} (hb : findBase b f.service.rate (f.measured p v z).chargeable z.zone = .ok (band, base))
include hb

theorem priceParcel_listed_stop
    (h : onOneBank (listedLines (fun _ => b) f.ag (f.measured p v z) base 5 f.service.surcharges) = .error stop) :
    priceParcel b l edition eg v p f = .error stop := by
  simp only [priceParcel, hz, hb, h, ok_bind, error_bind]

variable {listed added : List Line}
  (hl : onOneBank (listedLines (fun _ => b) f.ag (f.measured p v z) base 5 f.service.surcharges) = .ok listed)
include hl

theorem priceParcel_options_stop (h : onOneBank (optionLines (fun _ => b) eg (f.measured p v z) base
    (5 + f.service.surcharges.length) v.options) = .error stop) : priceParcel b l edition eg v p f = .error stop := by
  simp only [priceParcel, hz, hb, hl, h, ok_bind, error_bind]

variable (ha : onOneBank (optionLines (fun _ => b) eg (f.measured p v z) base (5 + f.service.surcharges.length)
  v.options) = .ok added)
include ha

theorem priceParcel_total_stop (h : totalOf base (listed ++ added) = .error stop) :
    priceParcel b l edition eg v p f = .error stop := by
  simp only [priceParcel, hz, hb, hl, ha, h, ok_bind, error_bind]

theorem priceParcel_quote {total : Nat} (h : totalOf base (listed ++ added) = .ok total) :
    priceParcel b l edition eg v p f =
      .ok ⟨l, edition, z.zone, (f.measured p v z).chargeable, band, base, listed ++ added, total⟩ := by
  simp only [priceParcel, hz, hb, hl, ha, h, ok_bind]

end

/-- Settles O31: the first absent value stops step 1, which comes before any reading of the bank. -/
theorem missingAttributeComesFirst : Obligations.MissingAttributeComesFirst := by
  unfold Obligations.MissingAttributeComesFirst
  simp only [Option.ne_none_iff_exists']
  refine fun b l edition eg v => ⟨fun hm => ?_, ?_, ?_, ?_, ?_⟩
  · exact rateParcel_required_stop (requirePresent_mass_absent hm)
  · rintro ⟨mass, hm⟩ hs
    exact rateParcel_required_stop (requirePresent_sides_absent hm hs)
  · rintro ⟨mass, hm⟩ ⟨sides, hs⟩ hd
    exact rateParcel_required_stop (requirePresent_destination_absent hm hs hd)
  · rintro ⟨mass, hm⟩ ⟨sides, hs⟩ ⟨district, hd⟩ hc
    exact rateParcel_required_stop (requirePresent_serviceCode_absent hm hs hd hc)
  · rintro ⟨mass, hm⟩ ⟨sides, hs⟩ ⟨district, hd⟩ ⟨code, hc⟩
    exact ⟨_, requirePresent_present hm hs hd hc, hm, hs, hd, hc⟩

/-! ### What a job runs (R44, R45, R60) -/

section
variable {j : Job} (hs : j.seen = [])
include hs

/-- A job that has kept no read reads its bank as it stands. -/
theorem Job.view_eq : j.view b = fun _ => b := funext fun n => j.view_unread b n hs

theorem Job.procedure_parcel (hv : j.values = .parcel v) :
    j.procedure b = (rateParcel b j.bank j.edition v j.entry.eg).map .quote := by
  simp only [Job.procedure, Job.procedureAt, hv, Job.view_eq hs, onOneBank_map, rateParcel]

theorem Job.procedure_option {o : OptionValues} (hv : j.values = .option o) :
    j.procedure b = (rateAddedOption b o j.entry.eg).map .option := by
  simp only [Job.procedure, Job.procedureAt, hv, Job.view_eq hs, onOneBank_map, rateAddedOption]

end

/-- Settles O33: a quote's figures from steps 7 to 11, then each step with its stop and its result, and the job's
procedure as the rating order on the bank it reads. -/
theorem quoteTotalsItsLines : Obligations.QuoteTotalsItsLines := by
  unfold Obligations.QuoteTotalsItsLines
  refine ⟨fun b l edition eg v q hq => ?_, fun b l edition eg mass code district sides v hm hs hd hc => ?_,
    fun b sel eg => ⟨fun stop => findService_stop, fun d => findService_direct, fun grade target h =>
      ⟨fun stop => findService_redirect_stop h, fun d => findService_redirect h⟩⟩,
    Scope.admitsDistrict_iff,
    fun d v => ⟨customsMissing_exempt, fun hd => ⟨customsMissing_declaredValue hd, customsMissing_contentCategory hd,
      customsMissing_complete hd⟩⟩,
    fun b sel mass zone => ⟨fun stop => findBase_stop, fun bands h => ⟨?_, fun hb =>
      findBase_overMassLimit h (bandFor_none hb)⟩⟩,
    fun b grade base n m => ⟨listedLines_nil, fun sel rest => ?_⟩, fun j b hs => ⟨fun v hv => ?_, fun v hv => ?_⟩,
    fun b eg base n m => ⟨optionLines_nil, fun code rest => ?_⟩⟩
  · obtain ⟨p, sel, f, hp, hl, hf, hq⟩ := rateParcel_eq_ok hq
    obtain ⟨hm, -, hd, hc⟩ := requirePresent_eq_ok hp
    obtain ⟨hbank, hedition, htotal, within, hmass, hband, hlines, z, hz, hzone⟩ := priceParcel_eq_ok hq
    rw [hm, hd, hc]
    exact ⟨hbank, hedition, htotal, within, by rintro _ ⟨⟩; exact hmass, hband, f, z, hz, hzone, ⟨sel, hl, hf⟩, hlines⟩
  · have hp := requirePresent_present hm hs hd hc
    refine ⟨fun stop => rateParcel_lookup_stop hp, fun sel hl => ⟨fun stop => rateParcel_service_stop hp hl, fun f hf =>
      ⟨fun scope => rateParcel_judged_stop hp hl hf (judgeService_scopeMismatch scope), fun scope =>
        ⟨fun field customs => rateParcel_judged_stop hp hl hf (judgeService_customsMissing scope customs),
          fun customs => ?_⟩⟩⟩⟩
    rw [rateParcel_judged hp hl hf (judgeService_passed scope customs)]
    refine ⟨fun stop h => priceParcel_zone_stop h, ?_⟩
    rintro z _ hz rfl
    refine ⟨fun stop h => priceParcel_base_stop hz h, fun band base hb => ⟨fun stop h => priceParcel_listed_stop hz hb h,
      fun listed hl => ⟨fun stop h => priceParcel_options_stop hz hb hl h, fun added ha => ⟨fun total sum within => ?_,
        fun out => ?_⟩⟩⟩⟩
    · exact priceParcel_quote hz hb hl ha (totalOf_eq_ok_iff.2 ⟨sum, within⟩)
    · exact priceParcel_total_stop hz hb hl ha (totalOf_amountRange out)
  · rintro before band after price rfl hb hm hprice
    exact findBase_band h (by rw [bandFor_first hb hm, Nat.add_comm]) hprice
  · rw [listedLines_cons]
    refine ⟨fun stop h => by rw [surchargeLine_stop h, error_bind], fun d h => ?_⟩
    rw [surchargeLine_surcharge h]
    exact lines_in_turn
  · rw [Job.procedure_parcel hs hv]
    exact ⟨fun q h => by rw [h, Except.map], fun stop h => by rw [h, Except.map]⟩
  · rw [Job.procedure_option hs hv]
    exact ⟨fun line h => by rw [h, Except.map], fun stop h => by rw [h, Except.map]⟩
  · rw [optionLines_cons]
    refine ⟨fun stop h => by rw [h, error_bind], fun sel hl => ?_⟩
    rw [hl, ok_bind]
    refine ⟨fun stop h => by rw [surchargeLine_stop h, error_bind], fun d h => ?_⟩
    rw [surchargeLine_surcharge h]
    exact lines_in_turn

end Sys2Proof.Machine
end

section
/-! The end of a job in a fault (R63, R72, R123): O36. -/
namespace Sys2Proof.Machine

variable {s : State} {u : UnitNo} {j : Job} {f : FaultReport}

/-! ### The end of a procedure (R65, R72) -/

theorem State.runJob_fault (h : j.found = none) (hp : j.procedure (s.bank j.bank) = .error (.fault f)) :
    s.runJob u j = (s, some (.fault f)) := by
  simp only [State.runJob, h, hp]

/-- The fault a job ends in, found in a failing read of its own or met in its procedure, leaves the state to its
completion. -/
theorem State.runJob_faulted
    (h : j.found = some f ∨ (j.found = none ∧ j.procedure (s.bank j.bank) = .error (.fault f))) :
    s.runJob u j = (s, some (.fault f)) := by
  obtain h | ⟨h, hp⟩ := h
  · exact s.runJob_found u j f h
  · exact State.runJob_fault h hp

/-- A completion of a running job whose record is sound applies the job's result. -/
theorem completion_applies {kind : JobKind → Bool} {apply : Job → Rec → JobResult → State → Outcome} {r : Rec}
    {result : JobResult} (hs : s.Live) (hu : s.unit u = some j) (hd : j.discarded = false)
    (hk : kind j.entry.kind = true) (hr : s.runJob u j = (s, some result)) (hf : s.Finds j.entry.handle r) :
    completion u kind s apply = apply j r result s := by
  simp [completion, hs.1, hs.2, hu, hd, hk, hr, hf.1, s.readAt_sound _ _ _ hf.2]

/-- A RATE or RATE OPTION job that ends in a fault: its completion does what the fault of its position does. -/
theorem exec_completion_fault {c : Instr} {r : Rec} (hs : s.Live) (hu : s.unit u = some j) (hd : j.discarded = false)
    (hr : s.runJob u j = (s, some (.fault f))) (hf : s.Finds j.entry.handle r)
    (hc : (c = .rateJobCompletion u ∧ j.entry.kind = .rate) ∨
      (c = .rateOptionCompletion u ∧ ∃ code, j.entry.kind = .rateOption code)) :
    exec c s = positionFault u j f s := by
  obtain ⟨rfl, hk⟩ | ⟨rfl, code, hk⟩ := hc
  · exact completion_applies hs hu hd (by rw [hk]; rfl) hr hf
  · exact completion_applies hs hu hd (by rw [hk]; rfl) hr hf

/-! ### The fault of a position (R63, R123) -/

section
variable {p : PositionNo} (hp : j.entry.requester = .position p)
include hp

theorem State.finishJob_position (a : Answer) : s.finishJob u j a = .next ((s.endJob u j).answerPosition p a).judge := by
  rw [State.finishJob, hp, State.answerRequester]

variable {session : Session} {pend : Bool} {res : Option Reservation} {request : HeldRequest}
  (hw : s.ctx p = .working session pend res request)
include hw

theorem positionFault_other (hk : f.kind ≠ .grade) : positionFault u j f s = s.finishJob u j (.fault f) := by
  simp only [positionFault, hp, hw, if_pos hk]

variable (hk : f.kind = .grade)
include hk

theorem positionFault_grade_disabled (he : session.escalation = false) :
    positionFault u j f s = s.finishJob u j (.fault f) := by
  simp [positionFault, hp, hw, hk, he, State.escalate, State.finishJob_position hp]

theorem positionFault_grade_draining (he : session.escalation = true) (hd : s.draining = true) :
    positionFault u j f s = s.finishJob u j .reset := by
  simp [positionFault, hp, hw, hk, he, hd]

theorem positionFault_grade_escalates {needed checked : Nat} (hg : f.grades = some (needed, checked))
    (he : session.escalation = true) (hd : s.draining = false) :
    positionFault u j f s = .next ((s.endJob u j).setCtx p
      (if pend then .suspended session (.escalated ⟨request, needed, s.timers.escalationTimeout⟩)
      else .escalated session ⟨request, needed, s.timers.escalationTimeout⟩)).judge := by
  simp [positionFault, hp, hw, hk, he, hd, hg, State.escalate]

end

/-- Settles O36: the completion of either kind does what the fault of its position does, which goes by the fault's kind, the
enable and the drain. -/
theorem faultedJobsAnswerOrEscalate : Obligations.FaultedJobsAnswerOrEscalate := by
  unfold Obligations.FaultedJobsAnswerOrEscalate
  intro s u j r f p session pend res request hs hu hd hp hfault hf hw c hc
  rw [exec_completion_fault hs hu hd (State.runJob_faulted hfault) hf hc]
  refine ⟨fun h => ?_, fun hk he hdrain => ?_, fun needed checked hk hg he hdrain =>
    positionFault_grade_escalates hp hw hk hg he hdrain⟩
  · have answered : positionFault u j f s = s.finishJob u j (.fault f) := by
      by_cases hk : f.kind = .grade
      · exact positionFault_grade_disabled hp hw hk (h.resolve_left (not_not_intro hk))
      · exact positionFault_other hp hw hk
    exact answered.trans (State.finishJob_position hp _)
  · exact (positionFault_grade_draining hp hw hk he hdrain).trans (State.finishJob_position hp _)

end Sys2Proof.Machine
end

section
/-! The completed RATE job (R12, R72, R158): O35. -/
namespace Sys2Proof.Machine

/-- A procedure that yields a result leaves the state to its completion. -/
theorem State.runJob_ok {s : State} {u : UnitNo} {j : Job} {result : JobResult} (h : j.found = none)
    (hp : j.procedure (s.bank j.bank) = .ok result) : s.runJob u j = (s, some result) := by
  simp only [State.runJob, h, hp]

/-- Settles O35: the completion stores the quote with its pin, or, past the grace, the DRAFT record as one change. -/
theorem rateCompletionStoresTheQuote : Obligations.RateCompletionStoresTheQuote := by
  unfold Obligations.RateCompletionStoresTheQuote
  intro s u j r e q p hs hu hd hk hp hn hproc hf hb
  have stored : exec (.rateJobCompletion u) s = .next (storeQuote u j r e q s) := by
    refine (completion_applies hs hu hd (by rw [hk]; rfl) (State.runJob_ok hn hproc) hf).trans ?_
    simp only [hb]
  rw [stored]
  refine ⟨fun hg => ?_, fun hg => ?_⟩ <;>
    simp only [storeQuote, hg, hp, State.answerRequester, if_true, Bool.false_eq_true, if_false] <;> rfl

end Sys2Proof.Machine
end

section
/-! Discarded jobs, failing reads of bank entries and of records at a completion (R37, R47, R65, R72 to R74): O39. -/
namespace Sys2Proof.Machine

/-! ### What a job has read by a failing read (R47) -/

section
variable (s : State) (l : BankLetter) (e : BankEntry) (own : Option UnitNo)

/-- A job that is read ahead keeps its reads and gains others in front. -/
theorem readAhead_extends (v : UnitNo) {u : UnitNo} {j : Job} (hj : s.unit u = some j) :
    ∃ more, (readAhead l e own s v).unit u = some { j with seen := more ++ j.seen } := by
  have same : ∃ more, s.unit u = some { j with seen := more ++ j.seen } := ⟨[], hj⟩
  unfold readAhead
  split
  · exact same
  · rename_i k hk
    split
    · by_cases huv : v = u
      · subst huv
        obtain rfl : j = k := Option.some.inj (hj.symm.trans hk)
        obtain ⟨more, hm⟩ := j.readOn_extends (s.bank l) ((s.bank l).unread e) (Config.readsMade s.freeCount) j.seen
        exact ⟨more, by rw [← hm]; exact s.unit_setUnit v _⟩
      · exact same.imp fun _ h => (s.unit_setUnit_other v u _ huv).trans h
    · exact same

/-- A unit is read ahead only where it runs a job on the bank that has found no fault and is not the reader's own. -/
theorem readAhead_keeps (v : UnitNo) {u : UnitNo} {j : Job} (hj : s.unit u = some j)
    (h : j.bank ≠ l ∨ own = some u ∨ j.found ≠ none) : (readAhead l e own s v).unit u = some j := by
  unfold readAhead
  split
  · exact hj
  · rename_i k hk
    split
    · rename_i reads
      by_cases huv : v = u
      · subst huv
        obtain rfl : j = k := Option.some.inj (hj.symm.trans hk)
        simp only [Bool.and_eq_true, decide_eq_true_eq, bne_iff_ne, ne_eq, Option.isNone_iff_eq_none] at reads
        obtain ⟨⟨hb, ho⟩, hf⟩ := reads
        exact absurd h (by simp [hb, ho, hf])
      · exact (s.unit_setUnit_other v u _ huv).trans hj
    · exact hj

theorem jobsReadOn_extends {u : UnitNo} {j : Job} (hj : s.unit u = some j) :
    ∃ more, (s.jobsReadOn l e own).unit u = some { j with seen := more ++ j.seen } := by
  unfold State.jobsReadOn
  generalize ([0, 1, 2, 3] : List UnitNo) = units
  induction units generalizing s j with
  | nil => exact ⟨[], hj⟩
  | cons v rest ih =>
    obtain ⟨first, hf⟩ := readAhead_extends s l e own v hj
    obtain ⟨more, hm⟩ := ih _ hf
    exact ⟨more ++ first, by rw [List.foldl_cons, hm, List.append_assoc]⟩

theorem jobsReadOn_keeps {u : UnitNo} {j : Job} (hj : s.unit u = some j)
    (h : j.bank ≠ l ∨ own = some u ∨ j.found ≠ none) : (s.jobsReadOn l e own).unit u = some j := by
  unfold State.jobsReadOn
  generalize ([0, 1, 2, 3] : List UnitNo) = units
  induction units generalizing s with
  | nil => exact hj
  | cons v rest ih => exact ih _ (readAhead_keeps s l e own v hj h)

theorem jobsReadOn_idle {u : UnitNo} (hu : s.unit u = none) : (s.jobsReadOn l e own).unit u = none := by
  obtain ⟨seen, h⟩ := s.jobsReadOn_unit l e own u
  rw [h, hu]
  rfl

/-! ### A failing read of a bank entry (R37) -/

theorem State.report_integrity (subject : ReportSubject) (reader : Reader) :
    (s.report subject reader).integrity = s.integrity.take subject reader s.hallTime := by
  unfold State.report
  dsimp only
  split <;> rfl

theorem State.report_attention (subject : ReportSubject) (reader : Reader) :
    (s.report subject reader).attention =
      if (s.integrity.take subject reader s.hallTime).state = .alert then s.attention.raise .integrity
      else s.attention := by
  unfold State.report
  dsimp only
  split <;> rfl

theorem State.failBankEntry_report (reader : Reader) :
    (s.failBankEntry l e reader own).integrity = (s.report (.bankEntry l e) reader).integrity ∧
      (s.failBankEntry l e reader own).attention = (s.report (.bankEntry l e) reader).attention := by
  simp [State.failBankEntry, State.report_integrity, State.report_attention]

theorem State.report_bank (subject : ReportSubject) (reader : Reader) (m : BankLetter) :
    (s.report subject reader).bank m = s.bank m := by
  cases m
  · exact s.report_bankA subject reader
  · exact s.report_bankB subject reader

theorem State.jobsReadOn_bank (m : BankLetter) : (s.jobsReadOn l e own).bank m = s.bank m := by
  cases m
  · exact s.jobsReadOn_bankA l e own
  · exact s.jobsReadOn_bankB l e own

theorem State.failBankEntry_bank (reader : Reader) :
    (s.failBankEntry l e reader own).bank l = (s.bank l).damage e := by
  unfold State.failBankEntry
  rw [State.report_bank, State.bank_setBank, State.jobsReadOn_bank]

theorem State.failBankEntry_bank_other (reader : Reader) {m : BankLetter} (h : l ≠ m) :
    (s.failBankEntry l e reader own).bank m = s.bank m := by
  unfold State.failBankEntry
  rw [State.report_bank, State.bank_setBank_other _ _ _ _ h, State.jobsReadOn_bank]

theorem State.failBankEntry_unit (reader : Reader) (u : UnitNo) :
    (s.failBankEntry l e reader own).unit u = (s.jobsReadOn l e own).unit u := by
  simp [State.failBankEntry, State.unit]

end

/-! ### The damaged mark (R37) -/

section
variable (b : Bank)

theorem Bank.damage_count (e : BankEntry) : (b.damage e).damagedCount = b.damagedCount + 1 := by
  cases e with
  | slot sel => obtain ⟨t, i⟩ := sel; cases t <;> rfl
  | _ => rfl

/-- What the damaged mark leaves of a bank. -/
theorem Bank.damage_frame (e : BankEntry) :
    (b.damage e).state = b.state ∧ (b.damage e).pins = b.pins ∧ (b.damage e).parameters = b.parameters ∧
      (b.damage e).nLimit = b.nLimit ∧ (b.damage e).hLimit = b.hLimit := by
  cases e with
  | slot sel => obtain ⟨t, i⟩ := sel; cases t <;> exact ⟨rfl, rfl, rfl, rfl, rfl⟩
  | _ => exact ⟨rfl, rfl, rfl, rfl, rfl⟩

/-- A content that is not the unlisted one is read back. -/
theorem Table.getD_put_of_ne {α : Type} [DecidableEq α] (t : Table α) (k : Nat) {v d : α} (h : v ≠ d) :
    (t.put k v d).getD k d = v := by
  rw [Table.put, if_neg h, Table.getD, Table.get_insert_same]
  rfl

theorem Bank.damage_segmentCell (n : Nat) : (b.damage (.segment n)).segmentCell n = ⟨none, true, true⟩ :=
  Table.getD_put_of_ne b.segments n (by simp [Cell.unused])

theorem Bank.damage_placeCell (n : Nat) : (b.damage (.place n)).placeCell n = ⟨none, true, true⟩ :=
  Table.getD_put_of_ne b.zones n (by simp [Cell.unused])

theorem Bank.damage_slotCell (sel : Selector) :
    (b.damage (.slot sel)).slotCell sel = { b.slotCell sel with present := false, damaged := true } := by
  obtain ⟨t, i⟩ := sel
  cases t
  · exact Table.getD_put_of_ne b.nSlots i (by simp [SlotCell.empty])
  · exact Table.getD_put_of_ne b.hSlots i (by simp [SlotCell.empty])

theorem Bank.damage_segmentCell_other {e : BankEntry} {n : Nat} (h : e ≠ .segment n) :
    (b.damage e).segmentCell n = b.segmentCell n := by
  cases e with
  | segment m => exact Table.getD_put_other b.segments m n _ _ fun hm => h (by rw [hm])
  | place m => rfl
  | slot sel => obtain ⟨t, i⟩ := sel; cases t <;> rfl

theorem Bank.damage_placeCell_other {e : BankEntry} {n : Nat} (h : e ≠ .place n) :
    (b.damage e).placeCell n = b.placeCell n := by
  cases e with
  | segment m => rfl
  | place m => exact Table.getD_put_other b.zones m n _ _ fun hm => h (by rw [hm])
  | slot sel => obtain ⟨t, i⟩ := sel; cases t <;> rfl

theorem Bank.damage_slotCell_other {e : BankEntry} {sel : Selector} (h : e ≠ .slot sel) :
    (b.damage e).slotCell sel = b.slotCell sel := by
  cases e with
  | segment m => obtain ⟨t, i⟩ := sel; cases t <;> rfl
  | place m => obtain ⟨t, i⟩ := sel; cases t <;> rfl
  | slot other =>
    obtain ⟨t, i⟩ := sel
    obtain ⟨t', i'⟩ := other
    cases t <;> cases t'
    · exact Table.getD_put_other b.nSlots i' i _ _ fun hi => h (by rw [hi])
    · rfl
    · rfl
    · exact Table.getD_put_other b.hSlots i' i _ _ fun hi => h (by rw [hi])

/-- A lookup or resolution in which a job has read nothing yet sees the bank as it stands (R47). -/
theorem Job.view_of_none_read {j : Job} {reading : Nat} (h : ∀ x ∈ j.seen, x.reading ≠ reading) :
    j.view b reading = b := by
  unfold Job.view
  generalize j.seen = seen at h
  induction seen with
  | nil => rfl
  | cons x rest ih =>
    rw [List.foldl_cons, if_neg (h x (List.mem_cons_self ..))]
    exact ih fun y hy => h y (List.mem_cons_of_mem _ hy)

end

/-! ### The end of a procedure (R47, R65) -/

section
variable {s : State} {u : UnitNo} {j : Job}

/-- A procedure that meets no failing read leaves the state to its completion. -/
theorem State.runJob_still (h : j.found ≠ none ∨ ∀ x f, j.procedure (s.bank j.bank) ≠ .error (.badRead x f)) :
    ∃ result, s.runJob u j = (s, some result) := by
  cases hf : j.found with
  | some f => exact ⟨_, s.runJob_found u j f hf⟩
  | none =>
    have sound := h.resolve_left (not_not_intro hf)
    cases hp : j.procedure (s.bank j.bank) with
    | ok result => exact ⟨result, State.runJob_ok hf hp⟩
    | error stop =>
      cases stop with
      | fault f => exact ⟨_, State.runJob_fault hf hp⟩
      | badRead x f => exact absurd hp (sound x f)

/-- The unit after its job's own failing read. -/
theorem State.jobReadFails_unit (e : BankEntry) (f : FaultReport) :
    (s.jobReadFails u j e f).unit u = some { j with found := some f } := State.unit_setUnit _ u _

/-- What a completion does with a result: the record is read with its check, then the result applied (R72). -/
def applyResult (u : UnitNo) (apply : Job → Rec → JobResult → State → Outcome) (j : Job) (result : JobResult)
    (s : State) : Outcome :=
  match s.find j.entry.handle with
  | none => s.finishJob u j .noRecord
  | some r =>
    match s.readAt (.unit u) j.entry.handle.slot r with
    | (t, .found _ q) => apply j q result t
    | (t, .damaged subject) => .next (t.endUnread j.entry.handle subject).judge
    | (t, .noRecord) => .next t.judge

/-- A completion takes a running job of its kind that is not discarded through its procedure, then its record. -/
theorem completion_running {kind : JobKind → Bool} {apply : Job → Rec → JobResult → State → Outcome} {t : State}
    {result : JobResult} (hs : s.Live) (hu : s.unit u = some j) (hd : j.discarded = false)
    (hk : kind j.entry.kind = true) (hr : s.runJob u j = (t, some result)) :
    completion u kind s apply = applyResult u apply j result t := by
  simp only [completion, hs.1, hs.2, hu, hd, hk, hr, Bool.or_self, Bool.not_true, Bool.false_eq_true, if_false]
  rfl

/-- Where the read of the record fails it is damaged and reported, and the job ends. -/
theorem applyResult_failing {apply : Job → Rec → JobResult → State → Outcome} {result : JobResult} {r : Rec}
    (hf : s.find j.entry.handle = some r) (hr : r.sound = false) :
    applyResult u apply j result s =
      .next ((((s.damageRecord j.entry.handle.slot r (.record j.entry.handle)).report (.record j.entry.handle)
        (.unit u)).endUnread j.entry.handle (.record j.entry.handle)).judge) := by
  simp only [applyResult, hf, s.readAt_failing _ _ _ hr, s.handleAt_of_find hf]

/-- A completion whose procedure meets a failing read is frozen where the report halts the part, and is else that of the
job with the fault found. -/
theorem completion_badRead {kind : JobKind → Bool} {apply : Job → Rec → JobResult → State → Outcome} {e : BankEntry}
    {f : FaultReport} (hs : s.Live) (hu : s.unit u = some j) (hd : j.discarded = false)
    (hk : kind j.entry.kind = true) (hn : j.found = none)
    (hp : j.procedure (s.bank j.bank) = .error (.badRead e f))
    (ha : ∀ r result t, apply { j with found := some f } r result t = apply j r result t) :
    completion u kind s apply =
      if (s.jobReadFails u j e f).halted then .next (s.jobReadFails u j e f).judge
      else completion u kind (s.jobReadFails u j e f) apply := by
  have hrun := s.runJob_badRead u j e f hn hp
  cases hh : (s.jobReadFails u j e f).halted with
  | true =>
    rw [hh, if_pos rfl] at hrun
    simp [completion, hs.1, hs.2, hu, hd, hk, hrun]
  | false =>
    rw [hh, if_neg (by simp)] at hrun
    have live : (s.jobReadFails u j e f).Live := ⟨by simpa using hs.1, hh⟩
    have found := (s.jobReadFails u j e f).runJob_found u { j with found := some f } f rfl
    rw [if_neg (by simp), completion_running hs hu hd hk hrun,
      completion_running live (State.jobReadFails_unit e f) hd hk found]
    simp only [applyResult, ha]
    rfl

/-- The three completion commands, each with the kind of the job that it concerns. -/
def IsCompletionOf (c : Instr) (u : UnitNo) (k : JobKind) : Prop :=
  (c = .rateJobCompletion u ∧ k = .rate) ∨ (c = .rateOptionCompletion u ∧ ∃ code, k = .rateOption code) ∨
    (c = .rerateReweighCompletion u ∧ ∃ mass sides, k = .rerateReweigh mass sides)

/-- Each is a completion in whose result the job counts by its entry and its bank alone. -/
theorem IsCompletionOf.exec_eq {c : Instr} {k : JobKind} (h : IsCompletionOf c u k) :
    ∃ (kind : JobKind → Bool) (apply : Job → Rec → JobResult → State → Outcome),
      kind k = true ∧ (∀ s, exec c s = completion u kind s apply) ∧
        ∀ (j : Job) f r result t, apply { j with found := f } r result t = apply j r result t := by
  obtain ⟨rfl, rfl⟩ | ⟨rfl, _, rfl⟩ | ⟨rfl, _, _, rfl⟩ := h
  · exact ⟨_, _, rfl, fun _ => rfl, fun _ _ _ _ _ => rfl⟩
  · exact ⟨_, _, rfl, fun _ => rfl, fun _ _ _ _ _ => rfl⟩
  · exact ⟨_, _, rfl, fun _ => rfl, fun _ _ _ _ _ => rfl⟩

/-- A discarded job that finishes. -/
theorem execDiscardedJobCompletion_eq {t : State} {result : Option JobResult} (hs : s.Live) (hu : s.unit u = some j)
    (hd : j.discarded = true) (hr : s.runJob u j = (t, result)) :
    execDiscardedJobCompletion u s = if result.isNone then .next t.judge else .next (t.endJob u j).judge := by
  cases result <;> simp [execDiscardedJobCompletion, hs.1, hs.2, hu, hd, hr]

/-- A completion whose own procedure meets a failing read, discarded or not (R47, R65). -/
theorem exec_badRead {c : Instr} {e : BankEntry} {f : FaultReport} (hs : s.Live) (hu : s.unit u = some j)
    (hn : j.found = none) (hp : j.procedure (s.bank j.bank) = .error (.badRead e f))
    (hc : (c = .discardedJobCompletion u ∧ j.discarded = true) ∨
      (j.discarded = false ∧ IsCompletionOf c u j.entry.kind)) :
    exec c s = if (s.jobReadFails u j e f).halted then .next (s.jobReadFails u j e f).judge
      else exec c (s.jobReadFails u j e f) := by
  obtain ⟨rfl, hd⟩ | ⟨hd, hc⟩ := hc
  · refine (execDiscardedJobCompletion_eq hs hu hd (s.runJob_badRead u j e f hn hp)).trans ?_
    cases hh : (s.jobReadFails u j e f).halted with
    | true => rfl
    | false =>
      have live : (s.jobReadFails u j e f).Live := ⟨by simpa using hs.1, hh⟩
      have found := (s.jobReadFails u j e f).runJob_found u { j with found := some f } f rfl
      exact (execDiscardedJobCompletion_eq live (State.jobReadFails_unit e f) hd found).symm
  · obtain ⟨kind, apply, hk, hexec, ha⟩ := hc.exec_eq
    rw [hexec, hexec]
    exact completion_badRead hs hu hd hk hn hp fun r result t => ha j (some f) r result t

/-- The job of the only unit on a handle is the one found. -/
theorem State.unitOn_eq_some {h : Handle} (hu : s.unit u = some j) (hj : j.entry.handle = h)
    (only : ∀ w k, s.unit w = some k → k.entry.handle = h → w = u) : s.unitOn h = some u := by
  cases hf : s.unitOn h with
  | none =>
    have absent := List.find?_eq_none.1 hf u (by fin_cases u <;> simp)
    simp [hu, hj] at absent
  | some w =>
    obtain ⟨k, hw, hk⟩ := State.unitOn_some hf
    rw [only w k hw hk]

/-- No unit is found on a handle that no job has. -/
theorem State.unitOn_eq_none {h : Handle} (absent : ∀ w k, s.unit w = some k → k.entry.handle ≠ h) :
    s.unitOn h = none := by
  cases hf : s.unitOn h with
  | none => rfl
  | some w =>
    obtain ⟨k, hw, hk⟩ := State.unitOn_some hf
    exact absurd hk (absent w k hw)

/-- A unit's failing read of its record, with no other job or entry on it: the job has ended with the damage. -/
theorem State.endUnread_of_damaged {r : Rec} {hd : Handle} (hu : s.unit u = some j) (hj : j.entry.handle = hd)
    (hf : s.find hd = some r) (hb : ∀ l, r.body ≠ .damaged l)
    (only : ∀ w k, s.unit w = some k → k.entry.handle = hd → w = u) (subject : ReportSubject) (reader : Reader) :
    (((s.damageRecord hd.slot r subject).report subject reader).endUnread hd subject) =
      (s.damageRecord hd.slot r subject).report subject reader := by
  have handle : s.handleAt hd.slot = hd := s.handleAt_of_find hf
  have unit_eq (w : UnitNo) : ((s.damageRecord hd.slot r subject).report subject reader).unit w =
      (s.damageRecord hd.slot r subject).unit w := by simp [State.unit]
  have running := State.unitOn_eq_some hu hj only
  have idle : ((s.damageRecord hd.slot r subject).report subject reader).unitOn hd = none := by
    refine State.unitOn_eq_none fun w k hw hk => ?_
    rw [unit_eq] at hw
    by_cases hwu : w = u
    · subst hwu
      rw [State.damageRecord_unit hb (by rw [handle]; exact running)] at hw
      cases hw
    · rw [State.damageRecord_unit_other hb (by rw [handle, running]; simpa using fun e => hwu e.symm)] at hw
      exact hwu (only w k hw hk)
  simp only [State.endUnread, idle]

/-- A completion whose read of its record fails (R72, R74). -/
theorem exec_recordFails {c : Instr} {r : Rec} {hd : Handle} (hs : s.Live) (hu : s.unit u = some j)
    (hdis : j.discarded = false)
    (hp : j.found ≠ none ∨ ∀ x f, j.procedure (s.bank j.bank) ≠ .error (.badRead x f))
    (hc : IsCompletionOf c u j.entry.kind) (hj : j.entry.handle = hd) (hf : s.find hd = some r)
    (hr : r.sound = false) (hb : ∀ l, r.body ≠ .damaged l)
    (only : ∀ w k, s.unit w = some k → k.entry.handle = hd → w = u) (hq : ∀ y ∈ s.queue, y.handle ≠ hd) :
    exec c s = .next ((((s.damaging hd.slot r).jobEnded u j).answerRequester j.entry.requester
      (.damaged (.record hd))).report (.record hd) (.unit u)).judge := by
  obtain ⟨kind, apply, hk, hexec, -⟩ := hc.exec_eq
  obtain ⟨result, hrun⟩ := State.runJob_still (u := u) hp
  have handle : s.handleAt hd.slot = hd := s.handleAt_of_find hf
  have ended := State.damageRecord_running (subject := .record hd) hb
    (by rw [handle]; exact State.unitOn_eq_some hu hj only) hu (by rw [handle]; exact hq)
  rw [hdis, if_neg (by simp)] at ended
  rw [hexec, completion_running hs hu hdis hk hrun, applyResult_failing (by rw [hj]; exact hf) hr, hj,
    State.endUnread_of_damaged hu hj hf hb only, ended]

end

/-- Settles O39: a completion is the run of the procedure, then the read of the record; a failing read of a bank entry is
the reads of the other jobs, the mark and the report. -/
theorem discardedJobsAndFailingReads : Obligations.DiscardedJobsAndFailingReads := by
  unfold Obligations.DiscardedJobsAndFailingReads
  refine ⟨fun s u j hs hu hd hp => ?_, fun s u j e f hs hu alone hn hp => ?_,
    fun s t u j e f c hs hu hn hp hc ht => ?_, fun s u j r hd c hs hu hdis hp hc hj hf hr hb only hq => ?_,
    fun j b reading h => Job.view_of_none_read b h, fun b e => ?_, fun s t l e reader own ht => ?_⟩
  · obtain ⟨result, hrun⟩ := State.runJob_still (u := u) hp
    exact execDiscardedJobCompletion_eq hs hu hd hrun
  · have reads : s.failBankEntry j.bank e (.unit u) (some u) =
        (s.setBank j.bank ((s.bank j.bank).damage e)).report (.bankEntry j.bank e) (.unit u) :=
      s.failBankEntry_eq j.bank e (.unit u) (some u) fun w k hw hk => by
        rw [alone w (by rintro rfl; exact hw rfl)] at hk
        cases hk
    show execJobReadFailsCheck u e s = _
    simp [execJobReadFailsCheck, hs.1, hs.2, hu, hn, hp, State.jobReadFails, reads]
  · obtain rfl : t = s.jobReadFails u j e f := ht
    rw [exec_badRead hs hu hn hp hc]
    exact ⟨fun h => if_pos h, fun h => if_neg (by simp [h])⟩
  · rw [exec_recordFails hs hu hdis hp hc hj hf hr hb only hq]
    exact ⟨fun p h => by rw [h]; rfl, fun h => by rw [h]; rfl⟩
  · obtain ⟨state, pins, parameters, nLimit, hLimit⟩ := b.damage_frame e
    refine ⟨state, pins, parameters, nLimit, hLimit, b.damage_count e, ?_, fun n => b.damage_segmentCell_other, ?_,
      fun n => b.damage_placeCell_other, ?_, fun sel => b.damage_slotCell_other⟩
    · rintro n rfl
      rw [b.damage_segmentCell]
      exact ⟨rfl, rfl⟩
    · rintro n rfl
      rw [b.damage_placeCell]
      exact ⟨rfl, rfl⟩
    · rintro sel rfl
      exact b.damage_slotCell sel
  · subst ht
    obtain ⟨integrity, attention⟩ := s.failBankEntry_report l e own reader
    refine ⟨s.failBankEntry_bank l e own reader, s.failBankEntry_bank_other l e own reader (otherBank_ne l), integrity,
      attention, by simp, by simp, by simp, by simp, by simp, by simp, by simp, by simp, by simp, by simp,
      fun u hu => ?_, fun u j hu hj => ?_, fun u j hu => ?_⟩ <;> rw [State.failBankEntry_unit]
    · exact jobsReadOn_idle s l e own hu
    · exact jobsReadOn_keeps s l e own hu hj
    · exact jobsReadOn_extends s l e own hu

end Sys2Proof.Machine
end

section
/-! The grant of a job (R44, R69 to R71, R74): O34. -/
namespace Sys2Proof.Machine

variable {s : State} {u : UnitNo} {x : QueueEntry} {l : BankLetter} {r : Rec}

/-! ### What is granted, and to which unit (R70) -/

/-- The unit found IDLE is the lowest-numbered one that is. -/
theorem State.idleUnit_eq_some (hu : s.unit u = none) (lower : ∀ w, w < u → s.unit w ≠ none) :
    s.idleUnit = some u := by
  have busy (w : UnitNo) (hw : w < u) : (s.unit w).isNone = false := Option.isNone_eq_false_iff.2
    (Option.isSome_iff_ne_none.2 (lower w hw))
  unfold State.idleUnit
  fin_cases u <;> simp_all

theorem State.idleUnit_eq_none (h : ∀ u, s.unit u ≠ none) : s.idleUnit = none :=
  List.find?_eq_none.2 fun u _ => by simpa using h u

/-- The dispatch entry goes first, else the oldest. -/
theorem State.nextEntry_eq_some (hx : s.queue.find? (fun y => y.requester == .dispatch) = some x ∨
    ((∀ y ∈ s.queue, y.requester ≠ .dispatch) ∧ s.queue.head? = some x)) : s.nextEntry = some x := by
  unfold State.nextEntry
  obtain hx | ⟨others, hx⟩ := hx
  · rw [hx]
  · rw [List.find?_eq_none.2 fun y hy => by simpa using others y hy]
    exact hx

/-- With the grant condition holding, an entry is granted whose record fits its job or fails its check. -/
theorem execGrantOfJob_eq (hs : s.Live) (hg : s.grantState = .granting) (hu : s.idleUnit = some u)
    (hx : s.nextEntry = some x) (hl : s.activeBank = some l) (hf : s.find x.handle = some r)
    (hv : r.sound = false ∨ x.kind.valuesOf r.body ≠ none) :
    execGrantOfJob s = .next (grantEntry x u l ((s.bank l).state.edition.getD 0)
      ((x.kind.valuesOf r.body).getD .absent) r s) := by
  have fits : (r.sound && (x.kind.valuesOf r.body).isNone) = false := by
    rcases hv with hv | hv
    · rw [hv, Bool.false_and]
    · rw [Option.isNone_eq_false_iff.2 (Option.isSome_iff_ne_none.2 hv), Bool.and_false]
  simp [execGrantOfJob, hs.1, hs.2, hg, hu, hx, hl, hf, fits]

/-- Without effect where the grant condition fails (log entry 2). -/
theorem execGrantOfJob_idle
    (h : s.grantState ≠ .granting ∨ (∀ u, s.unit u ≠ none) ∨ s.queue = []) : execGrantOfJob s = .next s := by
  unfold execGrantOfJob
  split
  · rfl
  · rename_i taken
    rcases h with h | h | h
    · simp [h] at taken
    · rw [State.idleUnit_eq_none h]
    · have : s.nextEntry = none := by simp [State.nextEntry, h]
      rw [this]
      cases s.idleUnit <;> rfl

/-! ### The job started (R71) -/

/-- The state of a grant as its record is read: the entry gone, the job in its unit, the marks and the pin set. -/
def State.granted (s : State) (x : QueueEntry) (u : UnitNo) (l : BankLetter) (edition : Nat) (values : JobValues)
    (r : Rec) : State :=
  (State.putRecord (State.setUnit { s with queue := s.queue.filter fun y => y.requester != x.requester } u
    (some ⟨x, l, edition, false, values, [], none⟩)) x.handle.slot { r with queued := false, busy := true }).takePin l

section
variable (s) (edition : Nat) (values : JobValues)

theorem State.granted_unit :
    (s.granted x u l edition values r).unit u = some ⟨x, l, edition, false, values, [], none⟩ := by
  rw [State.unit, State.granted, State.takePin_units]
  exact State.unit_setUnit _ u _

theorem State.granted_unit_other {w : UnitNo} (h : w ≠ u) :
    (s.granted x u l edition values r).unit w = s.unit w := by
  rw [State.unit, State.granted, State.takePin_units]
  exact State.unit_setUnit_other _ u w _ h.symm

theorem State.granted_record : (s.granted x u l edition values r).record x.handle.slot =
    some { r with queued := false, busy := true } := by
  rw [State.record, State.granted, State.takePin_table]
  exact Table.get_insert_same _ _ _

theorem State.granted_find (h : s.find x.handle = some r) : (s.granted x u l edition values r).find x.handle =
    some { r with queued := false, busy := true } := by
  have generation : (s.granted x u l edition values r).generation x.handle.slot = x.handle.gen := by
    have handle := s.handleAt_of_find h
    rw [← handle, State.generation, State.granted, State.takePin_table]
    rfl
  simp only [State.find, State.granted_record, generation, if_true]

theorem State.granted_queue : (s.granted x u l edition values r).queue =
    s.queue.filter fun y => y.requester != x.requester := by
  rw [State.granted, State.takePin_queue]
  rfl

/-- Where the record passes its check the job runs. -/
theorem grantEntry_sound (hr : r.sound = true) :
    grantEntry x u l edition values r s = (s.granted x u l edition values r).judge := by
  unfold grantEntry
  extract_lets queued started r' marked
  rw [State.readAt_sound _ _ _ _ (show r'.sound = true from hr)]
  rfl

/-- Where the record fails its check the job ends at once. -/
theorem grantEntry_failing (hf : s.find x.handle = some r) (hr : r.sound = false) :
    grantEntry x u l edition values r s =
      ((((s.granted x u l edition values r).damageRecord x.handle.slot { r with queued := false, busy := true }
        (.record x.handle)).report (.record x.handle) (.unit u)).endUnread x.handle (.record x.handle)).judge := by
  have handle := State.handleAt_of_find _ (s.granted_find (u := u) (l := l) edition values hf)
  unfold grantEntry
  extract_lets queued started r' marked
  have here : marked = s.granted x u l edition values r := rfl
  rw [State.readAt_failing _ _ _ _ (show r'.sound = false from hr), here, handle]

end

/-! ### The read that fails at the grant (R44, R74) -/

/-- The link of a requester. -/
def IsLinkOf (q : Requester) (lk : Link) : Prop :=
  (∃ p, q = .position p ∧ lk = .position p) ∨ (q = .dispatch ∧ lk = .dispatch)

/-- What a requester is answered on its link. -/
theorem State.answerRequester_link {q : Requester} {lk : Link} {o : Outstanding} (a : Answer) (hq : IsLinkOf q lk)
    (ho : (s.link lk).outstanding = some o) :
    (s.answerRequester q a).answers = s.answers ++ [⟨lk, o.tag, answerKind o.kind.code, a⟩] ∧
      ((s.answerRequester q a).link lk).outstanding = none ∧
      (lk = .dispatch → (s.answerRequester q a).pendingReweigh = none) := by
  obtain ⟨p, rfl, rfl⟩ | ⟨rfl, rfl⟩ := hq
  · obtain ⟨answers, freed, -⟩ := s.answerRequester_position a ho
    exact ⟨answers, freed, nofun⟩
  · obtain ⟨answers, freed, emptied⟩ := s.answerRequester_dispatch a ho
    exact ⟨answers, freed, fun _ => emptied⟩

/-- A job that its own unit's read of its record ends: the unit IDLE, the requester answered, the record DAMAGED and
unmarked, the failure reported. Where the record was DAMAGED already the end is the unit's own, else that of the damage. -/
theorem State.endUnread_damageRecord {j : Job} {lk : Link} {o : Outstanding} (hu : s.unit u = some j)
    (hd : j.discarded = false) (hf : s.find j.entry.handle = some r) (hq : r.queued = false)
    (only : ∀ w k, s.unit w = some k → k.entry.handle = j.entry.handle → w = u)
    (alone : ∀ y ∈ s.queue, y.handle ≠ j.entry.handle) (hlk : IsLinkOf j.entry.requester lk)
    (ho : (s.link lk).outstanding = some o) (subject : ReportSubject) (reader : Reader) {t : State}
    (ht : t = ((s.damageRecord j.entry.handle.slot r subject).report subject reader).endUnread j.entry.handle
      subject) :
    t.unit u = none ∧ t.answers = s.answers ++ [⟨lk, o.tag, answerKind o.kind.code, .damaged subject⟩] ∧
      (t.link lk).outstanding = none ∧ (lk = .dispatch → t.pendingReweigh = none) ∧
      t.integrity = (s.report subject reader).integrity ∧
      ∃ r', t.record j.entry.handle.slot = some r' ∧ r'.body = .damaged r.body.label ∧ r'.busy = false ∧
        r'.queued = false ∧ r'.owner = r.owner := by
  have running := State.unitOn_eq_some hu rfl only
  by_cases hb : ∃ lab, r.body = .damaged lab
  · obtain ⟨lab, hb⟩ := hb
    rw [s.damageRecord_damaged _ _ _ lab hb] at ht
    have running' : (s.report subject reader).unitOn j.entry.handle = some u := by
      simpa [State.unitOn, State.unit] using running
    have hu' : (s.report subject reader).unit u = some j := by simpa [State.unit] using hu
    have ended := State.endJobOn_some (.damaged subject) running' hu'
    rw [hd, if_neg (by simp)] at ended
    simp only [State.endUnread, running', ended] at ht
    obtain ⟨answers, freed, emptied⟩ := ((s.report subject reader).jobEnded u j).answerRequester_link
      (.damaged subject) hlk (by simpa [State.link] using ho)
    have own : (((s.report subject reader).jobEnded u j).answerRequester j.entry.requester
        (.damaged subject)).record j.entry.handle.slot = some r := by
      simpa [State.record, State.jobEnded] using State.record_of_find hf
    rw [State.markBusy, own] at ht
    subst ht
    refine ⟨?_, by simpa using answers, freed, emptied, by simp [State.jobEnded], { r with busy := false },
      Table.get_insert_same _ _ _, by simp [hb, RecordBody.label], rfl, hq, rfl⟩
    simpa [State.unit, State.jobEnded] using (s.report subject reader).unit_setUnit u none
  · have hb (lab : Option Label) : r.body ≠ .damaged lab := fun h => hb ⟨lab, h⟩
    have handle := s.handleAt_of_find hf
    have ended := State.damageRecord_running (subject := subject) hb (by rw [handle]; exact running) hu
      (by rw [handle]; exact alone)
    rw [State.endUnread_of_damaged hu rfl hf hb only] at ht
    rw [hd, if_neg (by simp)] at ended
    obtain ⟨answers, freed, emptied⟩ := ((s.damaging j.entry.handle.slot r).jobEnded u j).answerRequester_link
      (.damaged subject) hlk (by simpa [State.link] using ho)
    subst ht
    refine ⟨?_, by simpa [ended] using answers, by simpa [State.link, ended] using freed,
      fun h => by simpa [ended] using emptied h, by simp [State.report_integrity], r.damage, ?_, rfl, rfl, rfl, rfl⟩
    · have := State.damageRecord_unit (subject := subject) hb (by rw [handle]; exact running)
      simpa [State.unit] using this
    · exact (congrArg (fun t : RecordTable => t.records.get _) (State.report_table _ _ _)).trans
        (State.damageRecord_record hb)

/-- Settles O34: the grant is the job started, then the read of its record, whose failure ends it. -/
theorem grantStartsAJob : Obligations.GrantStartsAJob := by
  unfold Obligations.GrantStartsAJob
  refine ⟨fun s hs => ⟨fun u x r l edition values hg hu lower hx hl he hf hv => ?_,
    fun u x r l lk o hg hu lower others hx hl alone hf hr hlk ho => ?_, execGrantOfJob_idle⟩,
    fun e q lab adj rw mass code sides own => ⟨rfl, rfl, fun h => by simp [JobKind.valuesOf, h]⟩⟩
  · refine (execGrantOfJob_eq hs hg (State.idleUnit_eq_some hu lower) (State.nextEntry_eq_some hx) hl hf.1
      (.inr (by rw [hv]; simp))).trans ?_
    rw [grantEntry_sound _ _ _ hf.2, he, hv]
    rfl
  · refine ⟨_, execGrantOfJob_eq hs hg (State.idleUnit_eq_some hu lower) (State.nextEntry_eq_some hx) hl hf
      (.inl hr), ?_⟩
    rw [grantEntry_failing _ _ _ hf hr]
    generalize (s.bank l).state.edition.getD 0 = edition
    generalize (x.kind.valuesOf r.body).getD .absent = values
    have ended := State.endUnread_damageRecord (s.granted_unit (u := u) (l := l) edition values) rfl
      (s.granted_find edition values hf) rfl (fun w k hw hk => ?_) (fun y hy => ?_) hlk
      (o := o) (by simpa [State.granted, State.link] using ho) (.record x.handle) (.unit u) rfl
    · obtain ⟨unit, answers, freed, emptied, integrity, record⟩ := ended
      exact ⟨unit, by simpa [State.granted] using answers, freed, emptied,
        integrity.trans (by simp [State.report_integrity, State.granted]), record⟩
    · by_contra hwu
      rw [State.granted_unit_other _ _ _ hwu] at hw
      exact others w k hw hk
    · rw [State.granted_queue, List.mem_filter] at hy
      exact alone y hy.1 (by simpa using hy.2)

end Sys2Proof.Machine
end

section
/-! SUPPORT. The laws of the queue, the marks, the links and the contexts (R18, R19, R67, R116, R164) as they stand within a
step: a requester's link may hold a request that is still being looked at. -/
namespace Sys2Proof.Machine

/-! ### The jobs in the units -/

/-- Emptying a place that held a content takes the content from the contents. -/
theorem perm_filterMap_set {α : Type} {a : α} : ∀ {l : List (Option α)} {n : Nat}, l[n]? = some (some a) →
    (l.filterMap id).Perm (a :: (l.set n none).filterMap id)
  | [], _, h => by simp at h
  | x :: rest, 0, h => by
    obtain rfl : x = some a := by simpa using h
    simp
  | x :: rest, n + 1, h => by
    have ih := perm_filterMap_set (l := rest) (n := n) (by simpa using h)
    cases x with
    | none => simpa using ih
    | some b => simpa using (ih.cons b).trans (.swap a b _)

section
variable {s t : State} {u : UnitNo} {j : Job}

theorem State.unit_eq_getElem (s : State) (u : UnitNo) : s.units.toList[u.val]? = some (s.unit u) := by
  rw [Vector.getElem?_toList]
  simp [State.unit, Vector.get]

/-- A unit's job among the jobs, and those of the other units. -/
theorem State.jobs_perm (hu : s.unit u = some j) : s.jobs.Perm (j :: (s.setUnit u none).jobs) := by
  have := perm_filterMap_set (l := s.units.toList) (n := u.val) (by rw [State.unit_eq_getElem, hu])
  simpa [State.jobs, Vector.toList_set] using this

theorem State.mem_jobs : j ∈ s.jobs ↔ ∃ u, s.unit u = some j := by
  constructor
  · intro hj
    simp only [State.jobs, List.mem_filterMap, id_eq, exists_eq_right] at hj
    obtain ⟨i, hi⟩ := List.mem_iff_getElem?.1 hj
    have lt : i < 4 := by
      have := (List.getElem?_eq_some_iff.1 hi).1
      simpa using this
    exact ⟨⟨i, lt⟩, by simpa [State.unit_eq_getElem s ⟨i, lt⟩] using hi⟩
  · rintro ⟨u, hu⟩
    exact (State.jobs_perm hu).symm.subset (List.mem_cons_self ..)

/-- The running jobs by what the laws of the queue go by: the entry, and whether the job is discarded. -/
def State.running (s : State) : List (QueueEntry × Bool) := s.jobs.map fun j => (j.entry, j.discarded)

theorem State.running_perm (hu : s.unit u = some j) :
    s.running.Perm ((j.entry, j.discarded) :: (s.setUnit u none).running) :=
  (State.jobs_perm hu).map _

theorem State.mem_running {x : QueueEntry × Bool} :
    x ∈ s.running ↔ ∃ u j, s.unit u = some j ∧ (j.entry, j.discarded) = x := by
  simp only [State.running, List.mem_map, State.mem_jobs]
  exact ⟨fun ⟨j, ⟨u, hu⟩, hx⟩ => ⟨u, j, hu, hx⟩, fun ⟨u, j, hu, hx⟩ => ⟨j, ⟨u, hu⟩, hx⟩⟩

theorem State.running_congr (h : t.units = s.units) : t.running = s.running := by
  simp only [State.running, State.jobs, h]

/-- Units whose jobs differ in their working values alone run the same. -/
theorem State.running_eq_of_unit
    (h : ∀ w, (t.unit w).map (fun j => (j.entry, j.discarded)) = (s.unit w).map fun j => (j.entry, j.discarded)) :
    t.running = s.running := by
  have each (v : State) : v.running =
      (v.units.toList.map (Option.map fun j => (j.entry, j.discarded))).filterMap id := by
    simp [State.running, State.jobs, List.map_filterMap, List.filterMap_map]
  rw [each, each]
  congr 1
  refine List.ext_getElem (by simp) fun i hi _ => ?_
  have lt : i < 4 := by simpa using hi
  simpa [State.unit, Vector.get] using h ⟨i, lt⟩

/-- The requesters that wait, by the queue and the running jobs. -/
theorem State.waiting_eq (s : State) : s.waiting =
    s.queue.map (·.requester) ++ (s.running.filter fun x => !x.2).map (·.1.requester) := by
  simp [State.waiting, State.running, List.filter_map, Function.comp_def]

/-- The handles of the queue and of the running jobs. -/
def State.queueHandles (s : State) : List Handle := s.queue.map (·.handle)

def State.jobHandles (s : State) : List Handle := s.running.map (·.1.handle)

end

/-! ### The marks of a table (R18, R19, R67) -/

/-- The handle of the record in a slot of a table. -/
def RecordTable.handleAt (t : RecordTable) (n : Nat) : Handle := ⟨n, t.generations.getD n 1⟩

/-- The marks of a table in step with the handles queued and the handles under a job: each handle once, each that of a live
record, a record queued exactly with its handle among the first and busy exactly with it among the second. -/
structure RecordTable.Marked (t : RecordTable) (queued jobs : List Handle) : Prop where
  rising : risingKeys t.records.cells = true
  nodup : (queued ++ jobs).Nodup
  live : ∀ h ∈ queued ++ jobs, t.handleAt h.slot = h ∧ ∃ r, t.records.get h.slot = some r
  queued : ∀ n r, t.records.get n = some r → (r.queued = true ↔ t.handleAt n ∈ queued)
  busy : ∀ n r, t.records.get n = some r → (r.busy = true ↔ t.handleAt n ∈ jobs)

namespace RecordTable.Marked
variable {t u : RecordTable} {q j q' j' : List Handle} {n : Nat} {r r' : Rec}

/-- The label index does not count. -/
theorem congr (m : t.Marked q j) (hr : u.records = t.records) (hg : u.generations = t.generations) : u.Marked q j := by
  obtain ⟨rising, nodup, live, queued, busy⟩ := m
  have handle (n : Nat) : u.handleAt n = t.handleAt n := by rw [handleAt, handleAt, hg]
  exact ⟨hr ▸ rising, nodup, by simpa only [handle, hr] using live, by simpa only [handle, hr] using queued,
    by simpa only [handle, hr] using busy⟩

/-- A record is written whose marks are those of the new lists, which differ from the old ones in its handle at most. -/
theorem put (m : t.Marked q j) (nodup : (q' ++ j').Nodup)
    (others : ∀ h, h ≠ t.handleAt n → (h ∈ q' ↔ h ∈ q) ∧ (h ∈ j' ↔ h ∈ j))
    (queued : r'.queued = true ↔ t.handleAt n ∈ q') (busy : r'.busy = true ↔ t.handleAt n ∈ j') :
    RecordTable.Marked { t with records := t.records.insert n r' } q' j' := by
  have other_slot {k : Nat} (hk : k ≠ n) : t.handleAt k ≠ t.handleAt n := fun e => hk (congrArg Handle.slot e)
  refine ⟨risingKeys_insertCell _ _ _ m.rising, nodup, fun h hh => ?_, fun k x hx => ?_, fun k x hx => ?_⟩
  · by_cases hn : h = t.handleAt n
    · subst hn
      exact ⟨rfl, r', Table.get_insert_same _ _ _⟩
    · have old : h ∈ q ++ j := by
        simpa only [List.mem_append, (others h hn).1, (others h hn).2] using hh
      obtain ⟨handle, x, hx⟩ := m.live h old
      refine ⟨handle, x, (Table.get_insert_other _ _ _ _ fun e => hn ?_).trans hx⟩
      rw [← handle, e]
  · by_cases hk : k = n
    · subst hk
      obtain rfl : r' = x := Option.some.inj ((Table.get_insert_same _ _ _).symm.trans hx)
      exact queued
    · exact (m.queued k x ((Table.get_insert_other _ _ _ _ hk).symm.trans hx)).trans (others _ (other_slot hk)).1.symm
  · by_cases hk : k = n
    · subst hk
      obtain rfl : r' = x := Option.some.inj ((Table.get_insert_same _ _ _).symm.trans hx)
      exact busy
    · exact (m.busy k x ((Table.get_insert_other _ _ _ _ hk).symm.trans hx)).trans (others _ (other_slot hk)).2.symm

/-- A record is rewritten, its marks kept. -/
theorem rewrite (m : t.Marked q j) (hr : t.records.get n = some r) (hq : r'.queued = r.queued)
    (hb : r'.busy = r.busy) : RecordTable.Marked { t with records := t.records.insert n r' } q j :=
  m.put m.nodup (fun _ _ => ⟨.rfl, .rfl⟩) (hq ▸ m.queued n r hr) (hb ▸ m.busy n r hr)

/-- A handle that names no live record stands nowhere. -/
theorem not_mem_of_free (m : t.Marked q j) (hn : t.records.get n = none) : t.handleAt n ∉ q ∧ t.handleAt n ∉ j := by
  have absent : t.handleAt n ∉ q ++ j := fun h => by
    obtain ⟨-, x, hx⟩ := m.live _ h
    rw [handleAt, hn] at hx
    cases hx
  rwa [List.mem_append, not_or] at absent

/-- A new record, unmarked, in a free slot. -/
theorem fresh (m : t.Marked q j) (hn : t.records.get n = none) (hq : r'.queued = false) (hb : r'.busy = false) :
    RecordTable.Marked { t with records := t.records.insert n r' } q j := by
  obtain ⟨queued, busy⟩ := m.not_mem_of_free hn
  exact m.put m.nodup (fun _ _ => ⟨.rfl, .rfl⟩) (by simp [hq, queued]) (by simp [hb, busy])

/-- The slot of a record is freed that is under no job, with the entry on it. -/
theorem free (m : t.Marked q j) (hj : t.handleAt n ∉ j) (g : Nat) :
    RecordTable.Marked { t with records := t.records.erase n, generations := t.generations.put n g 1 }
      (q.erase (t.handleAt n)) j := by
  have nodup : (q.erase (t.handleAt n) ++ j).Nodup :=
    m.nodup.sublist (List.erase_sublist.append (List.Sublist.refl j))
  have gone : t.handleAt n ∉ q.erase (t.handleAt n) :=
    (m.nodup.sublist (List.sublist_append_left q j)).not_mem_erase
  have slot {k : Nat} (hk : k ≠ n) : t.handleAt k ≠ t.handleAt n := fun e => hk (congrArg Handle.slot e)
  have handle {k : Nat} (hk : k ≠ n) :
      RecordTable.handleAt { t with records := t.records.erase n, generations := t.generations.put n g 1 } k =
        t.handleAt k := by
    rw [handleAt, handleAt, Table.getD_put_other _ _ _ _ _ hk]
  have other {k : Nat} {x : Rec} (hx : (t.records.erase n).get k = some x) : k ≠ n ∧ t.records.get k = some x := by
    by_cases hk : k = n
    · rw [hk, Table.get_erase_same _ _ m.rising] at hx
      cases hx
    · exact ⟨hk, (Table.get_erase_other _ _ _ hk).symm.trans hx⟩
  refine ⟨risingKeys_eraseCell _ _ m.rising, nodup, fun h hh => ?_, fun k x hx => ?_, fun k x hx => ?_⟩
  · obtain ⟨at_slot, x, hx⟩ := m.live h ((List.erase_sublist.append (List.Sublist.refl j)).subset hh)
    have hn : h.slot ≠ n := by
      rintro rfl
      rw [at_slot] at gone hj hh
      exact (List.mem_append.1 hh).elim gone hj
    exact ⟨(handle hn).trans at_slot, x, (Table.get_erase_other _ _ _ hn).trans hx⟩
  · obtain ⟨hk, hx⟩ := other hx
    rw [handle hk, List.mem_erase_of_ne (slot hk)]
    exact m.queued k x hx
  · obtain ⟨hk, hx⟩ := other hx
    exact handle hk ▸ m.busy k x hx

/-- Every record is changed, its marks kept. -/
theorem mapValues (m : t.Marked q j) {f : Rec → Rec} (hq : ∀ r, (f r).queued = r.queued)
    (hb : ∀ r, (f r).busy = r.busy) : RecordTable.Marked { t with records := t.records.mapValues f } q j := by
  refine ⟨risingKeys_map _ _ m.rising, m.nodup, fun h hh => ?_, fun k x hx => ?_, fun k x hx => ?_⟩
  · obtain ⟨at_slot, x, hx⟩ := m.live h hh
    exact ⟨at_slot, f x, by rw [Table.get_mapValues, hx]; rfl⟩
  all_goals
    obtain ⟨y, hy, rfl⟩ := Option.map_eq_some_iff.1 ((Table.get_mapValues _ _ _).symm.trans hx)
  · exact hq y ▸ m.queued k y hy
  · exact hb y ▸ m.busy k y hy

/-- The order of the handles does not count. -/
theorem perm (m : t.Marked q j) (hq : q'.Perm q) (hj : j'.Perm j) : t.Marked q' j' :=
  ⟨m.rising, (hq.append hj).nodup_iff.2 m.nodup, fun h hh => m.live h ((hq.append hj).subset hh),
    fun n r hr => (m.queued n r hr).trans hq.mem_iff.symm, fun n r hr => (m.busy n r hr).trans hj.mem_iff.symm⟩

/-- Marks in step with no handle: nothing is queued or busy. -/
theorem empty (h : risingKeys t.records.cells = true)
    (hm : ∀ n r, t.records.get n = some r → r.queued = false ∧ r.busy = false) : t.Marked [] [] :=
  ⟨h, List.nodup_nil, nofun, fun n r hr => by simp [(hm n r hr).1], fun n r hr => by simp [(hm n r hr).2]⟩

end RecordTable.Marked

/-! ### The requests of the links (R67, R116, R164) -/

/-- The link of a requester. -/
def Requester.link : Requester → Link
  | .position p => .position p
  | .dispatch => .dispatch

/-- The requester of a link, if it is one. -/
def asker : Link → Option Requester
  | .position p => some (.position p)
  | .dispatch => some .dispatch
  | .supervisor => none

/-- A requester stands as one that waits for a rating: a position WORKING, dispatch with a pending reweigh. -/
def State.awaits (s : State) : Requester → Bool
  | .position p => (s.ctx p).isWorking
  | .dispatch => s.pendingReweigh.isSome

/-- A requester stands as one whose request is held (R116, R164). -/
def State.holds (s : State) : Requester → Bool
  | .position p => (s.ctx p).holdsRequest
  | .dispatch => s.pendingReweigh.isSome

/-- The links and the contexts in step with the requesters that wait, while the request of `asking`, if any, is being looked
at: its link holds it, though the requester does not yet stand so. -/
structure State.Requested (s : State) (waiting : List Requester) (asking : Option Requester) : Prop where
  waits : ∀ q, q ∈ waiting ↔ s.awaits q = true
  held : ∀ q, (s.link q.link).outstanding.isSome = true ↔ s.holds q = true ∨ asking = some q
  asks : ∀ q, asking = some q → s.holds q = false

theorem State.holds_of_awaits {s : State} {q : Requester} (h : s.awaits q = true) : s.holds q = true := by
  cases q with
  | position p =>
    revert h
    show (s.ctx p).isWorking = true → (s.ctx p).holdsRequest = true
    cases s.ctx p <;> simp [Context.isWorking, Context.holdsRequest]
  | dispatch => exact h

/-- No requester waits twice, and the links and the contexts are in step with those that wait. -/
structure State.Attended (asking : Option Requester) (s : State) : Prop where
  nodup : s.waiting.Nodup
  requested : s.Requested s.waiting asking

/-- The laws of R67, R18, R19, R116 and R164 within a step. -/
structure State.InStep (asking : Option Requester) (s : State) : Prop where
  marked : s.table.Marked s.queueHandles s.jobHandles
  attended : s.Attended asking

/-! ### The laws between steps -/

/-- Two truth values are the same where each holds exactly as the other does. -/
theorem beq_true_iff (a b : Bool) : (a == b) = true ↔ (a = true ↔ b = true) := by
  rw [beq_iff_eq, Bool.eq_iff_iff]

theorem State.jobHandles_eq (s : State) : s.jobHandles = s.jobs.map (·.entry.handle) := by
  simp [State.jobHandles, State.running]

/-- A handle finds a record exactly where it is the handle of its slot and a record is there. -/
theorem State.find_isSome_iff {s : State} {h : Handle} :
    (s.find h).isSome = true ↔ s.table.handleAt h.slot = h ∧ ∃ r, s.record h.slot = some r := by
  cases hr : s.record h.slot with
  | none => simp [State.find, hr]
  | some r =>
    simp only [State.find, hr]
    by_cases hg : s.generation h.slot = h.gen
    · rw [if_pos hg]
      exact iff_of_true rfl ⟨congrArg (Handle.mk h.slot) hg, r, rfl⟩
    · rw [if_neg hg]
      exact iff_of_false (by simp) fun found => hg (congrArg Handle.gen found.1)

theorem State.marksLaw_iff {s : State} (hr : risingKeys s.table.records.cells = true) :
    s.marksLaw = true ↔ s.table.Marked s.queueHandles s.jobHandles := by
  have queued (h : Handle) : (s.queue.any fun e => e.handle == h) = true ↔ h ∈ s.queueHandles := by
    simp [State.queueHandles]
  have busy (h : Handle) : (s.jobs.any fun j => j.entry.handle == h) = true ↔ h ∈ s.jobHandles := by
    simp [State.jobHandles_eq]
  simp only [State.marksLaw, Bool.and_eq_true, decide_eq_true_eq, List.all_eq_true, ← State.jobHandles_eq, beq_true_iff,
    queued, busy, State.find_isSome_iff]
  exact ⟨fun ⟨⟨nodup, live⟩, marks⟩ => ⟨hr, nodup, live, fun n r h => (marks (n, r) (mem_of_getCell h)).1,
      fun n r h => (marks (n, r) (mem_of_getCell h)).2⟩,
    fun m => ⟨⟨m.nodup, m.live⟩, fun c hc => ⟨m.queued c.1 c.2 (getCell_of_mem hr hc),
      m.busy c.1 c.2 (getCell_of_mem hr hc)⟩⟩⟩

theorem State.requestLaw_iff {s : State} :
    s.requestLaw = true ↔ s.waiting.Nodup ∧ s.Requested s.waiting none := by
  simp only [State.requestLaw, Bool.and_eq_true, decide_eq_true_eq, List.all_eq_true, beq_true_iff,
    List.mem_finRange, forall_const, and_assoc, List.contains_iff_mem]
  refine and_congr_right fun _ => ⟨fun ⟨positions, dispatch, reweigh⟩ => ⟨?_, ?_, nofun⟩, fun r => ⟨fun p =>
    ⟨r.waits (.position p), (r.held (.position p)).trans (by simp [State.holds])⟩, ?_, ?_⟩⟩
  · rintro (p | _)
    · exact (positions p).1
    · exact dispatch.trans reweigh.symm
  · rintro (p | _)
    · exact (positions p).2.trans (by simp [State.holds])
    · exact reweigh.symm.trans (by simp [State.holds])
  · exact (r.waits .dispatch).trans ((r.held .dispatch).trans (by simp [State.holds, State.awaits])).symm
  · exact ((r.held .dispatch).trans (by simp [State.holds])).symm

/-- Between steps they are the laws. -/
theorem State.inStep_iff {s : State} (hr : risingKeys s.table.records.cells = true) :
    s.InStep none ↔ s.marksLaw = true ∧ s.requestLaw = true := by
  rw [State.marksLaw_iff hr, State.requestLaw_iff]
  exact ⟨fun h => ⟨h.marked, h.attended.nodup, h.attended.requested⟩, fun ⟨m, n, r⟩ => ⟨m, n, r⟩⟩

end Sys2Proof.Machine
end

section
/-! SUPPORT. What each operation does to the marks, and to the requesters that wait (R18, R19, R67, R116, R164). -/
namespace Sys2Proof.Machine

/-! ### Marks set and cleared -/

namespace RecordTable.Marked
variable {t : RecordTable} {q j : List Handle} {n : Nat} {r : Rec}

theorem nodup_queued (m : t.Marked q j) : q.Nodup := m.nodup.sublist (List.sublist_append_left q j)

theorem nodup_jobs (m : t.Marked q j) : j.Nodup := m.nodup.sublist (List.sublist_append_right q j)

/-- A record loses both marks, with the entry and the job on it. -/
theorem unmark (m : t.Marked q j) (hq : r.queued = false) (hb : r.busy = false) :
    RecordTable.Marked { t with records := t.records.insert n r } (q.erase (t.handleAt n)) (j.erase (t.handleAt n)) :=
  m.put (m.nodup.sublist (List.erase_sublist.append List.erase_sublist))
    (fun _ hh => ⟨List.mem_erase_of_ne hh, List.mem_erase_of_ne hh⟩) (by simp [hq, m.nodup_queued.not_mem_erase])
    (by simp [hb, m.nodup_jobs.not_mem_erase])

/-- A record loses its queued mark with its entry. -/
theorem unqueue (m : t.Marked q j) (hr : t.records.get n = some r) :
    RecordTable.Marked { t with records := t.records.insert n { r with queued := false } } (q.erase (t.handleAt n)) j :=
  m.put (m.nodup.sublist (List.erase_sublist.append (List.Sublist.refl j)))
    (fun _ hh => ⟨List.mem_erase_of_ne hh, .rfl⟩) (by simp [m.nodup_queued.not_mem_erase]) (m.busy n r hr)

/-- A record loses its busy mark with its job. -/
theorem unbusy (m : t.Marked q j) (hr : t.records.get n = some r) :
    RecordTable.Marked { t with records := t.records.insert n { r with busy := false } } q (j.erase (t.handleAt n)) :=
  m.put (m.nodup.sublist ((List.Sublist.refl q).append List.erase_sublist))
    (fun _ hh => ⟨.rfl, List.mem_erase_of_ne hh⟩) (m.queued n r hr) (by simp [m.nodup_jobs.not_mem_erase])

/-- An unmarked record gets an entry. -/
theorem enqueue (m : t.Marked q j) (hr : t.records.get n = some r) (hq : r.queued = false) (hb : r.busy = false) :
    RecordTable.Marked { t with records := t.records.insert n { r with queued := true } } (q ++ [t.handleAt n]) j := by
  have queued : t.handleAt n ∉ q := fun h => by simpa [hq] using (m.queued n r hr).2 h
  have busy : t.handleAt n ∉ j := fun h => by simpa [hb] using (m.busy n r hr).2 h
  refine m.put ?_ (fun h hh => ⟨by simp [hh], .rfl⟩) (by simp) (m.busy n r hr)
  rw [List.append_assoc, List.singleton_append, List.perm_middle.nodup_iff, List.nodup_cons]
  exact ⟨by simp [queued, busy], m.nodup⟩

/-- The entry on a record becomes a job on it. -/
theorem start (m : t.Marked q j) (hm : t.handleAt n ∈ q) :
    RecordTable.Marked { t with records := t.records.insert n { r with queued := false, busy := true } }
      (q.erase (t.handleAt n)) (t.handleAt n :: j) := by
  refine m.put ?_ (fun h hh => ⟨List.mem_erase_of_ne hh, by simp [hh]⟩) (by simp [m.nodup_queued.not_mem_erase])
    (by simp)
  have moved : (q.erase (t.handleAt n) ++ t.handleAt n :: j).Perm (q ++ j) :=
    List.perm_middle.trans ((List.perm_cons_erase hm).symm.append_right j)
  exact moved.nodup_iff.2 m.nodup

end RecordTable.Marked

/-! ### Who waits -/

/-- One of a list whose values of `f` differ, and the others. -/
theorem perm_cons_filter {α β : Type} [DecidableEq β] {f : α → β} {e : α} : ∀ {l : List α}, (l.map f).Nodup → e ∈ l →
    l.Perm (e :: l.filter fun x => f x != f e)
  | a :: rest, hn, he => by
    obtain ⟨ha, hrest⟩ := List.nodup_cons.1 (List.map_cons .. ▸ hn)
    rcases List.mem_cons.1 he with rfl | he
    · have others : (rest.filter fun x => f x != f e) = rest :=
        List.filter_eq_self.2 fun x hx => by simpa using fun h => ha (List.mem_map.2 ⟨x, hx, h⟩)
      simp [others]
    · have hne : (f a != f e) = true := by simpa using fun h => ha (List.mem_map.2 ⟨e, he, h.symm⟩)
      rw [List.filter_cons_of_pos (p := fun x => f x != f e) hne]
      exact ((perm_cons_filter hrest he).cons a).trans (.swap e a _)

/-- Values of a list without one of them. -/
theorem map_perm_erase {α β : Type} [DecidableEq β] {f : α → β} {e : α} {l m : List α} (h : l.Perm (e :: m)) :
    (m.map f).Perm ((l.map f).erase (f e)) := by
  have := (h.map f).erase (f e)
  simpa using this.symm

section
variable {s t : State} {u : UnitNo} {j : Job} {e : QueueEntry}

theorem State.waiting_congr (hq : t.queue = s.queue) (hr : t.running = s.running) : t.waiting = s.waiting := by
  rw [State.waiting_eq, State.waiting_eq, hq, hr]

/-- A job that is not discarded waits for its requester. -/
theorem State.waiting_of_unit (hq : t.queue = s.queue) (hr : t.running = (s.setUnit u none).running)
    (hu : s.unit u = some j) (hd : j.discarded = false) : s.waiting.Perm (j.entry.requester :: t.waiting) := by
  rw [State.waiting_eq, State.waiting_eq, hq, hr]
  refine (List.Perm.append_left _ (((State.running_perm hu).filter _).map _)).trans ?_
  simp [hd]

/-- A discarded job does not. -/
theorem State.waiting_of_discarded (hq : t.queue = s.queue) (hr : t.running = (s.setUnit u none).running)
    (hu : s.unit u = some j) (hd : j.discarded = true) : t.waiting.Perm s.waiting := by
  rw [State.waiting_eq, State.waiting_eq, hq, hr]
  refine List.Perm.append_left _ (.symm ((((State.running_perm hu).filter _).map _).trans ?_))
  simp [hd]

/-- An entry waits for its requester. -/
theorem State.waiting_of_entry (hq : s.queue.Perm (e :: t.queue)) (hr : t.running = s.running) :
    s.waiting.Perm (e.requester :: t.waiting) := by
  rw [State.waiting_eq, State.waiting_eq, hr]
  exact (hq.map _).append_right _

theorem State.jobHandles_of_unit (hr : t.running = (s.setUnit u none).running) (hu : s.unit u = some j) :
    t.jobHandles.Perm (s.jobHandles.erase j.entry.handle) := by
  rw [State.jobHandles, State.jobHandles, hr]
  exact map_perm_erase (f := fun x : QueueEntry × Bool => x.1.handle) (State.running_perm hu)

/-- A waiting requester is that of an entry or of a running job that is not discarded. -/
theorem State.mem_waiting {q : Requester} : q ∈ s.waiting ↔ (∃ e ∈ s.queue, e.requester = q) ∨
    ∃ u j, s.unit u = some j ∧ j.discarded = false ∧ j.entry.requester = q := by
  simp only [State.waiting, List.mem_append, List.mem_map, List.mem_filter, State.mem_jobs, Bool.not_eq_true']
  exact or_congr_right ⟨fun ⟨j, ⟨⟨u, hu⟩, hd⟩, hq⟩ => ⟨u, j, hu, hd, hq⟩,
    fun ⟨u, j, hu, hd, hq⟩ => ⟨j, ⟨⟨u, hu⟩, hd⟩, hq⟩⟩

end

/-! ### States that hold the same of every requester but one -/

/-- Two states hold the same of every requester but one, if any. -/
structure State.AgreesBut (q : Option Requester) (s t : State) : Prop where
  awaits : ∀ c, q ≠ some c → t.awaits c = s.awaits c
  holds : ∀ c, q ≠ some c → t.holds c = s.holds c
  link : ∀ c, q ≠ some c → (t.link c.link).outstanding = (s.link c.link).outstanding

section
variable {s t v : State} {q : Option Requester}

theorem State.AgreesBut.trans (h : State.AgreesBut q s t) (h' : State.AgreesBut q t v) : State.AgreesBut q s v :=
  ⟨fun c hc => (h'.awaits c hc).trans (h.awaits c hc), fun c hc => (h'.holds c hc).trans (h.holds c hc),
    fun c hc => (h'.link c hc).trans (h.link c hc)⟩

/-- The supervisor link does not count. -/
theorem State.AgreesBut.of_eq (hl : t.links.positions = s.links.positions) (hd : t.links.dispatch = s.links.dispatch)
    (hp : t.positions = s.positions) (hr : t.pendingReweigh = s.pendingReweigh) : State.AgreesBut q s t := by
  refine ⟨fun c _ => ?_, fun c _ => ?_, fun c _ => ?_⟩ <;> cases c <;>
    simp only [State.awaits, State.holds, State.ctx, State.link, Requester.link, hl, hd, hp, hr]

theorem asker_eq_some {l : Link} {c : Requester} : asker l = some c ↔ c.link = l := by
  cases l <;> cases c <;> simp [asker, Requester.link]
  exact eq_comm

theorem State.answer_agreesBut (s : State) (l : Link) (a : Answer) :
    State.AgreesBut (asker l) s (s.answer l a) := by
  refine ⟨fun c _ => ?_, fun c _ => ?_, fun c hc => ?_⟩
  · cases c <;> simp [State.awaits, State.ctx]
  · cases c <;> simp [State.holds, State.ctx]
  · have other : l ≠ c.link := fun e => hc (asker_eq_some.2 e.symm)
    unfold State.answer
    split
    · rfl
    · exact congrArg LinkState.outstanding (State.link_setLink_other s l c.link _ other)

theorem State.hold_agreesBut (s : State) (l : Link) (k : Kind) (g : Tag) :
    State.AgreesBut (asker l) s (s.hold l k g) := by
  refine ⟨fun c _ => ?_, fun c _ => ?_, fun c hc => ?_⟩
  · cases c <;> simp [State.awaits, State.ctx, State.hold]
  · cases c <;> simp [State.holds, State.ctx, State.hold]
  · exact congrArg LinkState.outstanding
      (State.link_setLink_other s l c.link _ fun e => hc (asker_eq_some.2 e.symm))

theorem State.setCtx_agreesBut (s : State) (p : PositionNo) (c : Context) :
    State.AgreesBut (some (.position p)) s (s.setCtx p c) := by
  have other {k : PositionNo} (h : some (Requester.position p) ≠ some (.position k)) :
      (s.setCtx p c).ctx k = s.ctx k := s.ctx_setCtx_other p k c fun e => h (by rw [e])
  refine ⟨fun k hk => ?_, fun k hk => ?_, fun k _ => rfl⟩ <;> cases k <;>
    simp only [State.awaits, State.holds, State.setCtx_pendingReweigh] <;> rw [other hk]

theorem State.answerRequester_agreesBut (s : State) (r : Requester) (a : Answer) :
    State.AgreesBut (some r) s (s.answerRequester r a) := by
  cases r with
  | position p => exact (s.answer_agreesBut (.position p) a).trans (State.setCtx_agreesBut _ p _)
  | dispatch =>
    have same := s.answer_agreesBut .dispatch a
    refine ⟨fun c hc => ?_, fun c hc => ?_, same.link⟩
    · cases c with
      | position p => exact same.awaits _ hc
      | dispatch => exact absurd rfl hc
    · cases c with
      | position p => exact same.holds _ hc
      | dispatch => exact absurd rfl hc

end

/-! ### The requests in step -/

section
variable {s t : State} {w w' : List Requester} {x y : Option Requester} {q : Requester}

/-- Where all but one requester stand as they did, the requests are in step if that one's is. -/
theorem State.Requested.at (r : s.Requested w x) (same : State.AgreesBut (some q) s t)
    (others : ∀ c, c ≠ q → (c ∈ w' ↔ c ∈ w) ∧ (y = some c ↔ x = some c)) (waits : q ∈ w' ↔ t.awaits q = true)
    (held : (t.link q.link).outstanding.isSome = true ↔ t.holds q = true ∨ y = some q)
    (asks : y = some q → t.holds q = false) : t.Requested w' y := by
  have ne {c : Requester} (h : c ≠ q) : some q ≠ some c := fun e => h (Option.some.inj e).symm
  refine ⟨fun c => ?_, fun c => ?_, fun c hc => ?_⟩ <;> by_cases h : c = q
  · exact h ▸ waits
  · rw [(others c h).1, r.waits, same.awaits c (ne h)]
  · exact h ▸ held
  · rw [same.link c (ne h), r.held, same.holds c (ne h), (others c h).2]
  · exact h ▸ asks (h ▸ hc)
  · exact (same.holds c (ne h)).trans (r.asks c ((others c h).2.1 hc))

theorem State.Requested.congr (r : s.Requested w x) (same : State.AgreesBut none s t)
    (hw : ∀ c, c ∈ w' ↔ c ∈ w) : t.Requested w' x :=
  ⟨fun c => by rw [hw, r.waits, same.awaits c (by simp)],
    fun c => by rw [same.link c (by simp), r.held, same.holds c (by simp)],
    fun c hc => (same.holds c (by simp)).trans (r.asks c hc)⟩

/-- A request is held to be looked at. -/
theorem State.Requested.hold (r : s.Requested w none) {l : Link} (k : Kind) (g : Tag)
    (ho : (s.link l).outstanding = none) : (s.hold l k g).Requested w (asker l) := by
  cases hl : asker l with
  | none => exact r.congr (hl ▸ s.hold_agreesBut l k g) fun _ => .rfl
  | some q =>
    have link : q.link = l := asker_eq_some.1 hl
    have free : s.holds q = false := by
      have := (r.held q).not.1 (by simp [link, ho])
      simpa using this
    have away : (s.hold l k g).holds q = false := by
      cases q <;> simpa [State.holds, State.ctx, State.hold] using free
    have waits : (s.hold l k g).awaits q = s.awaits q := by
      cases q <;> simp [State.awaits, State.ctx, State.hold]
    exact r.at (q := q) (hl ▸ s.hold_agreesBut l k g) (fun c hc => ⟨.rfl, by simp [hc.symm]⟩)
      (by rw [waits]; exact r.waits q) (by simp [link, State.hold]) fun _ => away

/-- A request looked at is answered. -/
theorem State.Requested.answer {l : Link} (r : s.Requested w (asker l)) (a : Answer) :
    (s.answer l a).Requested w none := by
  cases hl : asker l with
  | none =>
    rw [hl] at r
    exact r.congr (hl ▸ s.answer_agreesBut l a) fun _ => .rfl
  | some q =>
    have link : q.link = l := asker_eq_some.1 hl
    have away : (s.answer l a).holds q = false := by
      have := r.asks q hl
      cases q <;> simpa [State.holds, State.ctx] using this
    have waits : (s.answer l a).awaits q = s.awaits q := by
      cases q <;> simp [State.awaits, State.ctx]
    exact r.at (q := q) (hl ▸ s.answer_agreesBut l a) (fun c hc => ⟨.rfl, by simp [hl, hc.symm]⟩)
      (by rw [waits]; exact r.waits q) (by simp [link, State.answer_outstanding, away]) nofun

/-- A context changes, its position standing as it did. -/
theorem State.Requested.setCtx (r : s.Requested w x) {p : PositionNo} {c : Context}
    (hw : c.isWorking = (s.ctx p).isWorking) (hh : c.holdsRequest = (s.ctx p).holdsRequest) :
    (s.setCtx p c).Requested w x := by
  have waits : (s.setCtx p c).awaits (.position p) = s.awaits (.position p) := by
    simp only [State.awaits, State.ctx_setCtx, hw]
  have holds : (s.setCtx p c).holds (.position p) = s.holds (.position p) := by
    simp only [State.holds, State.ctx_setCtx, hh]
  exact r.at (s.setCtx_agreesBut p c) (fun _ _ => ⟨.rfl, .rfl⟩) (waits ▸ r.waits _)
    (holds ▸ r.held (.position p)) (fun e => holds.trans (r.asks _ e))

/-- A request looked at goes on to be held by its position: as one that waits, or as one that does not. -/
theorem State.Requested.take {p : PositionNo} (r : s.Requested w (some (.position p))) {c : Context}
    (hh : c.holdsRequest = true) (hw : Requester.position p ∈ w' ↔ c.isWorking = true)
    (others : ∀ k, k ≠ .position p → (k ∈ w' ↔ k ∈ w)) : (s.setCtx p c).Requested w' none := by
  have holds : (s.setCtx p c).holds (.position p) = true := by simp only [State.holds, State.ctx_setCtx, hh]
  exact r.at (s.setCtx_agreesBut p c) (fun k hk => ⟨others k hk, by simp [hk.symm]⟩)
    (by simpa only [State.awaits, State.ctx_setCtx] using hw)
    (iff_of_true ((r.held (.position p)).2 (.inr rfl)) (.inl holds)) nofun

/-- A requester that waits, or whose request is held without waiting, is answered and stands free. -/
theorem State.Requested.release (r : s.Requested w x) (same : State.AgreesBut (some q) s t) (hh : s.holds q = true)
    (ho : (t.link q.link).outstanding = none) (awaits : t.awaits q = false) (holds : t.holds q = false)
    (hw : ∀ c, c ∈ w' ↔ c ∈ w ∧ c ≠ q) : t.Requested w' x := by
  have other : x ≠ some q := fun e => by
    rw [r.asks q e] at hh
    cases hh
  exact r.at same (fun c hc => ⟨by simp [hw, hc], .rfl⟩) (by simp [hw, awaits]) (by simp [ho, holds, other])
    fun e => absurd e other

theorem Context.released_stands (c : Context) (h : c.isWorking = true) :
    c.released.isWorking = false ∧ c.released.holdsRequest = false := by
  cases c with
  | working session pend res request => cases pend <;> exact ⟨rfl, rfl⟩
  | _ => cases h

/-- A request that is held is answered, its position OPEN. -/
theorem State.Requested.endEscalation (r : s.Requested w x) {p : PositionNo} (session : Session) (a : Answer)
    (hh : (s.ctx p).holdsRequest = true) (hw : ∀ c, c ∈ w' ↔ c ∈ w ∧ c ≠ .position p) :
    (s.endEscalation p session a).Requested w' x :=
  r.release ((s.answer_agreesBut (.position p) a).trans (State.setCtx_agreesBut _ p (.opened session none))) hh
    (s.answer_outstanding (.position p) a) (by simp [State.endEscalation, State.awaits, Context.isWorking])
    (by simp [State.endEscalation, State.holds, Context.holdsRequest]) hw

/-- The request of a job that is gone is held on without waiting. -/
theorem State.Requested.park {p : PositionNo} (r : s.Requested w x) {c : Context} (hp : .position p ∈ w)
    (hn : c.isWorking = false) (hh : c.holdsRequest = true) (hw : ∀ k, k ∈ w' ↔ k ∈ w ∧ k ≠ .position p) :
    (s.setCtx p c).Requested w' x := by
  have held := State.holds_of_awaits ((r.waits _).1 hp)
  have holds : (s.setCtx p c).holds (.position p) = true := by simp only [State.holds, State.ctx_setCtx, hh]
  have other : x ≠ some (.position p) := fun e => by
    rw [r.asks _ e] at held
    cases held
  exact r.at (s.setCtx_agreesBut p c) (fun k hk => ⟨by simp [hw, hk], .rfl⟩)
    (by simp [hw, State.awaits, hn])
    (iff_of_true ((r.held (.position p)).2 (.inl held)) (.inl holds)) fun e => absurd e other

/-- The requester of an entry or a job that is gone is answered. -/
theorem State.Requested.answerRequester (r : s.Requested w x) (a : Answer) (hq : q ∈ w)
    (hw : ∀ c, c ∈ w' ↔ c ∈ w ∧ c ≠ q) : (s.answerRequester q a).Requested w' x := by
  have waits := (r.waits q).1 hq
  refine r.release (s.answerRequester_agreesBut q a) (State.holds_of_awaits waits) ?_ ?_ ?_ hw
  · cases q with
    | position p => exact s.answer_outstanding (.position p) a
    | dispatch => exact s.answer_outstanding .dispatch a
  · cases q with
    | position p => simpa [State.awaits, State.answerRequester, State.answerPosition] using
        ((s.ctx p).released_stands waits).1
    | dispatch => rfl
  · cases q with
    | position p => simpa [State.holds, State.answerRequester, State.answerPosition] using
        ((s.ctx p).released_stands waits).2
    | dispatch => rfl

end

end Sys2Proof.Machine
end

section
/-! SUPPORT. Each operation on entries, jobs and records keeps the laws of the queue, the marks, the links and the contexts. -/
namespace Sys2Proof.Machine

variable {s t : State} {x : Option Requester}

/-! ### Who is attended -/

/-- Who waits and who is looked at stand as they did. -/
theorem State.Attended.congr (h : s.Attended x) (same : State.AgreesBut none s t) (hw : t.waiting.Perm s.waiting) :
    t.Attended x :=
  ⟨hw.nodup_iff.2 h.nodup, h.requested.congr same fun _ => hw.mem_iff⟩

/-- A list without the head of a permutation of it. -/
theorem mem_iff_of_perm_cons {α : Type} {q : α} {w w' : List α} (hw : w.Perm (q :: w')) (h : w.Nodup) :
    w'.Nodup ∧ q ∈ w ∧ ∀ c, c ∈ w' ↔ c ∈ w ∧ c ≠ q := by
  obtain ⟨hq, hn⟩ := List.nodup_cons.1 (hw.nodup_iff.1 h)
  refine ⟨hn, hw.symm.subset (List.mem_cons_self ..), fun c => ⟨fun hc => ⟨hw.symm.subset (List.mem_cons_of_mem _ hc), ?_⟩,
    fun ⟨hc, hne⟩ => (List.mem_cons.1 (hw.subset hc)).resolve_left hne⟩⟩
  rintro rfl
  exact hq hc

/-- An entry or a job is gone and its requester is answered. -/
theorem State.Attended.answerRequester {q : Requester} (h : s.Attended x) (same : State.AgreesBut none s t)
    (hw : s.waiting.Perm (q :: t.waiting)) (a : Answer) : (t.answerRequester q a).Attended x := by
  have after : (t.answerRequester q a).waiting = t.waiting :=
    State.waiting_congr (by simp) (State.running_congr (by simp))
  obtain ⟨nodup, mem, others⟩ := mem_iff_of_perm_cons hw h.nodup
  exact ⟨after ▸ nodup, after ▸ (h.requested.congr same fun _ => .rfl).answerRequester a mem others⟩

/-! ### The end of a job and of an entry on a record -/

theorem State.jobEnded_agreesBut (s : State) (u : UnitNo) (j : Job) : State.AgreesBut none s (s.jobEnded u j) :=
  .of_eq (by simp) (by simp) (by simp [State.jobEnded]) (by simp [State.jobEnded])

theorem State.jobEnded_running (s : State) (u : UnitNo) (j : Job) :
    (s.jobEnded u j).running = (s.setUnit u none).running :=
  State.running_congr (by simp [State.jobEnded])

theorem State.endJobOn_attended (h : s.Attended x) (hd : Handle) (a : Answer) : (s.endJobOn hd a).Attended x := by
  cases hu : s.unitOn hd with
  | none => rwa [State.endJobOn_none _ _ _ hu]
  | some u =>
    obtain ⟨j, hj, -⟩ := State.unitOn_some hu
    rw [State.endJobOn_some a hu hj]
    cases hdis : j.discarded with
    | true =>
      exact h.congr (s.jobEnded_agreesBut u j)
        (State.waiting_of_discarded (by simp) (s.jobEnded_running u j) hj hdis)
    | false =>
      exact h.answerRequester (s.jobEnded_agreesBut u j)
        (State.waiting_of_unit (by simp) (s.jobEnded_running u j) hj hdis) a

theorem State.endJobOn_jobHandles (s : State) (hd : Handle) (a : Answer) :
    (s.endJobOn hd a).jobHandles.Perm (s.jobHandles.erase hd) := by
  cases hu : s.unitOn hd with
  | none =>
    rw [State.endJobOn_none _ _ _ hu, List.erase_of_not_mem]
    intro hm
    obtain ⟨y, hy, rfl⟩ := List.mem_map.1 hm
    obtain ⟨u, j, hj, rfl⟩ := State.mem_running.1 hy
    have absent := List.find?_eq_none.1 hu u (by fin_cases u <;> simp)
    simp [hj] at absent
  | some u =>
    obtain ⟨j, hj, rfl⟩ := State.unitOn_some hu
    exact State.jobHandles_of_unit (State.running_congr (State.endJobOn_units a hu)) hj

theorem State.dropEntryOn_queueHandles (hn : s.queueHandles.Nodup) (hd : Handle) (a : Answer) :
    (s.dropEntryOn hd a).queueHandles = s.queueHandles.erase hd := by
  rw [State.queueHandles, State.dropEntryOn_queue, hn.erase_eq_filter]
  simp [State.queueHandles, List.filter_map, Function.comp_def]

theorem State.dropEntryOn_attended (h : s.Attended x) (hn : s.queueHandles.Nodup) (hd : Handle) (a : Answer) :
    (s.dropEntryOn hd a).Attended x := by
  cases he : s.queue.find? (fun e => e.handle == hd) with
  | none => rwa [s.dropEntryOn_none hd a fun e hm => by simpa using List.find?_eq_none.1 he e hm]
  | some e =>
    have mem := List.mem_of_find?_eq_some he
    obtain rfl : e.handle = hd := by simpa using List.find?_some he
    rw [s.dropEntryOn_some a he]
    refine h.answerRequester (t := { s with queue := s.queue.filter fun y => y.handle != e.handle })
      (.of_eq rfl rfl rfl rfl) (State.waiting_of_entry (e := e) ?_ rfl) a
    exact perm_cons_filter (f := QueueEntry.handle) hn mem

namespace State.InStep

/-! ### What does not count -/

/-- The records, the generations, the entries, the jobs' entries, the contexts, the requesters' links and the pending
reweigh stand as they did. -/
theorem congr (h : s.InStep x) (hr : t.table.records = s.table.records)
    (hg : t.table.generations = s.table.generations) (hq : t.queue = s.queue) (hj : t.running = s.running)
    (same : State.AgreesBut none s t) : t.InStep x := by
  refine ⟨?_, h.attended.congr same (.of_eq (State.waiting_congr hq hj))⟩
  rw [State.queueHandles, State.jobHandles, hq, hj]
  exact h.marked.congr hr hg

/-- An entry's record. -/
theorem record_of_entry (h : s.InStep x) {e : QueueEntry} (he : e ∈ s.queue) :
    s.table.handleAt e.handle.slot = e.handle ∧ ∃ r, s.record e.handle.slot = some r :=
  h.marked.live _ (List.mem_append_left _ (List.mem_map.2 ⟨e, he, rfl⟩))

/-- A job's record. -/
theorem record_of_unit (h : s.InStep x) {u : UnitNo} {j : Job} (hu : s.unit u = some j) :
    s.table.handleAt j.entry.handle.slot = j.entry.handle ∧ ∃ r, s.record j.entry.handle.slot = some r :=
  h.marked.live _ (List.mem_append_right _ (List.mem_map.2 ⟨_, State.mem_running.2 ⟨u, j, hu, rfl⟩, rfl⟩))

/-! ### Records -/

/-- A record is rewritten, its marks kept. -/
theorem rewrite (h : s.InStep x) {n : Nat} {r r' : Rec} (hr : s.record n = some r) (hq : r'.queued = r.queued)
    (hb : r'.busy = r.busy) : (s.putRecord n r').InStep x :=
  ⟨h.marked.rewrite hr hq hb, h.attended.congr (.of_eq rfl rfl rfl rfl) (.refl _)⟩

/-- A new record, unmarked. -/
theorem fresh (h : s.InStep x) {n : Nat} {r : Rec} (hn : s.record n = none) (hq : r.queued = false)
    (hb : r.busy = false) : (s.putRecord n r).InStep x :=
  ⟨h.marked.fresh hn hq hb, h.attended.congr (.of_eq rfl rfl rfl rfl) (.refl _)⟩

/-- Damage of a record ends what is on it. -/
theorem damageRecord (h : s.InStep x) (n : Nat) (r : Rec) (subject : ReportSubject) :
    (s.damageRecord n r subject).InStep x := by
  by_cases hd : ∃ l, r.body = .damaged l
  · obtain ⟨l, hl⟩ := hd
    rwa [s.damageRecord_damaged n r subject l hl]
  · have hb (l : Option Label) : r.body ≠ .damaged l := fun hl => hd ⟨l, hl⟩
    have queue : ((s.damaging n r).endJobOn (s.handleAt n) (.damaged subject)).queue = s.queue := by simp
    have handles : ((s.damaging n r).endJobOn (s.handleAt n) (.damaged subject)).queueHandles = s.queueHandles := by
      rw [State.queueHandles, queue, State.queueHandles]
    have nodup := handles.symm ▸ h.marked.nodup_queued
    have damaging : (s.damaging n r).Attended x :=
      h.attended.congr (.of_eq (by simp) (by simp) (by simp [State.damaging]) (by simp [State.damaging]))
        (.of_eq (State.waiting_congr (by simp) (State.running_congr (by simp))))
    refine ⟨?_, ?_⟩
    · refine ((h.marked.unmark (n := n) (r := r.damage) rfl rfl).congr (u := (s.damageRecord n r subject).table)
        (by rw [State.damageRecord_table _ _ _ _ hb]; rfl) (by simp)).perm ?_ ?_
      · rw [State.damageRecord_eq hb, State.dropEntryOn_queueHandles nodup, handles]
        rfl
      · rw [State.damageRecord_eq hb, State.jobHandles, State.running_congr (State.dropEntryOn_units _ _ _)]
        refine ((s.damaging n r).endJobOn_jobHandles (s.handleAt n) (.damaged subject)).trans ?_
        rw [State.jobHandles, State.running_congr (s.damaging_units n r)]
        rfl
    · rw [State.damageRecord_eq hb]
      exact State.dropEntryOn_attended (State.endJobOn_attended damaging _ _) nodup _ _

/-- A unit's own failing read of its record ends its job. -/
theorem endUnread (h : s.InStep x) (hd : Handle) (subject : ReportSubject) : (s.endUnread hd subject).InStep x := by
  cases hu : s.unitOn hd with
  | none => simpa only [State.endUnread, hu] using h
  | some u =>
    obtain ⟨j, hj, rfl⟩ := State.unitOn_some hu
    obtain ⟨handle, r, hr⟩ := h.record_of_unit hj
    have table := State.endJobOn_table s j.entry.handle (.damaged subject)
    have here : (s.endJobOn j.entry.handle (.damaged subject)).record j.entry.handle.slot = some r := by
      rw [State.record, table]
      exact hr
    simp only [State.endUnread, hu, State.markBusy, here]
    refine ⟨?_, (State.endJobOn_attended h.attended j.entry.handle (.damaged subject)).congr (.of_eq rfl rfl rfl rfl)
      (.refl _)⟩
    refine ((h.marked.unbusy hr).congr (by simp [State.putRecord]) (by simp [State.putRecord])).perm ?_ ?_
    · rw [State.queueHandles, State.putRecord_queue, State.endJobOn_queue]
      rfl
    · rw [handle]
      exact s.endJobOn_jobHandles j.entry.handle (.damaged subject)

/-- Retirement of a record that is under no job. -/
theorem retire (h : s.InStep x) {n : Nat} {r : Rec} (hr : s.record n = some r) (hb : r.busy = false) :
    (s.retire n r).InStep x := by
  have idle : s.table.handleAt n ∉ s.jobHandles := fun hj => by simpa [hb] using (h.marked.busy n r hr).2 hj
  obtain ⟨v, hv, queue, units, same⟩ : ∃ v : State,
      s.retire n r = (v.dropEntryOn (s.handleAt n) .noRecord).freeSlot n ∧ v.queue = s.queue ∧ v.units = s.units ∧
        State.AgreesBut none s v := by
    unfold State.retire
    cases r.body.label with
    | none => exact ⟨_, rfl, by simp, by simp, .of_eq (by simp) (by simp) (by simp) (by simp)⟩
    | some l => exact ⟨_, rfl, by simp, by simp, .of_eq (by simp) (by simp) (by simp) (by simp)⟩
  have handles : v.queueHandles = s.queueHandles := congrArg (List.map QueueEntry.handle) queue
  have nodup : v.queueHandles.Nodup := handles ▸ h.marked.nodup_queued
  have attended : v.Attended x :=
    h.attended.congr same (.of_eq (State.waiting_congr queue (State.running_congr units)))
  refine ⟨?_, ?_⟩
  · refine ((h.marked.free idle (if s.generation n = 255 then 1 else s.generation n + 1)).congr
      (u := (s.retire n r).table) (by rw [State.retire_table]) (by rw [State.retire_table])).perm ?_ ?_
    · rw [hv, State.queueHandles, State.freeSlot_queue, ← State.queueHandles, State.dropEntryOn_queueHandles nodup, handles]
      rfl
    · rw [State.jobHandles, State.running_congr (t := s.retire n r) (s := s) (by simp)]
      rfl
  · rw [hv]
    exact (State.dropEntryOn_attended attended nodup (s.handleAt n) .noRecord).congr (.of_eq rfl rfl rfl rfl) (.refl _)

end State.InStep

end Sys2Proof.Machine
end

section
/-! SUPPORT. The commands' own operations on entries, jobs, links and contexts keep the laws of the queue, the marks, the
links and the contexts. -/
namespace Sys2Proof.Machine

variable {s t : State} {x : Option Requester}

/-! ### A requester's entry -/

theorem State.entryOf_some {q : Requester} {e : QueueEntry} (he : s.entryOf q = some e) :
    e ∈ s.queue ∧ e.requester = q :=
  ⟨List.mem_of_find?_eq_some he, by simpa using List.find?_some he⟩

/-- A requester's entry, and those of the others. -/
theorem State.Attended.queue_perm (h : s.Attended x) {e : QueueEntry} (he : e ∈ s.queue) :
    s.queue.Perm (e :: s.queue.filter fun y => y.requester != e.requester) :=
  perm_cons_filter (f := QueueEntry.requester)
    ((List.nodup_append.1 (State.waiting_eq s ▸ h.nodup)).1) he

theorem State.queueHandles_of_perm {e : QueueEntry} (hq : s.queue.Perm (e :: t.queue)) :
    t.queueHandles.Perm (s.queueHandles.erase e.handle) := map_perm_erase hq

theorem State.removeEntryOf_some {q : Requester} {e : QueueEntry} {r : Rec} (he : s.entryOf q = some e)
    (hr : s.record e.handle.slot = some r) : s.removeEntryOf q =
      State.putRecord { s with queue := s.queue.filter fun y => y.requester != q } e.handle.slot
        { r with queued := false } := by
  have here : State.record { s with queue := s.queue.filter fun y => y.requester != q } e.handle.slot = some r := hr
  simp only [State.removeEntryOf, he, State.markQueued, here]

theorem State.removeEntryOf_agreesBut (s : State) (q : Requester) : State.AgreesBut none s (s.removeEntryOf q) :=
  .of_eq (by simp) (by simp) (by simp) (by simp)

namespace State.InStep

/-- The entry of a requester goes with its mark. -/
theorem removeEntryOf_marked (h : s.InStep x) (q : Requester) :
    (s.removeEntryOf q).table.Marked (s.removeEntryOf q).queueHandles (s.removeEntryOf q).jobHandles := by
  cases he : s.entryOf q with
  | none => simpa only [State.removeEntryOf, he] using h.marked
  | some e =>
    obtain ⟨mem, rfl⟩ := State.entryOf_some he
    obtain ⟨handle, r, hr⟩ := h.record_of_entry mem
    rw [State.removeEntryOf_some he hr]
    refine (h.marked.unqueue hr).perm ?_ (.refl _)
    rw [handle]
    exact State.queueHandles_of_perm (h.attended.queue_perm mem)

/-- Those that wait with the entry's requester, and without it. -/
theorem removeEntryOf_waiting (h : s.InStep x) {q : Requester} {e : QueueEntry} (he : s.entryOf q = some e) :
    s.waiting.Perm (q :: (s.removeEntryOf q).waiting) := by
  obtain ⟨mem, rfl⟩ := State.entryOf_some he
  obtain ⟨-, r, hr⟩ := h.record_of_entry mem
  rw [State.removeEntryOf_some he hr]
  exact State.waiting_of_entry (h.attended.queue_perm mem) rfl

/-- A requester's entry goes and the requester is answered. -/
theorem withdraw (h : s.InStep x) {q : Requester} {e : QueueEntry} (he : s.entryOf q = some e) (a : Answer) :
    ((s.removeEntryOf q).answerRequester q a).InStep x := by
  refine ⟨?_, h.attended.answerRequester (s.removeEntryOf_agreesBut q) (h.removeEntryOf_waiting he) a⟩
  rw [State.answerRequester_table, State.queueHandles, State.answerRequester_queue, State.jobHandles,
    State.running_congr (State.answerRequester_units _ _ _)]
  exact h.removeEntryOf_marked q

/-! ### Jobs started, discarded and ended -/

/-- A unit's job takes other working values, or is discarded: the handles stay. -/
theorem jobHandles_setUnit {u : UnitNo} {j k : Job} (hu : s.unit u = some j) (he : k.entry = j.entry) :
    (s.setUnit u (some k)).jobHandles.Perm s.jobHandles := by
  have before := (State.running_perm hu).map (·.1.handle)
  have after := (State.running_perm (State.unit_setUnit s u (some k))).map (·.1.handle)
  have empty : (s.setUnit u (some k)).setUnit u none = s.setUnit u none := by simp [State.setUnit]
  rw [empty] at after
  refine after.trans (.trans (.of_eq ?_) before.symm)
  simp [he]

theorem discardJobOf_eq {u : UnitNo} {j : Job} {q : Requester} (hu : s.runningOf q = some u) (hj : s.unit u = some j) :
    s.discardJobOf q = s.setUnit u (some { j with discarded := true }) := by
  simp only [State.discardJobOf, hu, hj, Option.map_some]

theorem runningOf_some {u : UnitNo} {q : Requester} (hu : s.runningOf q = some u) :
    ∃ j, s.unit u = some j ∧ j.entry.requester = q ∧ j.discarded = false := by
  have found := List.find?_some hu
  simp only [Option.any_eq_true, Bool.and_eq_true, beq_iff_eq, Bool.not_eq_true'] at found
  exact found

theorem runningOf_none {q : Requester} (hu : s.runningOf q = none) {u : UnitNo} {j : Job} (hj : s.unit u = some j)
    (hd : j.discarded = false) : j.entry.requester ≠ q := by
  have absent := List.find?_eq_none.1 hu u (by fin_cases u <;> simp)
  simpa [hj, hd] using absent

theorem discardJobOf_marked (h : s.table.Marked s.queueHandles s.jobHandles) (q : Requester) :
    (s.discardJobOf q).table.Marked (s.discardJobOf q).queueHandles (s.discardJobOf q).jobHandles := by
  cases hu : s.runningOf q with
  | none => simpa only [State.discardJobOf, hu] using h
  | some u =>
    obtain ⟨j, hj, -⟩ := runningOf_some hu
    rw [discardJobOf_eq hu hj]
    exact h.perm (.refl _) (jobHandles_setUnit hj rfl)

theorem discardJobOf_waiting {q : Requester} {u : UnitNo} (hu : s.runningOf q = some u) :
    s.waiting.Perm (q :: (s.discardJobOf q).waiting) := by
  obtain ⟨j, hj, rfl, hd⟩ := runningOf_some hu
  rw [discardJobOf_eq hu hj]
  have empty : (s.setUnit u (some { j with discarded := true })).setUnit u none = s.setUnit u none := by
    simp [State.setUnit]
  have dropped : (s.setUnit u none).waiting.Perm (s.setUnit u (some { j with discarded := true })).waiting :=
    State.waiting_of_discarded rfl (congrArg State.running empty.symm) (State.unit_setUnit s u _) rfl
  exact (State.waiting_of_unit (s := s) (t := s.setUnit u none) rfl rfl hj hd).trans (dropped.cons _)

/-- After the removal of a requester's entry and the discard of its job it no longer waits, and the others do. -/
theorem waiting_removed (h : s.InStep x) (q : Requester) :
    ((s.removeEntryOf q).discardJobOf q).waiting.Nodup ∧
      ∀ c, c ∈ ((s.removeEntryOf q).discardJobOf q).waiting ↔ c ∈ s.waiting ∧ c ≠ q := by
  have first : (s.removeEntryOf q).waiting.Nodup ∧ (∀ c, c ≠ q → (c ∈ (s.removeEntryOf q).waiting ↔ c ∈ s.waiting)) ∧
      ∀ e ∈ (s.removeEntryOf q).queue, e.requester ≠ q := by
    cases he : s.entryOf q with
    | none =>
      have absent : ∀ e ∈ s.queue, e.requester ≠ q := fun e hm => by simpa using List.find?_eq_none.1 he e hm
      rw [show s.removeEntryOf q = s by simp only [State.removeEntryOf, he]]
      exact ⟨h.attended.nodup, fun _ _ => .rfl, absent⟩
    | some e =>
      obtain ⟨nodup, -, others⟩ := mem_iff_of_perm_cons (h.removeEntryOf_waiting he) h.attended.nodup
      obtain ⟨mem, rfl⟩ := State.entryOf_some he
      obtain ⟨-, r, hr⟩ := h.record_of_entry mem
      refine ⟨nodup, fun c hc => by simp [others, hc], fun y hy => ?_⟩
      rw [State.removeEntryOf_some he hr, State.putRecord_queue, List.mem_filter] at hy
      simpa using hy.2
  generalize s.removeEntryOf q = t at first
  obtain ⟨nodup, others, entries⟩ := first
  cases hu : t.runningOf q with
  | some u =>
    obtain ⟨nodup', -, others'⟩ := mem_iff_of_perm_cons (discardJobOf_waiting hu) nodup
    exact ⟨nodup', fun c => (others' c).trans ⟨fun ⟨hc, hn⟩ => ⟨(others c hn).1 hc, hn⟩,
      fun ⟨hc, hn⟩ => ⟨(others c hn).2 hc, hn⟩⟩⟩
  | none =>
    have gone : q ∉ t.waiting := fun hq => by
      obtain ⟨e, he, hr⟩ | ⟨u, j, hj, hd, hr⟩ := State.mem_waiting.1 hq
      · exact entries e he hr
      · exact runningOf_none hu hj hd hr
    simp only [State.discardJobOf, hu]
    refine ⟨nodup, fun c => ⟨fun hc => ?_, fun ⟨hc, hn⟩ => (others c hn).2 hc⟩⟩
    have hn : c ≠ q := by
      rintro rfl
      exact gone hc
    exact ⟨(others c hn).1 hc, hn⟩

/-- A position is taken out of what it waits for and closed, its request answered (R120). -/
theorem resetPosition (h : s.InStep none) (p : PositionNo) (a : Answer) :
    ((((s.removeEntryOf (.position p)).discardJobOf (.position p)).answer (.position p) a).setCtx p .closed).InStep
      none := by
  have marked := discardJobOf_marked (h.removeEntryOf_marked (.position p)) (.position p)
  obtain ⟨nodup, others⟩ := h.waiting_removed (.position p)
  have same : State.AgreesBut (some (.position p)) s
      ((s.removeEntryOf (.position p)).discardJobOf (.position p)) :=
    .of_eq (by simp) (by simp) (by simp) (by simp)
  generalize (s.removeEntryOf (.position p)).discardJobOf (.position p) = t at marked nodup others same
  have waiting : ((t.answer (.position p) a).setCtx p .closed).waiting = t.waiting :=
    State.waiting_congr (by simp) (State.running_congr (by simp))
  have away := (same.trans (t.answer_agreesBut (.position p) a)).trans (State.setCtx_agreesBut _ p .closed)
  refine ⟨?_, waiting ▸ nodup, waiting ▸ h.attended.requested.at away (fun c hc => ⟨by simp [others, hc], .rfl⟩) ?_ ?_ nofun⟩
  · rw [State.queueHandles, State.setCtx_queue, State.answer_queue, State.jobHandles,
      State.running_congr (t := (t.answer (.position p) a).setCtx p .closed) (s := t) (by simp), State.setCtx_table,
      State.answer_table]
    exact marked
  · simp [others, State.awaits, Context.isWorking]
  · have free := t.answer_outstanding (.position p) a
    simp [State.holds, Context.holdsRequest, Requester.link, State.link] at free ⊢
    simpa [State.link] using free

end State.InStep

end Sys2Proof.Machine
end

section
/-! SUPPORT. Grants, completions, new entries, failing reads of bank entries, the soft reset, the links and the contexts keep
the laws of the queue, the marks, the links and the contexts. -/
namespace Sys2Proof.Machine

variable {s t : State} {x : Option Requester} {u : UnitNo} {j : Job}

namespace State.InStep

/-! ### Jobs started and ended -/

/-- A grant: the entry becomes a job (R71). -/
theorem granted (h : s.InStep x) {e : QueueEntry} {r : Rec} (l : BankLetter) (edition : Nat) (values : JobValues)
    (hu : s.unit u = none) (he : e ∈ s.queue) : (s.granted e u l edition values r).InStep x := by
  obtain ⟨handle, -⟩ := h.record_of_entry he
  have queue : s.queue.Perm (e :: (s.granted e u l edition values r).queue) := by
    rw [State.granted_queue]
    exact h.attended.queue_perm he
  have emptied : ((s.granted e u l edition values r).setUnit u none).units = s.units := by
    have none_here : s.units.set u.val none u.isLt = s.units := by
      have := set_get_same s.units u
      rwa [show s.units.get u = none from hu] at this
    rw [State.setUnit_units, State.granted, State.takePin_units]
    simp [none_here]
  have started : (s.granted e u l edition values r).running.Perm ((e, false) :: s.running) := by
    have := State.running_perm (s.granted_unit (x := e) (u := u) (l := l) (r := r) edition values)
    rwa [State.running_congr emptied] at this
  have waiting : (s.granted e u l edition values r).waiting.Perm s.waiting := by
    rw [State.waiting_eq, State.waiting_eq]
    refine (List.Perm.append_left _ ((started.filter _).map _)).trans ?_
    refine .trans ?_ ((queue.map _).append_right _).symm
    simp
  refine ⟨?_, h.attended.congr (.of_eq (by simp [State.granted]) (by simp [State.granted]) (by simp [State.granted])
    (by simp [State.granted])) waiting⟩
  have mem : s.table.handleAt e.handle.slot ∈ s.queueHandles := by
    rw [handle]
    exact List.mem_map.2 ⟨e, he, rfl⟩
  refine ((h.marked.start (r := r) mem).congr (by simp [State.granted]; rfl) (by simp [State.granted]; rfl)).perm ?_ ?_
  · rw [handle]
    exact State.queueHandles_of_perm queue
  · rw [handle]
    exact started.map _

/-- The end of a job: its mark and its unit are cleared. -/
theorem endJob_marked (h : s.InStep x) {k : Job} (hu : s.unit u = some k) (he : k.entry = j.entry) :
    (s.endJob u j).table.Marked (s.endJob u j).queueHandles (s.endJob u j).jobHandles := by
  obtain ⟨handle, r, hr⟩ := h.record_of_unit hu
  have here : (s.releasePin j.bank).record j.entry.handle.slot = some r := by
    rw [State.record, State.releasePin_table, ← he]
    exact hr
  have ended : s.endJob u j =
      ((s.releasePin j.bank).putRecord j.entry.handle.slot { r with busy := false }).setUnit u none := by
    simp only [State.endJob, State.markBusy, here]
  rw [ended]
  refine ((h.marked.unbusy hr).congr (by rw [he]; simp [State.putRecord]) (by simp [State.putRecord])).perm ?_ ?_
  · simp [State.queueHandles]
  · rw [handle]
    refine State.jobHandles_of_unit (State.running_congr ?_) hu
    simp

theorem endJob_agreesBut (s : State) (u : UnitNo) (j : Job) : State.AgreesBut none s (s.endJob u j) :=
  .of_eq (by simp) (by simp) (by simp) (by simp)

theorem endJob_running (s : State) (u : UnitNo) (j : Job) : (s.endJob u j).running = (s.setUnit u none).running :=
  State.running_congr (by simp [State.endJob])

/-- A discarded job ends. -/
theorem dropResult (h : s.InStep x) {k : Job} (hu : s.unit u = some k) (he : k.entry = j.entry)
    (hd : k.discarded = true) : (s.endJob u j).InStep x :=
  ⟨h.endJob_marked hu he, h.attended.congr (endJob_agreesBut s u j)
    (State.waiting_of_discarded (by simp) (endJob_running s u j) hu hd)⟩

theorem endJob_waiting {k : Job} (hu : s.unit u = some k) (he : k.entry = j.entry) (hd : k.discarded = false) :
    s.waiting.Perm (j.entry.requester :: (s.endJob u j).waiting) :=
  he ▸ State.waiting_of_unit (by simp) (endJob_running s u j) hu hd

/-- A job ends and its requester is answered. -/
theorem finish (h : s.InStep x) {k : Job} (hu : s.unit u = some k) (he : k.entry = j.entry)
    (hd : k.discarded = false) (a : Answer) : ((s.endJob u j).answerRequester j.entry.requester a).InStep x := by
  refine ⟨?_, h.attended.answerRequester (endJob_agreesBut s u j) (endJob_waiting hu he hd) a⟩
  rw [State.answerRequester_table, State.queueHandles, State.answerRequester_queue, State.jobHandles,
    State.running_congr (State.answerRequester_units _ _ _)]
  exact h.endJob_marked hu he

/-- A job ends and its request is held on. -/
theorem park (h : s.InStep x) {k : Job} {p : PositionNo} {c : Context} (hu : s.unit u = some k)
    (he : k.entry = j.entry) (hd : k.discarded = false) (hp : j.entry.requester = .position p)
    (hn : c.isWorking = false) (hh : c.holdsRequest = true) : ((s.endJob u j).setCtx p c).InStep x := by
  have waits := endJob_waiting hu he hd
  rw [hp] at waits
  obtain ⟨nodup, mem, others⟩ := mem_iff_of_perm_cons waits h.attended.nodup
  exact ⟨h.endJob_marked hu he,
    nodup, (h.attended.requested.congr (endJob_agreesBut s u j) fun _ => .rfl).park mem hn hh others⟩

/-! ### New entries -/

/-- The table and the handles with a new entry on an unmarked record. -/
theorem join_marked (m : s.table.Marked s.queueHandles s.jobHandles) {e : QueueEntry} {r : Rec}
    (hf : s.find e.handle = some r) (hq : r.queued = false) (hb : r.busy = false) :
    (s.join e).table.Marked (s.join e).queueHandles (s.join e).jobHandles := by
  have hr := State.record_of_find hf
  have here : State.record { s with queue := s.queue ++ [e] } e.handle.slot = some r := hr
  have joined : s.join e =
      State.putRecord { s with queue := s.queue ++ [e] } e.handle.slot { r with queued := true } := by
    simp only [State.join, State.markQueued, here]
  have handle : s.table.handleAt e.handle.slot = e.handle := s.handleAt_of_find hf
  rw [joined]
  refine (m.enqueue hr hq hb).perm (.of_eq ?_) (.refl _)
  rw [handle]
  simp [State.queueHandles]

theorem join_waiting (s : State) (e : QueueEntry) : (s.join e).waiting.Perm (e.requester :: s.waiting) := by
  rw [State.waiting_eq, State.waiting_eq, State.running_congr (State.join_units s e),
    show (s.join e).queue = s.queue ++ [e] by simp [State.join]]
  simp

/-- A position's request joins the queue. -/
theorem joinPosition {p : PositionNo} (h : s.InStep (some (.position p))) {e : QueueEntry} {r : Rec} {c : Context}
    (hp : e.requester = .position p) (hf : s.find e.handle = some r) (hq : r.queued = false) (hb : r.busy = false)
    (hw : c.isWorking = true) (hh : c.holdsRequest = true) : ((s.join e).setCtx p c).InStep none := by
  have waits := join_waiting s e
  rw [hp] at waits
  have idle : Requester.position p ∉ s.waiting := fun hm => by
    have := h.attended.requested.asks _ rfl
    rw [State.holds_of_awaits ((h.attended.requested.waits _).1 hm)] at this
    cases this
  have same : State.AgreesBut none s (s.join e) := .of_eq (by simp) (by simp) (by simp) (by simp)
  refine ⟨join_marked h.marked hf hq hb, waits.nodup_iff.2 (List.nodup_cons.2 ⟨idle, h.attended.nodup⟩),
    (h.attended.requested.congr same fun _ => .rfl).take hh ?_ fun k hk => ?_⟩
  · exact iff_of_true (waits.symm.subset (List.mem_cons_self ..)) hw
  · exact (waits.mem_iff (a := k)).trans (by simp [hk])

/-- A re-rating joins the queue with its pending reweigh. -/
theorem joinDispatch (h : s.InStep (some .dispatch)) {e : QueueEntry} {r : Rec} (pr : PendingReweigh)
    (hp : e.requester = .dispatch) (hf : s.find e.handle = some r) (hq : r.queued = false) (hb : r.busy = false) :
    (State.join { s with pendingReweigh := some pr } e).InStep none := by
  have waits := join_waiting { s with pendingReweigh := some pr } e
  rw [hp, State.waiting_congr (s := s) (t := { s with pendingReweigh := some pr }) rfl rfl] at waits
  have idle : Requester.dispatch ∉ s.waiting := fun hm => by
    have := h.attended.requested.asks _ rfl
    rw [State.holds_of_awaits ((h.attended.requested.waits _).1 hm)] at this
    cases this
  have held := (h.attended.requested.held .dispatch).2 (.inr rfl)
  have same : State.AgreesBut (some .dispatch) s (State.join { s with pendingReweigh := some pr } e) := by
    refine ⟨fun c hc => ?_, fun c hc => ?_, fun c hc => ?_⟩ <;> cases c <;>
      first | exact absurd rfl hc | simp [State.awaits, State.holds, State.ctx, State.link, Requester.link]
  refine ⟨join_marked (s := { s with pendingReweigh := some pr }) h.marked hf hq hb, ?_⟩
  · refine ⟨waits.nodup_iff.2 (List.nodup_cons.2 ⟨idle, h.attended.nodup⟩),
      h.attended.requested.at same (fun c hc => ⟨(waits.mem_iff (a := c)).trans (by simp [hc]), by simp [hc.symm]⟩) ?_ ?_
        nofun⟩
    · exact iff_of_true (waits.symm.subset (List.mem_cons_self ..)) (by simp [State.awaits])
    · exact iff_of_true (by simpa [State.link, Requester.link] using held) (.inl (by simp [State.holds]))

/-! ### Failing reads of bank entries -/

/-- The jobs that read on keep their entries (R47). -/
theorem failBankEntry_running (s : State) (l : BankLetter) (e : BankEntry) (reader : Reader) (own : Option UnitNo) :
    (s.failBankEntry l e reader own).running = s.running := by
  refine State.running_eq_of_unit fun w => ?_
  rw [State.failBankEntry_unit]
  obtain ⟨seen, hs⟩ := s.jobsReadOn_unit l e own w
  rw [hs]
  cases s.unit w <;> rfl

theorem failBankEntry (h : s.InStep x) (l : BankLetter) (e : BankEntry) (reader : Reader) (own : Option UnitNo) :
    (s.failBankEntry l e reader own).InStep x :=
  h.congr (by simp) (by simp) (by simp) (failBankEntry_running s l e reader own)
    (.of_eq (by simp) (by simp) (by simp) (by simp))

theorem jobReadFails (h : s.InStep x) (hu : s.unit u = some j) (e : BankEntry) (f : FaultReport) :
    (s.jobReadFails u j e f).InStep x := by
  refine h.congr (by simp) (by simp) (by simp) (State.running_eq_of_unit fun w => ?_)
    (.of_eq (by simp) (by simp) (by simp) (by simp))
  by_cases hw : u = w
  · subst hw
    rw [State.jobReadFails_unit, hu]
    rfl
  · rw [State.jobReadFails, State.unit_setUnit_other _ u w _ hw, State.failBankEntry_unit]
    obtain ⟨seen, hs⟩ := s.jobsReadOn_unit j.bank e (some u) w
    rw [hs]
    cases s.unit w <;> rfl

/-! ### Links and contexts -/

theorem hold (h : s.InStep none) {l : Link} (k : Kind) (g : Tag) (ho : (s.link l).outstanding = none) :
    (s.hold l k g).InStep (asker l) := by
  have waiting : (s.hold l k g).waiting = s.waiting :=
    State.waiting_congr (by simp) (State.running_congr (by simp))
  refine ⟨?_, waiting ▸ h.attended.nodup, waiting ▸ h.attended.requested.hold k g ho⟩
  have := h.marked
  rwa [State.queueHandles, State.jobHandles, ← State.hold_queue s l k g,
    ← State.running_congr (State.hold_units s l k g), ← State.hold_table s l k g] at this

theorem answer {l : Link} (h : s.InStep (asker l)) (a : Answer) : (s.answer l a).InStep none := by
  have waiting : (s.answer l a).waiting = s.waiting :=
    State.waiting_congr (by simp) (State.running_congr (by simp))
  refine ⟨?_, waiting ▸ h.attended.nodup, waiting ▸ h.attended.requested.answer a⟩
  have := h.marked
  rwa [State.queueHandles, State.jobHandles, ← State.answer_queue s l a,
    ← State.running_congr (State.answer_units s l a), ← State.answer_table s l a] at this

/-- A context changes, its position standing as it did. -/
theorem setCtx (h : s.InStep x) {p : PositionNo} {c : Context} (hw : c.isWorking = (s.ctx p).isWorking)
    (hh : c.holdsRequest = (s.ctx p).holdsRequest) : (s.setCtx p c).InStep x :=
  ⟨h.marked, h.attended.nodup, h.attended.requested.setCtx hw hh⟩

/-- A request looked at is escalated. -/
theorem escalate {p : PositionNo} (h : s.InStep (some (.position p))) {c : Context} (hw : c.isWorking = false)
    (hh : c.holdsRequest = true) : (s.setCtx p c).InStep none := by
  have idle : Requester.position p ∉ s.waiting := fun hm => by
    have := h.attended.requested.asks _ rfl
    rw [State.holds_of_awaits ((h.attended.requested.waits _).1 hm)] at this
    cases this
  exact ⟨h.marked, h.attended.nodup, h.attended.requested.take hh (iff_of_false idle (by simp [hw])) fun _ _ => .rfl⟩

/-- A request that is held without waiting is answered. -/
theorem endEscalation (h : s.InStep x) {p : PositionNo} (session : Session) (a : Answer)
    (hw : (s.ctx p).isWorking = false) (hh : (s.ctx p).holdsRequest = true) :
    (s.endEscalation p session a).InStep x := by
  have waiting : (s.endEscalation p session a).waiting = s.waiting :=
    State.waiting_congr (by simp) (State.running_congr (by simp))
  refine ⟨?_, waiting ▸ h.attended.nodup, waiting ▸ h.attended.requested.endEscalation session a hh fun c => ?_⟩
  · have := h.marked
    rwa [State.queueHandles, State.jobHandles, ← State.endEscalation_queue s p session a,
      ← State.running_congr (State.endEscalation_units s p session a), ← State.endEscalation_table s p session a] at this
  · refine ⟨fun hc => ⟨hc, ?_⟩, And.left⟩
    rintro rfl
    have := (h.attended.requested.waits _).1 hc
    rw [State.awaits, hw] at this
    cases this

end State.InStep

end Sys2Proof.Machine
end

section
/-! SUPPORT. The soft reset, the tick and the hard reset keep the laws of the queue, the marks, the links and the contexts. -/
namespace Sys2Proof.Machine

variable {s t : State} {x : Option Requester} {w w' : List Requester}

/-! ### The soft reset (R76, R135, R164) -/

/-- A position with an entry waits. -/
theorem State.mem_waiting_of_entryOf {q : Requester} (h : (s.entryOf q).isSome = true) : q ∈ s.waiting := by
  obtain ⟨e, he⟩ := Option.isSome_iff_exists.1 h
  obtain ⟨mem, hq⟩ := State.entryOf_some he
  exact State.mem_waiting.2 (.inl ⟨e, mem, hq⟩)

theorem State.entryOf_congr (h : t.queue = s.queue) (q : Requester) : t.entryOf q = s.entryOf q := by
  rw [State.entryOf, State.entryOf, h]

/-- A position under a soft reset: it no longer waits where it has an entry. -/
theorem State.Requested.softResetPosition (r : s.Requested w none) (p : PositionNo)
    (hw : ∀ c, c ∈ w' ↔ c ∈ w ∧ ¬ (c = .position p ∧ (s.entryOf c).isSome = true)) :
    (s.softResetPosition p).Requested w' none := by
  have waits := r.waits (.position p)
  have stay (h : (s.ctx p).isWorking = false ∨ (s.entryOf (.position p)).isSome = false) (c : Requester) :
      c ∈ w' ↔ c ∈ w := by
    refine (hw c).trans ⟨And.left, fun hc => ⟨hc, ?_⟩⟩
    rintro ⟨rfl, he⟩
    rcases h with h | h
    · have := waits.1 hc
      rw [State.awaits, h] at this
      cases this
    · rw [h] at he
      cases he
  have drop (h : (s.ctx p).isWorking = false ∨ (s.entryOf (.position p)).isSome = true) (c : Requester) :
      c ∈ w' ↔ c ∈ w ∧ c ≠ .position p := by
    rw [hw c]
    refine and_congr_right fun hc => ⟨?_, fun hn he => hn he.1⟩
    rintro hn rfl
    refine hn ⟨rfl, h.resolve_left fun hi => ?_⟩
    have := waits.1 hc
    rw [State.awaits, hi] at this
    cases this
  have same {v : State} (hv : v.Requested w none) (h : (s.ctx p).isWorking = false ∨
      (s.entryOf (.position p)).isSome = false) : v.Requested w' none :=
    hv.congr (.of_eq rfl rfl rfl rfl) (stay h)
  unfold State.softResetPosition
  cases hc : s.ctx p with
  | closed => exact same r (.inl (by rw [hc]; rfl))
  | opened session res => exact same (r.setCtx (by rw [hc]; rfl) (by rw [hc]; rfl)) (.inl (by rw [hc]; rfl))
  | working session pend res request =>
    cases he : (s.entryOf (.position p)).isSome with
    | true => exact r.endEscalation session .reset (by rw [hc]; rfl) (drop (.inr he))
    | false => exact same (r.setCtx (by rw [hc]; rfl) (by rw [hc]; rfl)) (.inr he)
  | escalated session slot =>
    exact r.endEscalation session .reset (by rw [hc]; rfl) (drop (.inl (by rw [hc]; rfl)))
  | suspended session saved =>
    cases saved with
    | opened => exact same (r.setCtx (by rw [hc]; rfl) (by rw [hc]; rfl)) (.inl (by rw [hc]; rfl))
    | escalated slot => exact r.endEscalation session .reset (by rw [hc]; rfl) (drop (.inl (by rw [hc]; rfl)))

@[simp] theorem State.softResetPosition_queue (s : State) (p : PositionNo) :
    (s.softResetPosition p).queue = s.queue := by
  unfold State.softResetPosition
  (repeat' split) <;> simp

@[simp] theorem State.softResetPosition_units (s : State) (p : PositionNo) :
    (s.softResetPosition p).units = s.units := by
  unfold State.softResetPosition
  (repeat' split) <;> simp

/-- All positions under a soft reset. -/
theorem State.Requested.softResetPositions (ps : List PositionNo) (r : s.Requested w none) :
    ∃ w', (ps.foldl State.softResetPosition s).Requested w' none ∧
      (∀ c, c ∈ w' ↔ c ∈ w ∧ ¬ ((∃ p ∈ ps, c = .position p) ∧ (s.entryOf c).isSome = true)) := by
  induction ps generalizing s w with
  | nil => exact ⟨w, r, by simp⟩
  | cons p rest ih =>
    obtain ⟨w', hw', others⟩ := ih (r.softResetPosition p (w' := w.filter fun c =>
      !(decide (c = .position p) && (s.entryOf c).isSome)) fun c => by
        simp [List.mem_filter, imp_iff_not_or])
    refine ⟨w', hw', fun c => ?_⟩
    rw [others, State.entryOf_congr (State.softResetPosition_queue s p)]
    simp only [List.mem_filter, List.mem_cons, Bool.not_eq_true', Bool.and_eq_false_iff, decide_eq_false_iff_not]
    grind

@[simp] theorem State.softResetDispatch_queue (s : State) : s.softResetDispatch.queue = s.queue := by
  unfold State.softResetDispatch
  split <;> simp

@[simp] theorem State.softResetDispatch_units (s : State) : s.softResetDispatch.units = s.units := by
  unfold State.softResetDispatch
  split <;> simp

theorem foldl_softResetPosition_frame (ps : List PositionNo) (s : State) :
    (ps.foldl State.softResetPosition s).queue = s.queue ∧ (ps.foldl State.softResetPosition s).units = s.units ∧
      (ps.foldl State.softResetPosition s).table = s.table := by
  induction ps generalizing s with
  | nil => exact ⟨rfl, rfl, rfl⟩
  | cons p rest ih =>
    obtain ⟨queue, units, table⟩ := ih (s.softResetPosition p)
    exact ⟨queue.trans (by simp), units.trans (by simp), table.trans (by simp)⟩

/-- The positions and dispatch under a soft reset: those that still wait have no entry. -/
theorem State.Requested.softReset (r : s.Requested s.waiting none) :
    ∃ w', ((List.finRange 24).foldl State.softResetPosition s).softResetDispatch.Requested w' none ∧
      ∀ c, c ∈ w' ↔ c ∈ s.waiting ∧ (s.entryOf c).isSome = false := by
  obtain ⟨w', r', others⟩ := r.softResetPositions (List.finRange 24)
  have queue := (foldl_softResetPosition_frame (List.finRange 24) s).1
  generalize (List.finRange 24).foldl State.softResetPosition s = t at r' queue
  have entry : t.entryOf .dispatch = s.entryOf .dispatch := State.entryOf_congr queue .dispatch
  unfold State.softResetDispatch
  rw [entry]
  cases he : (s.entryOf .dispatch).isSome with
  | true =>
    have waits := (others .dispatch).2 ⟨State.mem_waiting_of_entryOf he, by simp⟩
    refine ⟨w'.filter fun c => c != .dispatch, r'.answerRequester .reset waits fun c => by simp [List.mem_filter],
      fun c => ?_⟩
    rw [List.mem_filter, others]
    cases c with
    | position p => simp
    | dispatch => simp [he]
  | false =>
    refine ⟨w', r', fun c => ?_⟩
    rw [others]
    cases c with
    | position p => simp
    | dispatch => simp [he]

/-- The marks of the entries, cleared one by one. -/
theorem markQueuedEach_marked {l : List QueueEntry} {queued jobs : List Handle}
    (m : s.table.Marked (l.map (·.handle) ++ queued) jobs) :
    (l.foldl (fun t e => t.markQueued e.handle.slot false) s).table.Marked queued jobs := by
  induction l generalizing s with
  | nil => exact m
  | cons e rest ih =>
    obtain ⟨handle, r, hr⟩ := m.live e.handle (by simp)
    have cleared := m.unqueue hr
    rw [handle, List.map_cons, List.cons_append, List.erase_cons_head] at cleared
    have marked : s.markQueued e.handle.slot false = s.putRecord e.handle.slot { r with queued := false } := by
      have hr : s.record e.handle.slot = some r := hr
      simp only [State.markQueued, hr]
    rw [List.foldl_cons, marked]
    exact ih cleared

theorem markQueuedEach_frame (l : List QueueEntry) (s : State) :
    (l.foldl (fun t e => t.markQueued e.handle.slot false) s).units = s.units ∧
      State.AgreesBut none s (l.foldl (fun t e => t.markQueued e.handle.slot false) s) := by
  induction l generalizing s with
  | nil => exact ⟨rfl, .of_eq rfl rfl rfl rfl⟩
  | cons e rest ih =>
    obtain ⟨units, same⟩ := ih (s.markQueued e.handle.slot false)
    exact ⟨units.trans (by simp), .trans (.of_eq (by simp) (by simp) (by simp) (by simp)) same⟩

namespace State.InStep

/-- The queue under a soft reset, where the requesters with an entry no longer wait (R76). -/
theorem softResetQueue (marked : s.table.Marked s.queueHandles s.jobHandles) (requested : s.Requested w none)
    (nodup : ((s.running.filter fun y => !y.2).map (·.1.requester)).Nodup)
    (hw : ∀ c, c ∈ (s.running.filter fun y => !y.2).map (·.1.requester) ↔ c ∈ w) :
    s.softResetQueue.InStep none := by
  obtain ⟨units, same⟩ := markQueuedEach_frame s.queue s
  have cleared := markQueuedEach_marked (s := s) (l := s.queue) (queued := []) (jobs := s.jobHandles)
    (by rw [List.append_nil]; exact marked)
  unfold State.softResetQueue
  generalize s.queue.foldl (fun t e => t.markQueued e.handle.slot false) s = d at units same cleared
  have running : State.running { d with queue := [] } = s.running := State.running_congr units
  have waiting : State.waiting { d with queue := [] } = (s.running.filter fun y => !y.2).map (·.1.requester) := by
    rw [State.waiting_eq, running]
    rfl
  refine ⟨?_, waiting ▸ nodup, waiting ▸ requested.congr (same.trans (.of_eq rfl rfl rfl rfl)) hw⟩
  show d.table.Marked [] (State.running { d with queue := [] } |>.map (·.1.handle))
  rw [running]
  exact cleared

/-- A soft reset when it is taken (R197). -/
theorem beginDrain (h : s.InStep none) : s.beginDrain.InStep none := by
  obtain ⟨w', requested, others⟩ := h.attended.requested.softReset
  obtain ⟨queue, units, table⟩ := foldl_softResetPosition_frame (List.finRange 24) s
  unfold State.beginDrain
  generalize (List.finRange 24).foldl State.softResetPosition s = v at requested queue units table
  have running : v.softResetDispatch.running = s.running :=
    State.running_congr ((State.softResetDispatch_units v).trans units)
  have parts := h.attended.nodup
  rw [State.waiting_eq, List.nodup_append] at parts
  obtain ⟨-, nodup, apart⟩ := parts
  refine (softResetQueue (s := v.softResetDispatch) ?_ requested (by rw [running]; exact nodup) fun c => ?_).congr
    rfl rfl rfl rfl (.of_eq rfl rfl rfl rfl)
  · have queueHandles : v.softResetDispatch.queueHandles = s.queueHandles := by
      rw [State.queueHandles, State.softResetDispatch_queue, queue]
      rfl
    have table : v.softResetDispatch.table = s.table := by rw [State.softResetDispatch_table, table]
    have jobHandles : v.softResetDispatch.jobHandles = s.jobHandles := by
      rw [State.jobHandles, running]
      rfl
    rw [table, queueHandles, jobHandles]
    exact h.marked
  · have entry : (s.entryOf c).isSome = true ↔ c ∈ s.queue.map (·.requester) := by
      simp [State.entryOf, List.find?_isSome]
    rw [running, others, State.waiting_eq, List.mem_append, ← Bool.not_eq_true, entry]
    exact ⟨fun hc => ⟨.inr hc, fun hm => apart c hm c hc rfl⟩, fun ⟨hc, hn⟩ => hc.resolve_left hn⟩

/-! ### Time and reset -/

/-- A second passes (R192). -/
theorem countDown (h : s.InStep x) : s.countDown.InStep x := by
  unfold State.countDown
  split
  · exact h
  · have marks (r : Rec) : r.tick.queued = r.queued ∧ r.tick.busy = r.busy := by
      unfold Rec.tick
      split <;> exact ⟨rfl, rfl⟩
    have stands (c : Context) : c.tick.isWorking = c.isWorking ∧ c.tick.holdsRequest = c.holdsRequest := by
      cases c <;> exact ⟨rfl, rfl⟩
    refine ⟨h.marked.mapValues (fun r => (marks r).1) fun r => (marks r).2, h.attended.congr ⟨?_, ?_, ?_⟩ (.refl _)⟩
    · rintro (p | _) -
      · simpa [State.awaits, State.ctx, Vector.get] using (stands (s.ctx p)).1
      · rfl
    · rintro (p | _) -
      · simpa [State.holds, State.ctx, Vector.get] using (stands (s.ctx p)).2
      · rfl
    · rintro (p | _) - <;> rfl

theorem running_reset : State.reset.running = [] := by decide

/-- Hard reset (R198). -/
theorem hardResetValues (s : State) (asserted : Bool) : (s.hardResetValues asserted).InStep none := by
  have ctx (p : PositionNo) : (s.hardResetValues asserted).ctx p = .closed := by
    simp [State.ctx, State.hardResetValues, State.reset, Vector.get]
  have link (p : PositionNo) : (s.hardResetValues asserted).link (.position p) = .free := by
    simp [State.link, State.hardResetValues, State.reset, Vector.get]
  have running : (s.hardResetValues asserted).running = [] :=
    (State.running_congr (s := State.reset) rfl).trans running_reset
  have waiting : (s.hardResetValues asserted).waiting = [] := by
    rw [State.waiting_eq, running]
    rfl
  have requested : (s.hardResetValues asserted).Requested [] none := by
    refine ⟨?_, ?_, nofun⟩
    · rintro (p | _)
      · simp [State.awaits, ctx, Context.isWorking]
      · simp [State.awaits, State.hardResetValues, State.reset]
    · rintro (p | _)
      · simp [State.holds, ctx, Context.holdsRequest, Requester.link, link, LinkState.free]
      · simp [State.holds, State.hardResetValues, State.reset, Requester.link, State.link, LinkState.free]
  refine ⟨?_, by rw [waiting]; exact List.nodup_nil, by rw [waiting]; exact requested⟩
  have jobHandles : (s.hardResetValues asserted).jobHandles = [] := by
    rw [State.jobHandles, running]
    rfl
  rw [jobHandles]
  exact .empty rfl fun n r (hr : none = some r) => nomatch hr

end State.InStep

end Sys2Proof.Machine
end

section
/-! SUPPORT. The access grades of a bank, and what the stops of a procedure that reads it can carry (R45, R46, R48, R151). -/
namespace Sys2Proof.Machine

variable {b b' : Bank} {sel : Selector} {e : BankEntry}

/-! ### The grades of a bank (R151) -/

/-- A selector that a lookup or resolution reads: not the null selector, and below the limit of its table (R30, R48). -/
def Bank.Reaches (b : Bank) (sel : Selector) : Prop := sel ≠ ⟨.n, 0⟩ ∧ sel.index < b.limit sel.table

/-- Every slot that a selector reaches holds an access grade from 0 to 3. -/
def Bank.Graded (b : Bank) : Prop :=
  ∀ t, ∀ c ∈ (b.slots t).cells, b.Reaches ⟨t, c.1⟩ → c.2.content.gradeOk = true

theorem Bank.gradesOk_iff : b.gradesOk = true ↔ (b.state.edition ≠ none → b.Graded) := by
  have tables : b.Graded ↔ (∀ c ∈ b.nSlots.cells, b.Reaches ⟨.n, c.1⟩ → c.2.content.gradeOk = true) ∧
      ∀ c ∈ b.hSlots.cells, b.Reaches ⟨.h, c.1⟩ → c.2.content.gradeOk = true :=
    ⟨fun h => ⟨h .n, h .h⟩, fun h t => match t with | .n => h.1 | .h => h.2⟩
  rw [tables]
  simp only [Bank.gradesOk, Bool.or_eq_true, Bool.and_eq_true, List.all_eq_true, Option.isNone_iff_eq_none,
    beq_iff_eq, decide_eq_true_eq, Bank.Reaches, Bank.limit, ne_eq, Selector.mk.injEq, true_and, reduceCtorEq,
    false_and, not_false_eq_true]
  grind

theorem Bank.Graded.slotCell (h : b.Graded) (hs : b.Reaches sel) : (b.slotCell sel).content.gradeOk = true := by
  unfold Bank.slotCell Table.getD Table.get
  cases hc : getCell sel.index (b.slots sel.table).cells with
  | none => rfl
  | some c => exact h sel.table _ (mem_of_getCell hc) hs

/-- Banks whose slots are among graded ones are graded. -/
theorem Bank.Graded.of_cells (h : b.Graded) (hl : ∀ t, b'.limit t = b.limit t)
    (hc : ∀ t, ∀ c ∈ (b'.slots t).cells, c.2.content.gradeOk = true ∨ ∃ d ∈ (b.slots t).cells, d.1 = c.1 ∧
      d.2.content = c.2.content) : b'.Graded := by
  rintro t c mem ⟨notNull, below⟩
  rcases hc t c mem with ok | ⟨d, mem', key, same⟩
  · exact ok
  · rw [← same]
    exact h t d mem' ⟨by rwa [key], by rw [key, ← hl]; exact below⟩

theorem Bank.Graded.of_slots (h : b.Graded) (hl : ∀ t, b'.limit t = b.limit t) (hs : ∀ t, b'.slots t = b.slots t) :
    b'.Graded :=
  h.of_cells hl fun t c hc => .inr ⟨c, hs t ▸ hc, rfl, rfl⟩

/-! ### Writes to a bank's entries -/

@[simp] theorem Bank.putSegment_slots (n : Nat) (c : Cell Segment) (t : TableLetter) :
    (b.putSegment n c).slots t = b.slots t := by cases t <;> rfl
@[simp] theorem Bank.putPlace_slots (n : Nat) (c : Cell Zone) (t : TableLetter) :
    (b.putPlace n c).slots t = b.slots t := by cases t <;> rfl
@[simp] theorem Bank.putSegment_limit (n : Nat) (c : Cell Segment) (t : TableLetter) :
    (b.putSegment n c).limit t = b.limit t := by cases t <;> rfl
@[simp] theorem Bank.putPlace_limit (n : Nat) (c : Cell Zone) (t : TableLetter) :
    (b.putPlace n c).limit t = b.limit t := by cases t <;> rfl
@[simp] theorem Bank.putSlot_limit (sel : Selector) (c : SlotCell) (t : TableLetter) :
    (b.putSlot sel c).limit t = b.limit t := by
  obtain ⟨letter, n⟩ := sel
  cases letter <;> cases t <;> rfl

/-- The cells of a store after one is replaced. -/
theorem Table.mem_put {α : Type} [DecidableEq α] {t : Table α} {k : Nat} {v d : α} {c : Nat × α}
    (h : c ∈ (t.put k v d).cells) : c = (k, v) ∨ c ∈ t.cells := by
  unfold Table.put at h
  split at h
  · exact .inr (eraseCell_subset k t.cells c h)
  · exact mem_insertCell k v t.cells c h

theorem Bank.mem_putSlot {c : SlotCell} {t : TableLetter} {d : Nat × SlotCell}
    (h : d ∈ ((b.putSlot sel c).slots t).cells) :
    (⟨t, d.1⟩ = sel ∧ d.2 = c) ∨ d ∈ (b.slots t).cells := by
  obtain ⟨letter, n⟩ := sel
  cases letter <;> cases t
  case n.n | h.h =>
    rcases Table.mem_put h with rfl | h
    · exact .inl ⟨rfl, rfl⟩
    · exact .inr h
  all_goals exact .inr h

/-- A slot is replaced by one whose grade is in range. -/
theorem Bank.Graded.putSlot (h : b.Graded) {c : SlotCell} (hc : b.Reaches sel → c.content.gradeOk = true) :
    (b.putSlot sel c).Graded := by
  intro t d mem hd
  have reached : b.Reaches ⟨t, d.1⟩ := ⟨hd.1, by simpa using hd.2⟩
  rcases Bank.mem_putSlot mem with ⟨rfl, rfl⟩ | old
  · exact hc reached
  · exact h t d old reached

theorem Bank.Graded.putSegment (h : b.Graded) (n : Nat) (c : Cell Segment) : (b.putSegment n c).Graded :=
  h.of_slots (by simp) (by simp)

theorem Bank.Graded.putPlace (h : b.Graded) (n : Nat) (c : Cell Zone) : (b.putPlace n c).Graded :=
  h.of_slots (by simp) (by simp)

theorem Bank.Graded.damage (h : b.Graded) (e : BankEntry) : (b.damage e).Graded := by
  cases e with
  | segment n => exact (h.putSegment n ⟨none, true, true⟩).of_slots (fun t => by cases t <;> rfl) fun t => by cases t <;> rfl
  | place n => exact (h.putPlace n ⟨none, true, true⟩).of_slots (fun t => by cases t <;> rfl) fun t => by cases t <;> rfl
  | slot sel =>
    exact (h.putSlot (c := { b.slotCell sel with present := false, damaged := true }) fun r => h.slotCell r).of_slots
      (fun t => by cases t <;> rfl) fun t => by cases t <;> rfl

theorem Bank.Graded.unsound (h : b.Graded) (e : BankEntry) : (b.unsound e).Graded := by
  cases e with
  | segment n => exact h.putSegment n _
  | place n => exact h.putPlace n _
  | slot sel => exact h.putSlot fun r => h.slotCell r

@[simp] theorem Bank.unsound_limit (e : BankEntry) (t : TableLetter) : (b.unsound e).limit t = b.limit t := by
  cases e <;> simp [Bank.unsound]

/-- A bank before a job that has read nothing keeps what its slots hold. -/
theorem Bank.Graded.unread (h : b.Graded) (e : BankEntry) : (b.unread e).Graded := by
  have covered : Bank.Graded { b with
      segments := b.segments.mapValues fun _ => .unreadSegment
      zones := b.zones.mapValues fun _ => .unreadPlace
      nSlots := b.nSlots.mapValues SlotCell.unread
      hSlots := b.hSlots.mapValues SlotCell.unread } := by
    refine h.of_cells (fun t => by cases t <;> rfl) fun t c hc => .inr ?_
    cases t <;>
      · obtain ⟨d, hd, rfl⟩ := List.mem_map.1 hc
        exact ⟨d, hd, rfl, rfl⟩
  cases e with
  | segment n => exact covered.putSegment n _
  | place n => exact covered.putPlace n _
  | slot sel => exact covered.putSlot fun r => covered.slotCell r

@[simp] theorem Bank.unread_limit (e : BankEntry) (t : TableLetter) : (b.unread e).limit t = b.limit t := by
  cases e <;> cases t <;> simp [Bank.unread, Bank.hide] <;> rfl

/-! ### Jobs and what they have read (R47) -/

/-- A job's grades in range, its fields apart. -/
structure Job.InRange (j : Job) : Prop where
  eg : j.entry.eg ≤ 3
  found : ∀ f, j.found = some f → ∀ g ∈ f.grades, g.1 ≤ 3
  seen : ∀ x ∈ j.seen, ∀ sel c, x.entry = .slot sel c → c.content.gradeOk = true

theorem Job.gradesOk_iff {j : Job} : j.gradesOk = true ↔ j.InRange := by
  have entries : (∀ x ∈ j.seen, (match x.entry with
      | .slot _ c => c.content.gradeOk
      | _ => true) = true) ↔ ∀ x ∈ j.seen, ∀ sel c, x.entry = .slot sel c → c.content.gradeOk = true := by
    refine forall₂_congr fun x _ => ?_
    cases x.entry <;> simp
  simp only [Job.gradesOk, Bool.and_eq_true, decide_eq_true_eq, List.all_eq_true, Option.all_eq_true]
  exact ⟨fun ⟨⟨eg, found⟩, seen⟩ => ⟨eg, found, entries.1 seen⟩, fun h => ⟨⟨h.eg, h.found⟩, entries.2 h.seen⟩⟩

/-- What a job sees of a bank in one lookup or resolution is graded, with the limits of the bank. -/
theorem Job.InRange.view {j : Job} (h : j.InRange) (hb : b.Graded) (n : Nat) :
    (j.view b n).Graded ∧ ∀ t, (j.view b n).limit t = b.limit t := by
  have seen := h.seen
  unfold Job.view
  generalize j.seen = l at seen
  induction l generalizing b with
  | nil => exact ⟨hb, fun _ => rfl⟩
  | cons x rest ih =>
    have step : (if x.reading = n then b.withSeen x.entry else b).Graded ∧
        ∀ t, (if x.reading = n then b.withSeen x.entry else b).limit t = b.limit t := by
      split
      · cases he : x.entry with
        | segment m c => exact ⟨hb.putSegment m c, Bank.putSegment_limit m c⟩
        | place m c => exact ⟨hb.putPlace m c, Bank.putPlace_limit m c⟩
        | slot sel c => exact ⟨hb.putSlot fun _ => seen x (by simp) sel c he, Bank.putSlot_limit sel c⟩
      · exact ⟨hb, fun _ => rfl⟩
    obtain ⟨graded, limit⟩ := ih step.1 fun y hy => seen y (by simp [hy])
    exact ⟨graded, fun t => (limit t).trans (step.2 t)⟩

/-! ### The stops of a reading -/

/-- A stop of a reading of a bank: the needed grade of its fault is 0 to 3, and a read that fails its check gives a fault
without grades, of a slot that a selector reaches. -/
def Stop.Bounded (b : Bank) : Stop → Prop
  | .fault f => ∀ g ∈ f.grades, g.1 ≤ 3
  | .badRead e f => f.grades = none ∧ ∀ sel, e = .slot sel → b.Reaches sel

/-- Every stop of a reading is bounded. -/
def StopsBounded {α : Type} (b : Bank) (x : Except Stop α) : Prop := ∀ stop, x = .error stop → stop.Bounded b

/-- Every stop of a procedure is bounded. -/
def StopsAtBounded {α : Type} (b : Bank) (x : Except StopAt α) : Prop := ∀ stop, x = .error stop → stop.stop.Bounded b

section
variable {α β : Type} {f : FaultReport}

theorem Stop.bounded_fault (hf : f.grades = none) : (Stop.fault f).Bounded b := by simp [Stop.Bounded, hf]

theorem StopsBounded.ok {a : α} : StopsBounded b (.ok a : Except Stop α) := nofun

theorem StopsBounded.error {stop : Stop} (h : stop.Bounded b) : StopsBounded b (.error stop : Except Stop α) := by
  rintro _ ⟨⟩
  exact h

/-- A reading that stops at a fault without grades. -/
theorem StopsBounded.fault (hf : f.grades = none) : StopsBounded b (.error (.fault f) : Except Stop α) :=
  .error (Stop.bounded_fault hf)

theorem StopsBounded.of_limit {x : Except Stop α} (h : StopsBounded b' x) (hl : ∀ t, b'.limit t = b.limit t) :
    StopsBounded b x := by
  intro stop hs
  have := h stop hs
  cases stop with
  | fault f => exact this
  | badRead e f => exact ⟨this.1, fun sel he => ⟨(this.2 sel he).1, hl _ ▸ (this.2 sel he).2⟩⟩

theorem StopsAtBounded.ok {a : α} : StopsAtBounded b (.ok a : Except StopAt α) := nofun

theorem StopsAtBounded.error {n : Nat} {stop : Stop} (h : stop.Bounded b) :
    StopsAtBounded b (.error ⟨n, stop⟩ : Except StopAt α) := by
  rintro _ ⟨⟩
  exact h

theorem StopsBounded.atReading {x : Except Stop α} (h : StopsBounded b x) (n : Nat) :
    StopsAtBounded b (atReading n x) := by
  cases x with
  | ok a => exact .ok
  | error stop => exact .error (h stop rfl)

/-- What comes first is bounded, and what comes after it wherever it goes on. -/
theorem StopsAtBounded.bind {x : Except StopAt α} {k : α → Except StopAt β} (h : StopsAtBounded b x)
    (hk : ∀ a, x = .ok a → StopsAtBounded b (k a)) : StopsAtBounded b (x >>= k) := by
  cases x with
  | ok a => exact hk a rfl
  | error stop =>
    rintro _ ⟨⟩
    exact h stop rfl

theorem StopsAtBounded.map {x : Except StopAt α} (h : StopsAtBounded b x) (k : α → β) :
    StopsAtBounded b (x.map k) := by
  cases x with
  | ok a => exact .ok
  | error stop =>
    rintro _ ⟨⟩
    exact h stop rfl

theorem StopsAtBounded.onOneBank {x : Except StopAt α} (h : StopsAtBounded b x) : StopsBounded b (onOneBank x) := by
  cases x with
  | ok a => exact .ok
  | error stop => exact .error (h stop rfl)

end

/-! ### Lookups and resolutions -/

theorem lookupCode_bounded (b : Bank) (code : Nat) : StopsBounded b (lookupCode b code) := by
  have walk (fuel n : Nat) : StopsBounded b (walkCatalogue b code fuel n) := by
    induction fuel generalizing n with
    | zero => exact .fault rfl
    | succ fuel ih =>
      simp only [walkCatalogue]
      split
      · exact .fault rfl
      · split
        · exact .fault rfl
        · split
          · exact .error ⟨rfl, nofun⟩
          · split
            · exact .ok
            · split
              · exact .fault rfl
              · exact ih _
  exact walk _ _

theorem lookupZone_bounded (b : Bank) (district : Nat) : StopsBounded b (lookupZone b district) := by
  have scan (l : List (Nat × Cell Zone)) : StopsBounded b (scanZones district l) := by
    induction l with
    | nil => exact .fault rfl
    | cons c rest ih =>
      simp only [scanZones]
      split
      · exact .fault rfl
      · split
        · exact ih
        · split
          · exact .error ⟨rfl, nofun⟩
          · split
            · exact ih
            · split
              · exact .ok
              · exact .fault rfl
  exact scan _

/-- A grade fault needs less than the grade checked. -/
theorem gradeFault_bounded {d : Descriptor} {checked : Option Nat} {f : FaultReport}
    (hg : ∀ g ∈ checked, g ≤ 3) (h : gradeFault sel d checked = some f) : ∀ g ∈ f.grades, g.1 ≤ 3 := by
  unfold gradeFault at h
  split at h
  · rename_i g needed _
    split at h
    · cases h
      rintro _ ⟨⟩
      have := hg g rfl
      show needed ≤ 3
      omega
    · cases h
  · cases h

theorem resolve_bounded (b : Bank) (sel : Selector) (wanted : Wanted) {checked : Option Nat}
    (hg : ∀ g ∈ checked, g ≤ 3) : StopsBounded b (resolve b sel wanted checked) := by
  unfold resolve
  split
  · exact .fault rfl
  · rename_i notNull
    split
    · exact .fault rfl
    · split
      · exact .fault rfl
      · rename_i below
        dsimp only
        split
        · exact .fault rfl
        · split
          · exact .error ⟨rfl, fun _ he => by cases he; exact ⟨notNull, Nat.lt_of_not_le below⟩⟩
          · split
            · exact .fault rfl
            · split
              · exact .fault rfl
              · split
                · exact .error (gradeFault_bounded hg ‹_›)
                · exact .ok

/-- What a resolution yields holds a grade from 0 to 3. -/
theorem resolve_gradeOk (hb : b.Graded) {wanted : Wanted} {checked : Option Nat} {d : Descriptor}
    (h : resolve b sel wanted checked = .ok d) : d.gradeOk = true := by
  unfold resolve at h
  split at h
  · cases h
  · rename_i notNull
    split at h
    · cases h
    · split at h
      · cases h
      · rename_i below
        dsimp only at h
        (repeat' split at h) <;> cases h
        exact hb.slotCell ⟨notNull, Nat.lt_of_not_le below⟩

theorem surchargeLine_bounded (b : Bank) (sel : Selector) {grade : Nat} (m : Measured) (base : Nat) (hg : grade ≤ 3) :
    StopsBounded b (surchargeLine b sel grade m base) := by
  unfold surchargeLine
  split
  · rename_i stop h
    exact .error (resolve_bounded b sel .surcharge (by simpa using hg) stop h)
  · unfold lineOf
    split
    · split
      · exact .ok
      · exact .fault rfl
    · exact .ok
  · exact .fault rfl

theorem findBase_bounded (b : Bank) (sel : Selector) (mass zone : Nat) : StopsBounded b (findBase b sel mass zone) := by
  unfold findBase
  split
  · rename_i stop h
    exact .error (resolve_bounded b sel .rate (by simp) stop h)
  · split
    · exact .ok
    · exact .fault rfl
  · exact .fault rfl

/-! ### The procedures -/

section
variable {view : Nat → Bank} {eg : Nat}

theorem findServiceAt_bounded (hl : ∀ n t, (view n).limit t = b.limit t) (n : Nat) (sel : Selector) (hg : eg ≤ 3) :
    StopsAtBounded b (findServiceAt view n sel eg) := by
  unfold findServiceAt
  split
  · rename_i stop h
    exact .error ((resolve_bounded (view n) sel _ (by simpa using hg)).of_limit (hl n) stop h)
  · exact .ok
  · split
    · rename_i stop h
      exact .error ((resolve_bounded (view (n + 1)) _ _ (by simp)).of_limit (hl (n + 1)) stop h)
    · exact .ok
    · exact .error (Stop.bounded_fault rfl)
  · exact .error (Stop.bounded_fault rfl)

/-- AG is 0 to 3: EG, or the grade of a redirect's target (R46). -/
theorem findServiceAt_ag (hv : ∀ n, (view n).Graded) {n : Nat} (hg : eg ≤ 3) {f : ServiceFound}
    (h : findServiceAt view n sel eg = .ok f) : f.ag ≤ 3 := by
  unfold findServiceAt at h
  split at h
  · cases h
  · cases h
    exact hg
  · split at h
    · cases h
    · rename_i d hd
      cases h
      simpa [Descriptor.gradeOk] using resolve_gradeOk (hv _) hd
    · cases h
  · cases h

theorem listedLines_bounded (hl : ∀ n t, (view n).limit t = b.limit t) {ag : Nat} (m : Measured) (base : Nat)
    (hg : ag ≤ 3) (n : Nat) (sels : List Selector) : StopsAtBounded b (listedLines view ag m base n sels) := by
  induction sels generalizing n with
  | nil => exact .ok
  | cons sel rest ih =>
    exact (((surchargeLine_bounded (view n) sel m base hg).of_limit (hl n)).atReading n).bind fun _ _ =>
      (ih (n + 1)).bind fun _ _ => .ok

theorem optionLines_bounded (hl : ∀ n t, (view n).limit t = b.limit t) (m : Measured) (base : Nat)
    (hg : eg ≤ 3) (n : Nat) (codes : List Nat) : StopsAtBounded b (optionLines view eg m base n codes) := by
  induction codes generalizing n with
  | nil => exact .ok
  | cons code rest ih =>
    exact (((lookupCode_bounded (view n) code).of_limit (hl n)).atReading n).bind fun sel _ =>
      (((surchargeLine_bounded (view (n + 1)) sel m base hg).of_limit (hl (n + 1))).atReading (n + 1)).bind fun _ _ =>
        (ih (n + 2)).bind fun _ _ => .ok

theorem requirePresent_bounded (v : ParcelValues) : StopsBounded b (requirePresent v) := by
  unfold requirePresent
  split
  case h_5 => exact .ok
  all_goals exact .fault rfl

theorem totalOf_bounded (base : Nat) (lines : List Line) : StopsBounded b (totalOf base lines) := by
  unfold totalOf
  dsimp only
  split
  · exact .fault rfl
  · exact .ok

theorem rateParcelAt_bounded (hv : ∀ n, (view n).Graded) (hl : ∀ n t, (view n).limit t = b.limit t)
    (letter : BankLetter) (edition : Nat) (v : ParcelValues) (hg : eg ≤ 3) :
    StopsAtBounded b (rateParcelAt view letter edition v eg) := by
  unfold rateParcelAt
  refine ((requirePresent_bounded v).atReading 0).bind fun p _ => ?_
  refine (((lookupCode_bounded (view 0) p.serviceCode).of_limit (hl 0)).atReading 0).bind fun sel _ => ?_
  refine (findServiceAt_bounded hl 1 sel hg).bind fun f hf => ?_
  have ag := findServiceAt_ag hv hg hf
  have stop {k : FaultKind} {x : Subject} {α : Type} :
      StopsAtBounded b (throw ⟨2, .fault (faultOf k x)⟩ : Except StopAt α) := .error (Stop.bounded_fault rfl)
  split <;> dsimp only <;> split
  · exact stop.bind fun _ _ => stop
  · exact stop
  · exact stop.bind fun _ h => nomatch h
  · refine (((lookupZone_bounded (view 3) p.destination).of_limit (hl 3)).atReading 3).bind fun z _ => ?_
    refine (((findBase_bounded (view 4) _ _ _).of_limit (hl 4)).atReading 4).bind fun band _ => ?_
    refine (listedLines_bounded hl _ _ ag _ _).bind fun listed _ => ?_
    refine (optionLines_bounded hl _ _ hg _ _).bind fun added _ => ?_
    exact ((totalOf_bounded _ _).atReading _).bind fun _ _ => .ok

theorem rateAddedOptionAt_bounded (hl : ∀ n t, (view n).limit t = b.limit t) (v : OptionValues) (hg : eg ≤ 3) :
    StopsAtBounded b (rateAddedOptionAt view v eg) := by
  refine (((lookupCode_bounded (view 0) v.code).of_limit (hl 0)).atReading 0).bind fun sel _ => ?_
  refine (((surchargeLine_bounded (view 1) sel _ v.base hg).of_limit (hl 1)).atReading 1).bind fun line _ => ?_
  refine StopsBounded.atReading ?_ 1
  unfold checkAddedLine
  split
  · exact .ok
  · split
    · exact .fault rfl
    · exact .ok

end

/-- The stops of a job's procedure on a graded bank. -/
theorem Job.InRange.procedureAt {j : Job} (h : j.InRange) (hb : b.Graded) : StopsAtBounded b (j.procedureAt b) := by
  have views n := (h.view hb n).1
  have limits n := (h.view hb n).2
  unfold Job.procedureAt
  split
  · exact (rateParcelAt_bounded views limits _ _ _ h.eg).map _
  · exact (rateAddedOptionAt_bounded limits _ h.eg).map _

theorem Job.InRange.procedure {j : Job} (h : j.InRange) (hb : b.Graded) : StopsBounded b (j.procedure b) :=
  (h.procedureAt hb).onOneBank

/-- The grades of the fault that a read that fails its check gives: none. -/
theorem Job.InRange.badRead {j : Job} {f : FaultReport} (h : j.InRange) (hb : b.Graded)
    (hp : j.procedure b = .error (.badRead e f)) : f.grades = none := (h.procedure hb _ hp).1

/-- A job reads on: what it then has read holds grades from 0 to 3. -/
theorem Job.InRange.readOn {j : Job} (h : j.InRange) (hb : b.Graded) (e : BankEntry) (n : Nat) :
    Job.InRange { j with seen := j.readOn b (b.unread e) n j.seen } := by
  refine ⟨h.eg, h.found, ?_⟩
  have seen := h.seen
  generalize j.seen = l at seen
  induction n generalizing l with
  | zero => exact seen
  | succ n ih =>
    unfold Job.readOn
    split
    · rename_i reading entry f hp
      split
      · refine ih _ fun x hx sel c he => ?_
        rcases List.mem_cons.1 hx with rfl | hx
        · have reads : Job.InRange { j with seen := l } := ⟨h.eg, h.found, seen⟩
          have stops := (reads.procedureAt (hb.unread e) _ hp).2
          cases entry with
          | slot sel' =>
            obtain ⟨rfl, rfl⟩ := SeenEntry.slot.inj he
            have reached := stops _ rfl
            exact hb.slotCell ⟨reached.1, by simpa using reached.2⟩
          | segment m => cases he
          | place m => cases he
        · exact seen x hx sel c he
      · exact seen
    · exact seen

end Sys2Proof.Machine
end

section
/-! SUPPORT. The grades and the times in range, block by block, and what each operation does to them (R115, R124, R125, R45,
R159, R192, R6). -/
namespace Sys2Proof.Machine

variable {s t : State}

/-! ### Banks that hold the same slots -/

/-- Two banks with the same slots and limits, both past LOADING or neither. -/
structure Bank.Like (b b' : Bank) : Prop where
  slots : ∀ t, b'.slots t = b.slots t
  limit : ∀ t, b'.limit t = b.limit t
  edition : b'.state.edition = none ↔ b.state.edition = none

theorem Bank.Like.refl (b : Bank) : b.Like b := ⟨fun _ => rfl, fun _ => rfl, .rfl⟩

/-- A bank changes but for its slots, limits and edition. -/
theorem Bank.Like.of_state (b : Bank) {st : BankState} (pins : Nat) (h : st.edition = none ↔ b.state.edition = none) :
    b.Like { b with state := st, pins := pins } :=
  ⟨fun t => by cases t <;> rfl, fun t => by cases t <;> rfl, h⟩

theorem State.setBank_like {l : BankLetter} {b : Bank} (h : (s.bank l).Like b) (m : BankLetter) :
    (s.bank m).Like ((s.setBank l b).bank m) := by
  by_cases hm : l = m
  · subst hm
    rwa [State.bank_setBank]
  · rw [State.bank_setBank_other _ _ _ _ hm]
    exact .refl _

theorem State.takePin_like (s : State) (l m : BankLetter) : (s.bank m).Like ((s.takePin l).bank m) :=
  State.setBank_like (.of_state _ _ .rfl) m

theorem State.releasePin_like (s : State) (l m : BankLetter) : (s.bank m).Like ((s.releasePin l).bank m) := by
  unfold State.releasePin
  dsimp only
  split
  · rename_i ed grace hst
    split
    · rw [show ∀ v : State, (v.raise .bankRetired).bank m = v.bank m from fun v => by cases m <;> rfl]
      exact State.setBank_like (.of_state _ _ (by simp [hst, BankState.edition])) m
    · exact State.setBank_like (.of_state _ _ (by simp [hst, BankState.edition])) m
  · exact State.setBank_like (.of_state _ _ .rfl) m

theorem State.releaseBodyPin_like (s : State) (r : RecordBody) (m : BankLetter) :
    (s.bank m).Like ((s.releaseBodyPin r).bank m) := by
  unfold State.releaseBodyPin
  split
  · exact s.releasePin_like _ m
  · exact .refl _

theorem State.retireOutgoing_like (s : State) (l : BankLetter) (grace : Nat) (m : BankLetter) :
    (s.bank m).Like ((s.retireOutgoing l grace).bank m) := by
  unfold State.retireOutgoing
  dsimp only
  split
  · rename_i ed hst
    split
    all_goals exact State.setBank_like (.of_state _ _ (by simp [hst, BankState.edition])) m
  · exact .refl _

theorem Bank.unscheduled_like (b : Bank) : b.Like b.unscheduled := by
  unfold Bank.unscheduled
  split
  · rename_i ed effective grace hst
    exact .of_state _ _ (by simp [hst, BankState.edition])
  · exact .refl _

theorem Bank.tick_like (b : Bank) : b.Like b.tick := by
  unfold Bank.tick
  split
  · rename_i ed n hst
    exact .of_state _ _ (by simp [hst, BankState.edition])
  · exact .refl _

theorem Bank.Graded.like {b b' : Bank} (h : b.Graded) (like : b.Like b') : b'.Graded := h.of_slots like.limit like.slots

/-! ### The law block by block -/

/-- The law of the grades and the times within a step: each running job's bank is past LOADING, so that what it reads is
graded. -/
structure State.Ranged (s : State) : Prop where
  ctx : ∀ p, (s.ctx p).inRange = true
  queue : ∀ e ∈ s.queue, e.eg ≤ 3
  jobs : ∀ u j, s.unit u = some j → j.InRange ∧ (s.bank j.bank).state.edition ≠ none
  banks : ∀ l, (s.bank l).state.edition ≠ none → (s.bank l).Graded
  patch : s.grantState.gradesOk = true
  timers : s.timers.inRange = true
  deadlines : ∀ c ∈ s.table.records.cells, c.2.body.deadlineOk = true

/-- A running job's bank is ACTIVE or RETIRING (R155). -/
theorem State.carriesPins_of_unit (h : s.pinLaw = true) {u : UnitNo} {j : Job} (hu : s.unit u = some j) :
    (s.bank j.bank).state.carriesPins = true := by
  have law : s.pinnedBy j.bank = true := by
    rw [State.pinLaw, Bool.and_eq_true] at h
    cases j.bank with
    | a => exact h.1
    | b => exact h.2
  rw [State.pinnedBy, Bool.and_eq_true, beq_iff_eq, Bool.or_eq_true, beq_iff_eq] at law
  refine law.2.resolve_left fun zero => ?_
  have counted : 0 < s.units.toList.countP fun u => u.any fun k => k.bank == j.bank := by
    refine List.countP_pos_iff.2 ⟨some j, ?_, by simp⟩
    rw [← hu]
    exact Vector.mem_toList_iff.2 (Vector.getElem_mem ..)
  have pins := law.1
  rw [zero, State.pinners] at pins
  omega

theorem BankState.edition_of_carriesPins {b : BankState} (h : b.carriesPins = true) : b.edition ≠ none := by
  cases b with
  | active n => exact nofun
  | retiring n g => exact nofun
  | _ => cases h

/-- Between steps, with the law of the pins, it is the law. -/
theorem State.ranged_of_rangeLaw (hp : s.pinLaw = true) (h : s.rangeLaw = true) : s.Ranged := by
  simp only [State.rangeLaw, Bool.and_eq_true, List.all_eq_true, List.mem_finRange, forall_const, decide_eq_true_eq,
    Bank.gradesOk_iff] at h
  obtain ⟨⟨⟨⟨⟨⟨⟨ctx, queue⟩, jobs⟩, bankA⟩, bankB⟩, patch⟩, timers⟩, deadlines⟩ := h
  exact ⟨ctx, queue, fun u j hu => ⟨Job.gradesOk_iff.1 (jobs j (State.mem_jobs.2 ⟨u, hu⟩)),
    BankState.edition_of_carriesPins (State.carriesPins_of_unit hp hu)⟩,
    fun l => match l with | .a => bankA | .b => bankB, patch, timers, deadlines⟩

theorem State.Ranged.rangeLaw (h : s.Ranged) : s.rangeLaw = true := by
  simp only [State.rangeLaw, Bool.and_eq_true, List.all_eq_true, List.mem_finRange, forall_const, decide_eq_true_eq,
    Bank.gradesOk_iff]
  exact ⟨⟨⟨⟨⟨⟨⟨h.ctx, h.queue⟩, fun j hj => by
    obtain ⟨u, hu⟩ := State.mem_jobs.1 hj
    exact Job.gradesOk_iff.2 (h.jobs u j hu).1⟩, h.banks .a⟩, h.banks .b⟩, h.patch⟩, h.timers⟩, h.deadlines⟩

namespace State.Ranged

/-! ### One block at a time -/

/-- Nothing the law speaks of changes, but for banks that hold the same slots. -/
theorem congr (h : s.Ranged) (hb : ∀ l, (s.bank l).Like (t.bank l)) (hp : t.positions = s.positions := by simp)
    (hq : t.queue = s.queue := by simp) (hu : t.units = s.units := by simp)
    (hg : t.grantState = s.grantState := by simp) (ht : t.timers = s.timers := by simp)
    (hr : t.table.records = s.table.records := by simp) : t.Ranged where
  ctx p := by
    rw [show t.ctx p = s.ctx p from congrArg (Vector.get · p) hp]
    exact h.ctx p
  queue := hq ▸ h.queue
  jobs u j hj := by
    rw [show t.unit u = s.unit u from congrArg (Vector.get · u) hu] at hj
    exact ⟨(h.jobs u j hj).1, fun e => (h.jobs u j hj).2 ((hb j.bank).edition.1 e)⟩
  banks l hl := (h.banks l fun e => hl ((hb l).edition.2 e)).like (hb l)
  patch := hg ▸ h.patch
  timers := ht ▸ h.timers
  deadlines := hr ▸ h.deadlines

/-- Nothing the law speaks of changes. -/
theorem frame (h : s.Ranged) (hp : t.positions = s.positions := by simp) (hq : t.queue = s.queue := by simp)
    (hu : t.units = s.units := by simp) (ha : t.bankA = s.bankA := by simp) (hb : t.bankB = s.bankB := by simp)
    (hg : t.grantState = s.grantState := by simp) (ht : t.timers = s.timers := by simp)
    (hr : t.table.records = s.table.records := by simp) : t.Ranged :=
  h.congr (fun l => by cases l <;> simp only [State.bank, ha, hb] <;> exact .refl _) hp hq hu hg ht hr

theorem setCtx (h : s.Ranged) {p : PositionNo} {c : Context} (hc : c.inRange = true) : (s.setCtx p c).Ranged :=
  { h with
    ctx := fun q => by
      by_cases hq : p = q
      · subst hq
        rwa [State.ctx_setCtx]
      · rw [State.ctx_setCtx_other _ _ _ _ hq]
        exact h.ctx q }

theorem setUnit (h : s.Ranged) {u : UnitNo} {k : Option Job}
    (hk : ∀ j, k = some j → j.InRange ∧ (s.bank j.bank).state.edition ≠ none) : (s.setUnit u k).Ranged :=
  { h with
    jobs := fun v j hj => by
      show j.InRange ∧ (s.bank j.bank).state.edition ≠ none
      by_cases hv : u = v
      · subst hv
        rw [State.unit_setUnit] at hj
        exact hk j hj
      · rw [State.unit_setUnit_other _ _ _ _ hv] at hj
        exact h.jobs v j hj }

theorem clearUnit (h : s.Ranged) (u : UnitNo) : (s.setUnit u none).Ranged := h.setUnit fun _ hj => nomatch hj

/-- A bank takes content that is graded where it is past LOADING. -/
theorem setBank (h : s.Ranged) {l : BankLetter} {b : Bank} (hg : b.state.edition ≠ none → b.Graded)
    (hd : ∀ u j, s.unit u = some j → j.bank = l → b.state.edition ≠ none) : (s.setBank l b).Ranged := by
  refine { ctx := ?_, queue := ?_, jobs := fun u j hj => ?_, banks := fun m => ?_, patch := ?_, timers := ?_,
           deadlines := ?_ }
  case refine_3 =>
    rw [show (s.setBank l b).unit u = s.unit u by simp [State.unit]] at hj
    refine ⟨(h.jobs u j hj).1, ?_⟩
    by_cases hl : l = j.bank
    · rw [← hl, State.bank_setBank]
      exact hd u j hj hl.symm
    · rw [State.bank_setBank_other _ _ _ _ hl]
      exact (h.jobs u j hj).2
  case refine_4 =>
    by_cases hl : l = m
    · subst hl
      rwa [State.bank_setBank]
    · rw [State.bank_setBank_other _ _ _ _ hl]
      exact h.banks m
  · intro p
    simpa [State.ctx] using h.ctx p
  · simpa using h.queue
  · simpa using h.patch
  · simpa using h.timers
  · simpa using h.deadlines

/-- A bank that stays past LOADING takes content that is graded. -/
theorem regrade (h : s.Ranged) {l : BankLetter} {b : Bank} (he : b.state.edition = none ↔ (s.bank l).state.edition = none)
    (hg : (s.bank l).Graded → b.Graded) : (s.setBank l b).Ranged :=
  h.setBank (fun hn => hg (h.banks l fun e => hn (he.2 e))) fun u j hu hl => by
    have := (h.jobs u j hu).2
    rw [hl] at this
    exact fun e => this (he.1 e)

theorem setRecords (h : s.Ranged) {records : Table Rec} (hc : ∀ c ∈ records.cells, c.2.body.deadlineOk = true) :
    State.Ranged { s with table := { s.table with records := records } } := { h with deadlines := hc }

theorem putRecord (h : s.Ranged) {n : Nat} {r : Rec} (hr : r.body.deadlineOk = true) : (s.putRecord n r).Ranged := by
  refine h.setRecords fun c hc => ?_
  rcases mem_insertCell n r s.table.records.cells c hc with rfl | hc
  · exact hr
  · exact h.deadlines c hc

theorem setQueue (h : s.Ranged) {queue : List QueueEntry} (hq : ∀ e ∈ queue, e.eg ≤ 3) :
    State.Ranged { s with queue := queue } := { h with queue := hq }

theorem filterQueue (h : s.Ranged) (f : QueueEntry → Bool) : State.Ranged { s with queue := s.queue.filter f } :=
  h.setQueue fun e he => h.queue e (List.mem_filter.1 he).1

theorem setGrantState (h : s.Ranged) {g : GrantState} (hg : g.gradesOk = true) :
    State.Ranged { s with grantState := g } := { h with patch := hg }

theorem setTimers (h : s.Ranged) {v : Timers} (hv : v.inRange = true) : State.Ranged { s with timers := v } :=
  { h with timers := hv }

theorem deadline (h : s.Ranged) {n : Nat} {r : Rec} (hr : s.record n = some r) : r.body.deadlineOk = true :=
  h.deadlines _ (mem_of_getCell hr)

/-! ### Marks, pins and answers -/

theorem markBusy (h : s.Ranged) (n : Nat) (m : Bool) : (s.markBusy n m).Ranged := by
  unfold State.markBusy
  split
  · rename_i r hr
    have ok := h.deadline hr
    exact h.putRecord ok
  · exact h

theorem markQueued (h : s.Ranged) (n : Nat) (m : Bool) : (s.markQueued n m).Ranged := by
  unfold State.markQueued
  split
  · rename_i r hr
    have ok := h.deadline hr
    exact h.putRecord ok
  · exact h

theorem takePin (h : s.Ranged) (l : BankLetter) : (s.takePin l).Ranged := h.congr (s.takePin_like l)

theorem releasePin (h : s.Ranged) (l : BankLetter) : (s.releasePin l).Ranged := h.congr (s.releasePin_like l)

theorem releaseBodyPin (h : s.Ranged) (r : RecordBody) : (s.releaseBodyPin r).Ranged := h.congr (s.releaseBodyPin_like r)

theorem retireOutgoing (h : s.Ranged) (l : BankLetter) (grace : Nat) : (s.retireOutgoing l grace).Ranged :=
  h.congr (s.retireOutgoing_like l grace)

theorem answer (h : s.Ranged) (l : Link) (a : Answer) : (s.answer l a).Ranged := h.frame

theorem hold (h : s.Ranged) (l : Link) (k : Kind) (g : Tag) : (s.hold l k g).Ranged := h.frame

theorem report (h : s.Ranged) (subject : ReportSubject) (reader : Reader) : (s.report subject reader).Ranged := h.frame


/-! ### Positions -/

theorem opened (h : s.Ranged) {p : PositionNo} {session : Session} {res : Option Reservation}
    (hs : 1 ≤ session.grade ∧ session.grade ≤ 3) : (s.setCtx p (.opened session res)).Ranged :=
  h.setCtx (by simp [Context.inRange, hs])

theorem answerPosition (h : s.Ranged) (p : PositionNo) (a : Answer) : (s.answerPosition p a).Ranged := by
  refine (h.answer (.position p) a).setCtx ?_
  have old := h.ctx p
  cases hc : s.ctx p with
  | working session pend res request =>
    rw [hc] at old
    cases pend
    · simpa [Context.released, Context.inRange] using old
    · simpa [Context.released, Context.inRange] using old
  | _ =>
    rw [hc] at old
    exact old

theorem answerRequester (h : s.Ranged) (q : Requester) (a : Answer) : (s.answerRequester q a).Ranged := by
  cases q with
  | position p => exact h.answerPosition p a
  | dispatch => exact (h.answer .dispatch a).frame rfl rfl rfl rfl rfl rfl rfl rfl

theorem endEscalation (h : s.Ranged) (p : PositionNo) {session : Session} (a : Answer)
    (hs : 1 ≤ session.grade ∧ session.grade ≤ 3) : (s.endEscalation p session a).Ranged :=
  (h.answer (.position p) a).opened hs

/-- An escalation (R123). -/
theorem escalate (h : s.Ranged) (p : PositionNo) {session : Session} (suspendPending : Bool) (request : HeldRequest)
    {needed : Nat} (report : FaultReport) (hs : 1 ≤ session.grade ∧ session.grade ≤ 3) (hn : needed ≤ 3) :
    (s.escalate p session suspendPending request needed report).Ranged := by
  have timers := h.timers
  simp only [Timers.inRange, Bool.and_eq_true, decide_eq_true_eq] at timers
  unfold State.escalate
  split
  · refine h.setCtx ?_
    cases suspendPending
    · simp only [Context.inRange, NormalSlot.inRange, Bool.and_eq_true, decide_eq_true_eq, Bool.false_eq_true, if_false]
      omega
    · simp only [Context.inRange, NormalSlot.inRange, Bool.and_eq_true, decide_eq_true_eq, if_true]
      omega
  · exact h.answerPosition p _

/-! ### Records, entries and jobs that end -/

theorem endJobOn (h : s.Ranged) (hd : Handle) (a : Answer) : (s.endJobOn hd a).Ranged := by
  unfold State.endJobOn
  split
  · exact h
  · rename_i u _
    split
    · exact h
    · rename_i j _
      have ended := (h.clearUnit u).releasePin j.bank
      dsimp only
      split
      · exact ended
      · exact ended.answerRequester _ _

theorem dropEntryOn (h : s.Ranged) (hd : Handle) (a : Answer) : (s.dropEntryOn hd a).Ranged := by
  unfold State.dropEntryOn
  split
  · exact h
  · exact (h.filterQueue _).answerRequester _ _

theorem damageRecord (h : s.Ranged) (n : Nat) (r : Rec) (subject : ReportSubject) :
    (s.damageRecord n r subject).Ranged := by
  unfold State.damageRecord
  split
  · exact h
  · exact (((h.putRecord rfl).releaseBodyPin _).endJobOn _ _).dropEntryOn _ _

theorem endUnread (h : s.Ranged) (hd : Handle) (subject : ReportSubject) : (s.endUnread hd subject).Ranged := by
  unfold State.endUnread
  split
  · exact h
  · exact (h.endJobOn _ _).markBusy _ _

theorem retire (h : s.Ranged) (n : Nat) (r : Rec) : (s.retire n r).Ranged := by
  have removed (v : State) (hv : v.Ranged) : (v.freeSlot n).Ranged :=
    { hv with deadlines := fun c hc => hv.deadlines c (eraseCell_subset n _ c hc) }
  unfold State.retire
  refine removed _ (State.Ranged.dropEntryOn ?_ _ _)
  split
  · exact (h.releaseBodyPin r.body).frame rfl rfl rfl rfl rfl rfl rfl rfl
  · exact h.releaseBodyPin r.body

theorem join (h : s.Ranged) {e : QueueEntry} (he : e.eg ≤ 3) : (s.join e).Ranged := by
  refine (h.setQueue (queue := s.queue ++ [e]) fun x hx => ?_).markQueued _ _
  rcases List.mem_append.1 hx with hx | hx
  · exact h.queue x hx
  · rwa [List.mem_singleton.1 hx]

theorem removeEntryOf (h : s.Ranged) (q : Requester) : (s.removeEntryOf q).Ranged := by
  unfold State.removeEntryOf
  split
  · exact h
  · exact (h.filterQueue _).markQueued _ _

theorem discardJobOf (h : s.Ranged) (q : Requester) : (s.discardJobOf q).Ranged := by
  unfold State.discardJobOf
  split
  · exact h
  · refine h.setUnit fun j hj => ?_
    obtain ⟨k, hk, rfl⟩ := Option.map_eq_some_iff.1 hj
    obtain ⟨⟨eg, found, seen⟩, edition⟩ := h.jobs _ k hk
    exact ⟨⟨eg, found, seen⟩, edition⟩

theorem endJob (h : s.Ranged) (u : UnitNo) (j : Job) : (s.endJob u j).Ranged :=
  ((h.releasePin j.bank).markBusy _ _).clearUnit u

/-- A grant: the entry's EG goes with the job (R71). -/
theorem granted (h : s.Ranged) {e : QueueEntry} {u : UnitNo} {l : BankLetter} {r : Rec} (edition : Nat)
    (values : JobValues) (he : e ∈ s.queue) (hl : (s.bank l).state.edition ≠ none) (hr : r.body.deadlineOk = true) :
    (s.granted e u l edition values r).Ranged := by
  unfold State.granted
  refine State.Ranged.takePin (State.Ranged.putRecord ((h.filterQueue _).setUnit fun j hj => ?_) ?_) l
  · cases hj
    exact ⟨⟨h.queue e he, (fun _ hf => nomatch hf), fun _ hx => nomatch hx⟩, hl⟩
  · exact hr

/-! ### Reads of bank entries (R37, R47) -/

theorem readAhead (h : s.Ranged) (l : BankLetter) (e : BankEntry) (own : Option UnitNo) (u : UnitNo) :
    (readAhead l e own s u).Ranged := by
  unfold Machine.readAhead
  split
  · exact h
  · rename_i j hj
    split
    · rename_i hc
      obtain ⟨job, edition⟩ := h.jobs u j hj
      have hl : j.bank = l := by
        simp only [Bool.and_eq_true, decide_eq_true_eq] at hc
        exact hc.1.1
      refine State.Ranged.frame (h.setUnit fun k hk => ?_) rfl rfl rfl rfl rfl rfl rfl rfl
      cases hk
      exact ⟨job.readOn (hl ▸ h.banks _ edition) e _, edition⟩
    · exact h

theorem jobsReadOn (h : s.Ranged) (l : BankLetter) (e : BankEntry) (own : Option UnitNo) :
    (s.jobsReadOn l e own).Ranged := by
  unfold State.jobsReadOn
  generalize ([0, 1, 2, 3] : List UnitNo) = units
  induction units generalizing s with
  | nil => exact h
  | cons u rest ih => exact ih (h.readAhead l e own u)

theorem failBankEntry (h : s.Ranged) (l : BankLetter) (e : BankEntry) (reader : Reader) (own : Option UnitNo) :
    (s.failBankEntry l e reader own).Ranged :=
  ((h.jobsReadOn l e own).regrade (by rw [(Bank.damage_frame _ e).1]) fun hb => hb.damage e).report _ _

/-- A running job's own failing read, whose fault has no grades. -/
theorem jobReadFails (h : s.Ranged) {u : UnitNo} {j : Job} (hu : s.unit u = some j) (e : BankEntry) {f : FaultReport}
    (hf : f.grades = none) : (s.jobReadFails u j e f).Ranged := by
  obtain ⟨job, edition⟩ := h.jobs u j hu
  refine (h.failBankEntry j.bank e (.unit u) (some u)).setUnit fun k hk => ?_
  cases hk
  refine ⟨⟨job.eg, fun g hg => ?_, job.seen⟩, ?_⟩
  · cases hg
    simp [hf]
  · show ((s.failBankEntry j.bank e (.unit u) (some u)).bank j.bank).state.edition ≠ none
    rwa [State.failBankEntry_bank, (Bank.damage_frame _ e).1]

/-! ### The soft reset, time and the hard reset -/

theorem softResetPosition (h : s.Ranged) (p : PositionNo) : (s.softResetPosition p).Ranged := by
  have old := h.ctx p
  unfold State.softResetPosition
  cases hc : s.ctx p with
  | closed => exact h
  | opened session res =>
    rw [hc] at old
    exact h.opened (by simpa [Context.inRange] using old)
  | working session pend res request =>
    rw [hc] at old
    dsimp only
    split
    · exact (h.answer _ _).opened (by simpa [Context.inRange] using old)
    · exact h.setCtx (by simpa [Context.inRange] using old)
  | escalated session slot =>
    rw [hc] at old
    exact h.endEscalation p _ (by
      simp only [Context.inRange, Bool.and_eq_true, decide_eq_true_eq] at old
      exact old.1)
  | suspended session saved =>
    rw [hc] at old
    have grade : 1 ≤ session.grade ∧ session.grade ≤ 3 := by
      simp only [Context.inRange, Bool.and_eq_true, decide_eq_true_eq] at old
      exact old.1
    cases saved with
    | opened => exact h.opened grade
    | escalated slot => exact h.endEscalation p _ grade

theorem softResetDispatch (h : s.Ranged) : s.softResetDispatch.Ranged := by
  unfold State.softResetDispatch
  split
  · exact (h.answer .dispatch .reset).frame rfl rfl rfl rfl rfl rfl rfl rfl
  · exact h

theorem softResetQueue (h : s.Ranged) : s.softResetQueue.Ranged := by
  have cleared (l : List QueueEntry) (v : State) (hv : v.Ranged) :
      (l.foldl (fun t e => t.markQueued e.handle.slot false) v).Ranged := by
    induction l generalizing v with
    | nil => exact hv
    | cons e rest ih => exact ih _ (hv.markQueued _ _)
  exact (cleared s.queue s h).setQueue (queue := []) fun _ he => absurd he List.not_mem_nil

theorem beginDrain (h : s.Ranged) : s.beginDrain.Ranged := by
  have positions (l : List PositionNo) (v : State) (hv : v.Ranged) : (l.foldl State.softResetPosition v).Ranged := by
    induction l generalizing v with
    | nil => exact hv
    | cons p rest ih => exact ih _ (hv.softResetPosition p)
  have drained (v : State) (hv : v.Ranged) : State.Ranged { v with
      grantState := .draining, bankA := v.bankA.unscheduled, bankB := v.bankB.unscheduled } := by
    refine (hv.setGrantState (g := .draining) rfl).congr (fun l => ?_) rfl rfl rfl rfl rfl rfl
    cases l
    · exact v.bankA.unscheduled_like
    · exact v.bankB.unscheduled_like
  exact drained _ (positions (List.finRange 24) s h).softResetDispatch.softResetQueue

theorem countDown (h : s.Ranged) : s.countDown.Ranged := by
  have body (r : Rec) (hr : r.body.deadlineOk = true) : r.tick.body.deadlineOk = true := by
    unfold Rec.tick
    split
    · rename_i e q l d hb
      rw [hb] at hr
      simp only [RecordBody.deadlineOk, decide_eq_true_eq] at hr ⊢
      omega
    · exact hr
  have context (c : Context) (hc : c.inRange = true) : c.tick.inRange = true := by
    cases c with
    | escalated session slot =>
      simp only [Context.tick, Context.inRange, NormalSlot.inRange, Bool.and_eq_true, decide_eq_true_eq] at hc ⊢
      omega
    | _ => exact hc
  unfold State.countDown
  split
  · exact h
  · have counted : State.Ranged { s with positions := s.positions.map Context.tick } :=
      { h with ctx := fun p => by simpa [State.ctx, Vector.get] using context (s.ctx p) (h.ctx p) }
    refine (counted.setRecords (records := s.table.records.mapValues Rec.tick) fun c hc => ?_).congr (fun l => ?_)
      rfl rfl rfl rfl rfl rfl
    · obtain ⟨d, hd, rfl⟩ := List.mem_map.1 hc
      exact body d.2 (h.deadlines d hd)
    · cases l
      · exact s.bankA.tick_like
      · exact s.bankB.tick_like

theorem hardResetValues (s : State) (asserted : Bool) : (s.hardResetValues asserted).Ranged := by
  have queue : (s.hardResetValues asserted).queue = [] := rfl
  have records : (s.hardResetValues asserted).table.records.cells = [] := rfl
  refine ⟨fun p => ?_, by simp [queue], fun u j hu => ?_, fun l => ?_, rfl, rfl, by simp [records]⟩
  · simp [State.ctx, State.hardResetValues, State.reset, Vector.get, Context.inRange]
  · simp [State.unit, State.hardResetValues, State.reset, Vector.get] at hu
  · cases l <;> exact fun h => absurd rfl h

end State.Ranged

end Sys2Proof.Machine
end

section
/-! SUPPORT. One relation between the states of a step for both laws: what keeps the requests in step and the grades and
times in range; the operations that commands share. -/
namespace Sys2Proof.Machine

variable {s t v : State} {x y z : Option Requester} {P : Prop}

/-- From `s`, where the request of `x` is looked at, to `t`, where that of `y` is: both laws go over, that of the grades and
times under an assumption `P` on the state that the step began in. -/
structure State.Keeps (P : Prop) (x : Option Requester) (s : State) (y : Option Requester) (t : State) : Prop where
  inStep : s.InStep x → t.InStep y
  ranged : P → s.Ranged → t.Ranged

namespace State.Keeps

theorem refl (s : State) : s.Keeps P x x s := ⟨id, fun _ => id⟩

theorem trans (h : s.Keeps P x y t) (k : t.Keeps P y z v) : s.Keeps P x z v :=
  ⟨fun i => k.inStep (h.inStep i), fun p r => k.ranged p (h.ranged p r)⟩

/-- The requests are left alone. -/
theorem still (hr : P → s.Ranged → t.Ranged) (hp : t.positions = s.positions := by simp)
    (hlp : t.links.positions = s.links.positions := by simp) (hld : t.links.dispatch = s.links.dispatch := by simp)
    (hw : t.pendingReweigh = s.pendingReweigh := by simp) (hq : t.queue = s.queue := by simp)
    (hu : t.units = s.units := by simp) (ht : t.table.records = s.table.records := by simp)
    (hg : t.table.generations = s.table.generations := by simp) : s.Keeps P x x t :=
  ⟨fun h => h.congr ht hg hq (State.running_congr hu) (.of_eq hlp hld hp hw), hr⟩

/-- Nothing that the laws speak of changes. -/
theorem frame (hp : t.positions = s.positions := by simp)
    (hlp : t.links.positions = s.links.positions := by simp) (hld : t.links.dispatch = s.links.dispatch := by simp)
    (hw : t.pendingReweigh = s.pendingReweigh := by simp) (hq : t.queue = s.queue := by simp)
    (hu : t.units = s.units := by simp) (ht : t.table.records = s.table.records := by simp)
    (hg : t.table.generations = s.table.generations := by simp) (ha : t.bankA = s.bankA := by simp)
    (hb : t.bankB = s.bankB := by simp) (hs : t.grantState = s.grantState := by simp)
    (hm : t.timers = s.timers := by simp) : s.Keeps P x x t :=
  .still (fun _ h => h.frame hp hq hu ha hb hs hm ht) hp hlp hld hw hq hu ht hg

theorem judge (s : State) : s.Keeps P x x s.judge := .frame rfl rfl rfl rfl rfl rfl rfl rfl rfl rfl rfl rfl

theorem raise (s : State) (c : Cause) : s.Keeps P x x (s.raise c) := .frame

theorem report (s : State) (subject : ReportSubject) (reader : Reader) : s.Keeps P x x (s.report subject reader) := .frame

theorem answer (s : State) (l : Link) (a : Answer) : s.Keeps P (asker l) none (s.answer l a) :=
  ⟨fun h => h.answer a, fun _ h => h.answer l a⟩

/-! ### Records -/

/-- A record is rewritten, its marks kept. -/
theorem rewrite {n : Nat} {r r' : Rec} (hr : s.record n = some r) (hq : r'.queued = r.queued) (hb : r'.busy = r.busy)
    (hd : s.Ranged → r'.body.deadlineOk = true) : s.Keeps P x x (s.putRecord n r') :=
  ⟨fun h => h.rewrite hr hq hb, fun _ h => h.putRecord (hd h)⟩

/-- A record changes to a body other than PRINTING. -/
theorem change {n : Nat} {r : Rec} {b : RecordBody} (hr : s.record n = some r) (hb : b.deadlineOk = true) :
    s.Keeps P x x (s.putRecord n (r.change b)) := .rewrite hr rfl rfl fun _ => hb

theorem takePin (s : State) (l : BankLetter) : s.Keeps P x x (s.takePin l) := .still fun _ h => h.takePin l

theorem releasePin (s : State) (l : BankLetter) : s.Keeps P x x (s.releasePin l) := .still fun _ h => h.releasePin l

theorem releaseBodyPin (s : State) (r : RecordBody) : s.Keeps P x x (s.releaseBodyPin r) :=
  .still fun _ h => h.releaseBodyPin r

theorem damageRecord (s : State) (n : Nat) (r : Rec) (subject : ReportSubject) :
    s.Keeps P x x (s.damageRecord n r subject) :=
  ⟨fun h => h.damageRecord n r subject, fun _ h => h.damageRecord n r subject⟩

theorem endUnread (s : State) (h : Handle) (subject : ReportSubject) : s.Keeps P x x (s.endUnread h subject) :=
  ⟨fun i => i.endUnread h subject, fun _ r => r.endUnread h subject⟩

theorem retire {n : Nat} {r : Rec} (hr : s.record n = some r) (hb : r.busy = false) : s.Keeps P x x (s.retire n r) :=
  ⟨fun h => h.retire hr hb, fun _ h => h.retire n r⟩

theorem toDraft {n : Nat} {r : Rec} (hr : s.record n = some r) (e : Entered) : s.Keeps P x x (s.toDraft n r e) :=
  .trans (.change hr rfl) (.releaseBodyPin _ _)

theorem unprint {n : Nat} {r : Rec} (hr : s.record n = some r) (e : Entered) (q : Quote) (l : Label) :
    s.Keeps P x x (s.unprint n r e q l) := by
  have erased : s.Keeps P x x (s.eraseIndex l.serial) := .frame rfl rfl rfl rfl rfl rfl rfl rfl rfl rfl rfl rfl
  have here : (s.eraseIndex l.serial).record n = some r := hr
  unfold State.unprint
  dsimp only
  split
  · exact erased.trans (.toDraft here e)
  · exact erased.trans (.change here rfl)

/-! ### Reads of records (R177) -/

theorem readAt (s : State) (reader : Reader) (n : Nat) (r : Rec) : s.Keeps P x x (s.readAt reader n r).1 := by
  unfold State.readAt
  split
  · exact .refl s
  · exact .trans (.damageRecord s n r _) (.report _ _ reader)

theorem lookupHandle (s : State) (reader : Reader) (h : Handle) : s.Keeps P x x (s.lookupHandle reader h).1 := by
  unfold State.lookupHandle
  split
  · exact .refl s
  · exact .readAt s reader _ _

theorem failIndexEntry (s : State) (reader : Reader) (serial : Nat) (e : IndexEntry) :
    s.Keeps P x x (s.failIndexEntry reader serial e).1 := by
  have marked : s.Keeps P x x (s.putIndex serial { e with failed := true }) :=
    .frame rfl rfl rfl rfl rfl rfl rfl rfl rfl rfl rfl rfl
  simp only [State.failIndexEntry]
  refine marked.trans (.trans ?_ (.report _ _ reader))
  split
  · exact .refl _
  · split
    · exact .refl _
    · exact .damageRecord _ _ _ _

theorem lookupSerial (s : State) (reader : Reader) (serial : Nat) : s.Keeps P x x (s.lookupSerial reader serial).1 := by
  unfold State.lookupSerial
  split
  · exact .refl s
  · split
    · exact .refl s
    · split
      · split
        · exact .refl s
        · exact .readAt s reader _ _
      · exact .failIndexEntry s reader serial _

theorem lookupItems (s : State) (reader : Reader) (items : List Item) : s.Keeps P x x (s.lookupItems reader items).1 := by
  unfold State.lookupItems
  split
  · exact .lookupHandle s reader _
  · split
    · exact .lookupSerial s reader _
    · exact .refl s

theorem readAll (s : State) (reader : Reader) : s.Keeps P x x (s.readAll reader) := by
  unfold State.readAll
  generalize s.table.records.cells.map (·.1) = slots
  induction slots generalizing s with
  | nil => exact .refl s
  | cons n rest ih =>
    unfold readEach
    split
    · exact ih s
    · exact (Keeps.readAt s reader n _).trans (ih _)

/-! ### Banks -/

/-- A bank changes, its slots graded as before. -/
theorem setBank {l : BankLetter} {b : Bank} (he : b.state.edition = none ↔ (s.bank l).state.edition = none)
    (hg : P → s.Ranged → (s.bank l).Graded → b.Graded) : s.Keeps P x x (s.setBank l b) :=
  .still fun p h => h.regrade he (hg p h)

/-- A bank changes its state, and is past LOADING if it was. -/
theorem setBankState {l : BankLetter} {st : BankState} (he : st.edition = none ↔ (s.bank l).state.edition = none) :
    s.Keeps P x x (s.setBank l { s.bank l with state := st }) :=
  .setBank he fun _ _ h => h.like (.of_state _ _ he)

theorem failBankEntry (s : State) (l : BankLetter) (e : BankEntry) (reader : Reader) (own : Option UnitNo) :
    s.Keeps P x x (s.failBankEntry l e reader own) :=
  ⟨fun h => h.failBankEntry l e reader own, fun _ h => h.failBankEntry l e reader own⟩

/-! ### The grace expiry and the switch (R154, R157) -/

theorem lapseEach (slots : List Nat) (s : State) : s.Keeps P x x (lapseEach slots s).1 := by
  induction slots generalizing s with
  | nil => exact .refl s
  | cons n rest ih =>
    unfold Machine.lapseEach
    split
    · exact ih s
    · rename_i r hr
      have read : s.Keeps P x x (s.readAt .graceExpiry n r).1 := .readAt s _ n r
      split
      · rename_i t m q hf
        obtain ⟨rfl, rfl, rfl, -⟩ := State.readAt_found hf
        split
        · exact (Keeps.toDraft hr _).trans (ih _)
        · exact ih _
      · rename_i t found hf
        rw [hf] at read
        exact read.trans (ih _)

theorem expireGrace (s : State) (l : BankLetter) : s.Keeps P x x (s.expireGrace l) := by
  have lapsed : s.Keeps P x x (Machine.lapseEach (ratedOn l s.table.records.cells) s).1 := .lapseEach _ s
  unfold State.expireGrace
  generalize Machine.lapseEach (ratedOn l s.table.records.cells) s = r at lapsed
  have expired : r.1.Keeps P x x (match (r.1.bank l).state with
      | .retiring ed _ => r.1.setBank l { r.1.bank l with state := .retiring ed .expired }
      | _ => r.1) := by
    split
    · rename_i ed grace hst
      exact .setBankState (by simp [hst, BankState.edition])
    · exact .refl _
  dsimp only
  split
  · exact lapsed.trans (expired.trans (.raise _ _))
  · exact lapsed.trans expired

theorem takeSwitch (s : State) (l : BankLetter) : s.Keeps P x x (s.takeSwitch l) := by
  unfold State.takeSwitch
  split
  · rename_i ed effective grace hst
    have active : s.Keeps P x x (s.setBank l { s.bank l with state := .active ed }) :=
      .setBankState (by simp [hst, BankState.edition])
    have outgoing (v : State) : v.Keeps P x x (v.retireOutgoing (otherBank l) grace) :=
      .still fun _ h => h.retireOutgoing _ _
    have taken := active.trans ((outgoing _).trans (.raise _ .switchTaken))
    dsimp only
    split
    · exact taken.trans (.expireGrace _ _)
    · exact taken
  · exact .refl s

theorem switchIfDue (s : State) : s.Keeps P x x s.switchIfDue := by
  unfold State.switchIfDue
  split
  · exact .takeSwitch s _
  · exact .refl s

/-! ### Contexts and entries -/

/-- A context changes, its position standing as it did. -/
theorem setCtx {p : PositionNo} {c : Context} (hw : c.isWorking = (s.ctx p).isWorking)
    (hh : c.holdsRequest = (s.ctx p).holdsRequest) (hc : P → s.Ranged → c.inRange = true) :
    s.Keeps P x x (s.setCtx p c) :=
  ⟨fun h => h.setCtx hw hh, fun p h => h.setCtx (hc p h)⟩

/-- A requester's entry goes and the requester is answered. -/
theorem withdraw {q : Requester} {e : QueueEntry} (he : s.entryOf q = some e) (a : Answer) :
    s.Keeps P x x ((s.removeEntryOf q).answerRequester q a) :=
  ⟨fun h => h.withdraw he a, fun _ h => (h.removeEntryOf q).answerRequester q a⟩

end State.Keeps

/-! ### Outcomes -/

/-- Wherever an outcome goes on, it has kept both laws, every request answered or held. -/
def State.KeepsTo (P : Prop) (x : Option Requester) (s : State) (o : Outcome) : Prop :=
  ∀ t, o = .next t → s.Keeps P x none t

namespace State.KeepsTo

theorem next (h : s.Keeps P x none t) : s.KeepsTo P x (.next t) := by
  rintro _ ⟨⟩
  exact h

/-- The conditions judged in the end. -/
theorem judge (h : s.Keeps P x none t) : s.KeepsTo P x (.next t.judge) := .next (h.trans (.judge t))

theorem reply {l : Link} (h : s.Keeps P x (asker l) t) (a : Answer) : s.KeepsTo P x (t.reply l a) :=
  .next (h.trans (.answer t l a))

theorem finish {l : Link} (h : s.Keeps P x (asker l) t) (a : Answer) : s.KeepsTo P x (t.finish l a) :=
  .judge (h.trans (.answer t l a))

theorem after (h : s.Keeps P x y t) {o : Outcome} (ho : t.KeepsTo P y o) : s.KeepsTo P x o :=
  fun v hv => h.trans (ho v hv)

theorem refl (s : State) : s.KeepsTo P none (.next s) := .next (.refl s)

end State.KeepsTo

/-! ### The path of a request (R187, R183, R117, R80) -/

/-- The state in which a request that the link accepts reaches its body. -/
theorem State.hold_keeps {k : Kind} {h : Header} (ho : (s.link h.link).outstanding = none) :
    s.Keeps P none (asker h.link) (s.hold h.link k h.tag) :=
  ⟨fun i => i.hold k h.tag ho, fun _ r => r.hold h.link k h.tag⟩

/-- The link's own checks, passed. -/
theorem linkRefusal_none {k : Kind} {l : Link} {ok : Bool} (h : linkRefusal s k l ok = none) (hk : k ≠ .cancel) :
    sortOf l = linkSort k ∧ (s.link l).outstanding = none ∧ ok = true := by
  unfold linkRefusal at h
  split at h
  · cases h
  · rename_i sort
    split at h
    · cases h
    · rename_i busy
      split at h
      · rename_i accepted
        exact ⟨not_not.1 sort, by simpa [hk] using busy, accepted⟩
      · cases h

theorem request_keepsTo {k : Kind} {h : Header} {ok : Bool} {body : State → Outcome} (hk : k ≠ .cancel)
    (hb : sortOf h.link = linkSort k → ok = true →
      (s.hold h.link k h.tag).KeepsTo P (asker h.link) (body (s.hold h.link k h.tag))) :
    s.KeepsTo P none (request k h ok s body) := by
  unfold request
  split
  · exact .refl s
  · split
    · exact .next .frame
    · rename_i taken
      obtain ⟨sort, free, accepted⟩ := linkRefusal_none taken hk
      exact .after (State.hold_keeps free) (hb sort accepted)

theorem haltedRequest_keepsTo {k : Kind} {h : Header} {ok : Bool} {body : State → Outcome} (hk : k ≠ .cancel)
    (hb : sortOf h.link = linkSort k → ok = true →
      (s.hold h.link k h.tag).KeepsTo P (asker h.link) (body (s.hold h.link k h.tag))) :
    s.KeepsTo P none (haltedRequest k h ok s body) :=
  request_keepsTo hk fun sort accepted => by
    split
    · exact .reply (.refl _) _
    · exact hb sort accepted

theorem asker_of_supervisor {l : Link} (h : sortOf l = .supervisor) : asker l = none := by
  cases l <;> first | rfl | cases h

/-- A supervisor request: no requester's request is looked at. -/
theorem supervisorRequest_keepsTo {k : Kind} {h : Header} {ok : Bool} {body : State → Outcome} (hk : k ≠ .cancel)
    (hs : linkSort k = .supervisor) (hb : asker h.link = none → ok = true →
      (s.hold h.link k h.tag).KeepsTo P none (body (s.hold h.link k h.tag))) :
    s.KeepsTo P none (haltedRequest k h ok s body) :=
  haltedRequest_keepsTo hk fun sort accepted => by
    have link := asker_of_supervisor (sort.trans hs)
    rw [link]
    exact hb link accepted

/-- A position's request: its position is OPEN, and no request of it waits or is held. -/
theorem positionRequest_keepsTo {k : Kind} {h : Header} {ok : Bool}
    {body : PositionNo → Session → Option Reservation → State → Outcome} (hk : k ≠ .cancel)
    (hb : ∀ p session res (v : State), h.link = .position p → ok = true → v.ctx p = .opened session res →
      v.KeepsTo P (some (.position p)) (body p session res v)) :
    s.KeepsTo P none (positionRequest k h ok s body) :=
  request_keepsTo hk fun _ accepted => by
    split
    · rename_i p hp
      rw [hp]
      split
      · exact .reply (.refl _) _
      · split
        · exact .reply (.refl _) _
        · exact .reply (.refl _) _
        · exact hb p _ _ _ hp accepted ‹_›
        · exact .reply (.refl _) _
        · exact .reply (.refl _) _
    · exact .reply (.refl _) _

theorem withRecord_keepsTo {p : PositionNo} {items : List Item} {refusing : Rec → Bool}
    {body : Handle → Rec → State → Outcome}
    (hb : ∀ h r, s.Finds h r → s.record h.slot = some r → refusing r = false →
      s.KeepsTo P (some (.position p)) (body h r s)) :
    s.KeepsTo P (some (.position p)) (withRecord p items s refusing body) := by
  intro t ht
  rcases withRecord_cases ht with ⟨a, rfl⟩ | ⟨h, a, rfl⟩ | ⟨h, r, -, hf, free, -, hn⟩
  · exact .answer s (.position p) a
  · exact ((State.Keeps.lookupHandle s (.position p) h).trans (.answer _ (.position p) a)).trans (.judge _)
  · exact hb h r hf (State.record_of_find hf.1) free t hn

theorem atPosition_keepsTo {k : Kind} {h : Header} {items : List Item} {body : PositionNo → State → Outcome}
    (hk : k ≠ .cancel) (hs : linkSort k = .supervisor)
    (hb : ∀ p (v : State), asker h.link = none → itemsAccepted k items = true → v.KeepsTo P none (body p v)) :
    s.KeepsTo P none (atPosition k h items s body) :=
  supervisorRequest_keepsTo hk hs fun link accepted => by
    split
    · exact .reply (link ▸ .refl _) _
    · exact hb _ _ link accepted

theorem bankRequest_keepsTo {k : Kind} {h : Header} {items : List Item} {body : BankLetter → State → Outcome}
    (hk : k ≠ .cancel) (hs : linkSort k = .supervisor)
    (hb : ∀ l, asker h.link = none → takenIn k (s.bank l).state.name = true →
      (s.hold h.link k h.tag).KeepsTo P none (body l (s.hold h.link k h.tag))) :
    s.KeepsTo P none (bankRequest k h items s body) :=
  supervisorRequest_keepsTo hk hs fun link _ => by
    split
    · exact .reply (link ▸ .refl _) _
    · split
      · rename_i taken
        rw [State.bank_hold] at taken
        exact hb _ link taken
      · exact .reply (link ▸ .refl _) _

theorem labelledBySerial_keepsTo {l : Link} {serial : Nat} {refusing : Rec → Bool}
    {body : Nat → Rec → Entered → Quote → Label → Nat → Option ReweighPart → State → Outcome}
    (hb : ∀ n r e q lab adj rw, s.record n = some r → refusing r = false → r.body = .labelled e q lab adj rw →
      s.KeepsTo P (asker l) (body n r e q lab adj rw s)) :
    s.KeepsTo P (asker l) (labelledBySerial l serial refusing s body) := by
  have read : s.Keeps P (asker l) (asker l) (s.lookupSerial .dispatch serial).1 := .lookupSerial s .dispatch serial
  unfold labelledBySerial
  split
  · rename_i t h
    rw [h] at read
    exact .reply read _
  · rename_i t subject h
    rw [h] at read
    exact .finish read _
  · rename_i t n r h
    obtain ⟨rfl, hr, -⟩ := State.lookupSerial_found h
    split
    · exact .reply (.refl _) _
    · rename_i free
      split
      · exact .reply (.refl _) _
      · exact .reply (.refl _) _
      · exact .reply (.refl _) _
      · exact hb _ _ _ _ _ _ _ hr (by simpa using free) ‹_›
      · exact .reply (.refl _) _
      · exact .reply (.refl _) _

theorem heldRecord_keepsTo {l : Link} {items : List Item}
    {body : Nat → Rec → Entered → Quote → Label → Nat → ReweighPart → State → Outcome}
    (hb : ∀ n r e q lab adj rw, s.record n = some r → r.busy = false →
      s.KeepsTo P (asker l) (body n r e q lab adj rw s)) : s.KeepsTo P (asker l) (heldRecord l items s body) := by
  have read : s.Keeps P (asker l) (asker l) (s.lookupItems .supervisor items).1 := .lookupItems s .supervisor items
  unfold heldRecord
  split
  · rename_i t h
    rw [h] at read
    exact .reply read _
  · rename_i t subject h
    rw [h] at read
    exact .finish read _
  · rename_i t n r h
    obtain ⟨rfl, hr, -⟩ := State.lookupItems_found h
    split
    · exact .reply (.refl _) _
    · rename_i free
      split
      · exact .reply (.refl _) _
      · exact hb _ _ _ _ _ _ _ hr (by simpa using free)
      · exact .reply (.refl _) _

end Sys2Proof.Machine
end

section
/-! SUPPORT. The grades and the times that accepted items carry (R189, R199), and the requests of a position (05, 06): each
keeps both laws. -/
namespace Sys2Proof.Machine

variable {s t : State} {P : Prop}

/-! ### Accepted items -/

theorem inRange_of_accepted {k : Kind} {items : List Item} (h : itemsAccepted k items = true) (hk : k ≠ .setAttributes) :
    ∀ i ∈ items, itemInRange k i = true := by
  simp only [itemsAccepted, Bool.and_eq_true, List.all_eq_true] at h
  intro i hi
  simpa [judgedByTable, hk] using (h.1.1.1.1 i hi).1.2

theorem statedGrade_le {k : Kind} {items : List Item} {g : Nat} (h : itemsAccepted k items = true)
    (hk : k ≠ .setAttributes) (hg : statedGradeOf items = some g) : g ≤ 3 := by
  obtain ⟨i, hi, he⟩ := List.exists_of_findSome?_eq_some hg
  have range := inRange_of_accepted h hk i hi
  cases i <;> simp only [reduceCtorEq, Option.some.injEq] at he
  subst he
  simpa [itemInRange, within] using range

/-- The grade of OPEN POSITION is 1 to 3, that of GRANT 0 to 3. -/
theorem grade_le {k : Kind} {items : List Item} {g : Nat} (h : itemsAccepted k items = true) (hk : k ≠ .setAttributes)
    (hg : gradeOf items = some g) : g ≤ 3 ∧ (k = .openPosition → 1 ≤ g) := by
  obtain ⟨i, hi, he⟩ := List.exists_of_findSome?_eq_some hg
  have range := inRange_of_accepted h hk i hi
  cases i <;> simp only [reduceCtorEq, Option.some.injEq] at he
  subst he
  simp only [itemInRange, within] at range
  split at range
  · simp only [Bool.and_eq_true, decide_eq_true_eq] at range
    exact ⟨range.2, fun _ => range.1⟩
  · simp only [Bool.and_eq_true, decide_eq_true_eq] at range
    exact ⟨range.2, fun e => absurd e ‹_›⟩

theorem patchGrade_le {items : List Item} (h : itemsAccepted .patch items = true) : (patchGradeOf items).getD 0 ≤ 3 := by
  cases hg : patchGradeOf items with
  | none => exact Nat.zero_le 3
  | some g =>
    obtain ⟨i, hi, he⟩ := List.exists_of_findSome?_eq_some hg
    have range := inRange_of_accepted h (by decide) i hi
    cases i <;> simp only [reduceCtorEq, Option.some.injEq] at he
    subst he
    simp only [itemInRange, within, Bool.or_eq_true, Bool.and_eq_true, beq_iff_eq, decide_eq_true_eq] at range
    show _ ≤ 3
    simp only [Option.getD_some]
    omega

/-- The settings that SET TIMERS leaves are in range. -/
theorem timers_inRange {items : List Item} {v : Timers} (h : itemsAccepted .setTimers items = true)
    (hv : v.inRange = true) : Timers.inRange
      ⟨(printDeadlineOf items).getD v.printDeadline, (escalationTimeoutOf items).getD v.escalationTimeout⟩ = true := by
  simp only [Timers.inRange, Bool.and_eq_true, decide_eq_true_eq] at hv ⊢
  obtain ⟨⟨⟨low, high⟩, low'⟩, high'⟩ := hv
  have deadline : 10 ≤ (printDeadlineOf items).getD v.printDeadline ∧ (printDeadlineOf items).getD v.printDeadline ≤ 600 := by
    cases hg : printDeadlineOf items with
    | none => exact ⟨low, high⟩
    | some n =>
      obtain ⟨i, hi, he⟩ := List.exists_of_findSome?_eq_some hg
      have range := inRange_of_accepted h (by decide) i hi
      cases i <;> simp only [reduceCtorEq, Option.some.injEq] at he
      subst he
      simpa [itemInRange, within] using range
  have timeout : 30 ≤ (escalationTimeoutOf items).getD v.escalationTimeout ∧
      (escalationTimeoutOf items).getD v.escalationTimeout ≤ 1800 := by
    cases hg : escalationTimeoutOf items with
    | none => exact ⟨low', high'⟩
    | some n =>
      obtain ⟨i, hi, he⟩ := List.exists_of_findSome?_eq_some hg
      have range := inRange_of_accepted h (by decide) i hi
      cases i <;> simp only [reduceCtorEq, Option.some.injEq] at he
      subst he
      simpa [itemInRange, within] using range
  exact ⟨⟨⟨deadline.1, deadline.2⟩, timeout.1⟩, timeout.2⟩

/-! ### A position whose request is looked at -/

section
variable {p : PositionNo} {session : Session} {res : Option Reservation}

/-- An OPEN position's session grade (R115). -/
theorem State.Ranged.sessionGrade (h : s.Ranged) (hc : s.ctx p = .opened session res) :
    1 ≤ session.grade ∧ session.grade ≤ 3 := by
  simpa [hc, Context.inRange] using h.ctx p

/-- EG of a position's request (R45). -/
theorem State.Ranged.effectiveGrade_le (h : s.Ranged) (hc : s.ctx p = .opened session res) {k : Kind}
    {items : List Item} (ha : itemsAccepted k items = true) (hk : k ≠ .setAttributes) :
    effectiveGrade session (statedGradeOf items) ≤ 3 := by
  refine Nat.max_le.2 ⟨(h.sessionGrade hc).2, ?_⟩
  cases hg : statedGradeOf items with
  | none => exact Nat.zero_le 3
  | some g => exact statedGrade_le ha hk hg

namespace State.Keeps

/-- The reservation of an OPEN position is written or goes. -/
theorem reserve (hc : s.ctx p = .opened session res) (res' : Option Reservation) {x : Option Requester} :
    s.Keeps P x x (s.setCtx p (.opened session res')) :=
  .setCtx (by rw [hc]; rfl) (by rw [hc]; rfl) fun _ h => by simpa [Context.inRange] using h.sessionGrade hc

/-- A request looked at is escalated, or answered with its fault (R123). -/
theorem escalate (hc : s.ctx p = .opened session res) (request : HeldRequest) {needed : Nat} (report : FaultReport)
    (hn : needed ≤ 3) :
    s.Keeps P (some (.position p)) none (s.escalate p session false request needed report) := by
  refine ⟨fun h => ?_, fun _ h => h.escalate p false request report (h.sessionGrade hc) hn⟩
  unfold State.escalate
  split
  · exact h.escalate rfl rfl
  · have answered : (s.answer (.position p) (.fault report)).InStep none := h.answer (l := .position p) _
    have stays : (s.answer (.position p) (.fault report)).ctx p = s.ctx p := by
      rw [State.ctx, State.answer_positions]
      rfl
    refine answered.setCtx ?_ ?_ <;> rw [stays, hc] <;> rfl

/-- A request looked at joins the queue (R68). -/
theorem join (hc : s.ctx p = .opened session res) {e : QueueEntry} {r : Rec} (request : HeldRequest)
    (res' : Option Reservation) (hp : e.requester = .position p) (hf : s.find e.handle = some r)
    (hr : refusedMarked r = false) (he : P → s.Ranged → e.eg ≤ 3) :
    s.Keeps P (some (.position p)) none ((s.join e).setCtx p (.working session false res' request)) := by
  rw [refusedMarked, Bool.or_eq_false_iff] at hr
  exact ⟨fun h => h.joinPosition hp hf hr.2 hr.1 rfl rfl, fun hP h => (h.join (he hP h)).setCtx (by
    simpa [Context.inRange] using h.sessionGrade hc)⟩

end State.Keeps

/-- The record a handle finds after it is rewritten. -/
theorem State.find_of_rewritten {h : Handle} {r r' : Rec} (hf : s.find h = some r)
    (ht : t.table = (s.putRecord h.slot r').table) : t.find h = some r' := by
  have handle := s.handleAt_of_find hf
  have generation : t.generation h.slot = h.gen := by
    rw [State.generation, ht]
    exact congrArg Handle.gen handle
  have record : t.record h.slot = some r' := by
    rw [State.record, ht]
    exact Table.get_insert_same _ _ _
  simp only [State.find, record, generation, if_true]

/-! ### Acceptance (05) -/

theorem execNewParcel_keepsTo (h : Header) (items : List Item) : s.KeepsTo P none (execNewParcel h items s) :=
  positionRequest_keepsTo (by decide) fun p _ _ s link _ _ => by
    have read : s.Keeps P (some (.position p)) (asker h.link) (s.readAll (.position p)) := by
      rw [link]
      exact .readAll s _
    dsimp only
    split
    · exact .finish read _
    · split
      · exact .finish read _
      · rename_i n hn
        refine .finish (read.trans ⟨fun i => i.fresh ?_ rfl rfl, fun _ r => r.putRecord rfl⟩) _
        exact Table.get_of_lowestFree _ hn

theorem execSetAttributes_keepsTo (h : Header) (items : List Item) : s.KeepsTo P none (execSetAttributes h items s) :=
  positionRequest_keepsTo (by decide) fun p _ _ s link _ _ => withRecord_keepsTo fun hd r _ hr _ => by
    have asks : s.Keeps P (some (.position p)) (asker h.link) s := link ▸ .refl s
    split
    · exact .reply asks _
    · split
      · exact .reply asks _
      · split
        · exact .reply asks _
        · split
          · exact .reply asks _
          · split
            · exact .reply asks _
            · exact .finish (asks.trans (.toDraft hr _)) _

theorem rateRequest_keepsTo (hc : s.ctx p = .opened session res) (res' : Option Reservation) {eg : Nat} (tag : Tag)
    (items : List Item) (he : P → s.Ranged → eg ≤ 3) :
    s.KeepsTo P (some (.position p)) (rateRequest p session res' eg tag items s) :=
  withRecord_keepsTo fun hd r hf hr free => by
    split
    · exact .reply (.refl s) _
    · split
      · exact .reply (.refl s) _
      · rename_i e _
        split
        · exact .reply (.refl s) _
        · split
          · exact .reply (.refl s) _
          · dsimp only
            split
            · have draft : s.Keeps P (some (.position p)) (some (.position p)) (s.toDraft hd.slot r e) := .toDraft hr e
              have found := State.find_of_rewritten hf.1 (s.toDraft_table hd.slot r e)
              refine .judge ⟨fun i => ?_, fun hP ranged => ?_⟩
              · rw [refusedMarked, Bool.or_eq_false_iff] at free
                exact (draft.inStep i).joinPosition rfl found free.2 free.1 rfl rfl
              · exact ((draft.ranged hP ranged).join (he hP ranged)).setCtx (by
                  simpa [Context.inRange] using ranged.sessionGrade hc)
            · exact .judge (.join hc _ _ rfl hf.1 free he)

/-- The issue of a label (R91): the print deadline starts at the setting in force. -/
theorem issueLabel_keepsTo {hd : Handle} {r : Rec} (hr : s.record hd.slot = some r) (e : Entered) (q : Quote)
    (serial : Nat) (pool : Pool) (service : Service) (z : Zone) :
    s.KeepsTo P (some (.position p)) (issueLabel p hd r e q serial pool service z s) := by
  have drawn : s.Keeps P (some (.position p)) (some (.position p))
      (State.putIndex { s with pool := pool } serial ⟨hd.slot, false, true⟩) :=
    .frame rfl rfl rfl rfl rfl rfl rfl rfl rfl rfl rfl rfl
  have here : (State.putIndex { s with pool := pool } serial ⟨hd.slot, false, true⟩).record hd.slot = some r := hr
  refine .finish (drawn.trans (.rewrite here (r' := r.change (.printing e q (labelFor service z serial s.hallTime)
    s.timers.printDeadline)) rfl rfl fun h => ?_)) _
  have timers := h.timers
  simp only [Timers.inRange, Bool.and_eq_true, decide_eq_true_eq] at timers
  exact decide_eq_true timers.1.1.2

theorem commitRequest_keepsTo (hc : s.ctx p = .opened session res) (eg : Nat) (tag : Tag) (items : List Item) :
    s.KeepsTo P (some (.position p)) (commitRequest p session eg tag items s) :=
  withRecord_keepsTo fun hd r _ hr _ => by
    have failed (l : BankLetter) (e : BankEntry) :
        s.Keeps P (some (.position p)) (some (.position p)) (s.failBankEntry l e (.position p) none) :=
      .failBankEntry s l e _ _
    split
    · exact .reply (.refl s) _
    · split
      · rename_i e q _
        dsimp only
        split
        · split
          · exact .finish ((failed _ _).trans (.toDraft (r := r) (by simpa [State.record] using hr) e)) _
          · exact .finish (.toDraft hr e) _
        · split
          · exact .judge (.escalate hc _ _ (by decide))
          · split
            · exact .reply (.refl s) _
            · rename_i serial pool _
              split
              · exact issueLabel_keepsTo hr _ _ _ _ _ _
              · exact .finish (failed _ _) _
              · split
                · exact .reply (.refl s) _
                · exact .reply (.refl s) _
      · exact .reply (.refl s) _

theorem execPrinted_keepsTo (h : Header) (items : List Item) : s.KeepsTo P none (execPrinted h items s) :=
  positionRequest_keepsTo (by decide) fun p _ _ s link _ _ => withRecord_keepsTo fun hd r _ hr _ => by
    have asks : s.Keeps P (some (.position p)) (asker h.link) s := link ▸ .refl s
    split
    · exact .reply asks _
    · split
      · split
        · exact .finish (asks.trans (.trans (.change hr rfl) (.releasePin _ _))) _
        · exact .reply asks _
      · exact .reply asks _

theorem execSpoilt_keepsTo (h : Header) (items : List Item) : s.KeepsTo P none (execSpoilt h items s) :=
  positionRequest_keepsTo (by decide) fun p _ _ s link _ _ => withRecord_keepsTo fun hd r _ hr _ => by
    have asks : s.Keeps P (some (.position p)) (asker h.link) s := link ▸ .refl s
    split
    · exact .reply asks _
    · split
      · split
        · exact .finish (asks.trans (.unprint hr _ _ _)) _
        · exact .reply asks _
      · exact .reply asks _

theorem execPrintDeadlineExpiry_keepsTo (n : Nat) : s.KeepsTo P none (execPrintDeadlineExpiry n s) := by
  unfold execPrintDeadlineExpiry
  split
  · exact .refl s
  · split
    · exact .refl s
    · rename_i r hr
      split
      · have read : s.Keeps P none none (s.readAt .printDeadline n r).1 := .readAt s _ n r
        split
        · rename_i u m q hf
          obtain ⟨rfl, rfl, rfl, -⟩ := State.readAt_found hf
          split
          · exact .judge (.unprint hr _ _ _)
          · exact .refl _
        · rename_i u found hf
          rw [hf] at read
          exact .judge read
      · exact .refl s

/-! ### Shared records (06) -/

theorem execQuery_keepsTo (h : Header) (items : List Item) : s.KeepsTo P none (execQuery h items s) :=
  positionRequest_keepsTo (by decide) fun p session _ s link _ hc => by
    have read : s.Keeps P (some (.position p)) (asker h.link) (s.lookupItems (.position p) items).1 := by
      rw [link]
      exact .lookupItems s _ items
    split <;> rename_i hl
    · rw [hl] at read
      exact .reply read _
    · rw [hl] at read
      exact .finish read _
    · obtain ⟨rfl, -, -⟩ := State.lookupItems_found hl
      rw [hl] at read
      dsimp only
      split
      · exact .reply (read.trans (.reserve hc _)) _
      · exact .reply read _

theorem amendRequest_keepsTo (hc : s.ctx p = .opened session res) (presented : Option Reservation) {eg : Nat}
    (tag : Tag) (items : List Item) (he : P → s.Ranged → eg ≤ 3) :
    s.KeepsTo P (some (.position p)) (amendRequest p session presented eg tag items s) :=
  withRecord_keepsTo fun hd r hf _ free => by
    have lost : s.Keeps P (some (.position p)) (some (.position p)) (s.setCtx p (.opened session none)) :=
      .reserve hc none
    have opened : (s.setCtx p (.opened session none)).ctx p = .opened session none := s.ctx_setCtx p _
    dsimp only
    split
    · exact .reply lost _
    · split
      · split
        · exact .reply lost _
        · split
          · exact .reply lost _
          · split
            · exact .reply lost _
            · split
              · exact .judge (lost.trans (.escalate opened _ _ (by decide)))
              · split
                · exact .reply lost _
                · refine .judge ⟨fun i => ?_, fun hP ranged => ?_⟩
                  · rw [refusedMarked, Bool.or_eq_false_iff] at free
                    exact (lost.inStep i).joinPosition rfl hf.1 free.2 free.1 rfl rfl
                  · exact ((lost.ranged hP ranged).join (he hP ranged)).setCtx (by
                      simpa [Context.inRange] using ranged.sessionGrade hc)
      · exact .reply lost _

theorem execTakeOver_keepsTo (h : Header) (items : List Item) : s.KeepsTo P none (execTakeOver h items s) :=
  positionRequest_keepsTo (by decide) fun p session res s link _ hc => withRecord_keepsTo fun hd r hf hr _ => by
    have lost : s.Keeps P (some (.position p)) (asker h.link) (s.setCtx p (.opened session none)) := by
      rw [link]
      exact .reserve hc none
    dsimp only
    split
    · exact .reply lost _
    · split
      · exact .reply lost _
      · split
        · exact .reply lost _
        · have read := lost.trans (.readAll _ (.position p))
          split
          · exact .finish read _
          · have stays := State.readAll_record_sound (s.setCtx p (.opened session none)) (.position p) hf.2 hr
            exact .finish (read.trans (.rewrite stays (r' := { r.change r.body with owner := p }) rfl rfl fun ranged =>
              ranged.deadline (r := r) stays)) _

theorem voidRequest_keepsTo (hc : s.ctx p = .opened session res) (presented : Option Reservation) (eg : Nat)
    (tag : Tag) (items : List Item) :
    s.KeepsTo P (some (.position p)) (voidRequest p session presented eg tag items s) :=
  withRecord_keepsTo fun hd r _ hr free => by
    split
    · have lost : s.Keeps P (some (.position p)) (some (.position p)) (s.setCtx p (.opened session none)) :=
        .reserve hc none
      dsimp only
      split
      · exact .reply lost _
      · split
        · exact .judge (lost.trans (.escalate (s.ctx_setCtx p _) _ _ (by decide)))
        · have here : (s.setCtx p (.opened session none)).record hd.slot = some r := hr
          exact .finish (lost.trans (.retire here free)) _
    · exact .reply (.refl s) _
    · split
      · exact .reply (.refl s) _
      · exact .finish (.retire hr free) _

end

theorem execQuerySupervisor_keepsTo (h : Header) (items : List Item) :
    s.KeepsTo P none (execQuerySupervisor h items s) :=
  supervisorRequest_keepsTo (by decide) rfl fun link _ => by
    have read (v : State) : v.Keeps P none (asker h.link) (v.lookupItems .supervisor items).1 := by
      rw [link]
      exact .lookupItems v _ items
    have read := read (s.hold h.link .querySupervisor h.tag)
    split <;> rename_i hl <;> rw [hl] at read
    · exact .reply read _
    · exact .finish read _
    · exact .reply read _

theorem execVoidSupervisor_keepsTo (h : Header) (items : List Item) : s.KeepsTo P none (execVoidSupervisor h items s) :=
  supervisorRequest_keepsTo (by decide) rfl fun link _ => by
    generalize s.hold h.link .voidSupervisor h.tag = v
    have read : v.Keeps P none (asker h.link) (v.lookupItems .supervisor items).1 := by
      rw [link]
      exact .lookupItems v _ items
    split <;> rename_i hl
    · rw [hl] at read
      exact .reply read _
    · rw [hl] at read
      exact .finish read _
    · obtain ⟨rfl, hr, -⟩ := State.lookupItems_found hl
      rw [hl] at read
      split
      · exact .reply read _
      · rename_i free
        exact .finish (read.trans (.retire hr (by simpa using free))) _

end Sys2Proof.Machine
end

section
/-! SUPPORT. The requests on dispatch, labels, positions and the hall (07, 08, 10, 12): each keeps both laws. -/
namespace Sys2Proof.Machine

variable {s t : State} {P : Prop}

/-! ### The dispatch line (10) -/

theorem State.find_handleAt {n : Nat} {r : Rec} (hr : s.record n = some r) : s.find (s.handleAt n) = some r := by
  have here : s.record (s.handleAt n).slot = some r := hr
  simp only [State.find, here]
  exact if_pos rfl

/-- A re-rating joins the queue with its pending reweigh. -/
theorem State.Keeps.joinDispatch {n : Nat} {r : Rec} (hr : s.record n = some r) (free : refusedMarked r = false)
    (mass : Nat) (sides : Sides) (pr : PendingReweigh) : s.Keeps P (some .dispatch) none
      (State.join { s with pendingReweigh := some pr } ⟨.rerateReweigh mass sides, s.handleAt n, .dispatch, 0⟩) := by
  rw [refusedMarked, Bool.or_eq_false_iff] at free
  refine ⟨fun h => h.joinDispatch pr rfl (State.find_handleAt hr) free.2 free.1, fun _ h => ?_⟩
  have pending : State.Ranged { s with pendingReweigh := some pr } := h.frame rfl rfl rfl rfl rfl rfl rfl rfl
  exact pending.join (Nat.zero_le 3)

theorem reweighLabelled_keepsTo {n serial mass : Nat} {sides : Sides} {bank : BankLetter} {r : Rec} {e : Entered}
    {q : Quote} {lab : Label} {adj : Nat} (hr : s.record n = some r) (free : refusedMarked r = false) :
    s.KeepsTo P (some .dispatch) (reweighLabelled .dispatch serial mass sides bank n r e q lab adj s) := by
  unfold reweighLabelled
  dsimp only
  split
  · exact .finish (l := .dispatch) (.change hr rfl) _
  · split
    · exact .reply (l := .dispatch) (.refl s) _
    · exact .judge (.joinDispatch hr free _ _ _)

theorem execReweigh_keepsTo (h : Header) (items : List Item) : s.KeepsTo P none (execReweigh h items s) :=
  haltedRequest_keepsTo (by decide) fun sort _ => by
    have link : h.link = .dispatch := by
      revert sort
      cases h.link <;> first | exact fun _ => rfl | exact nofun
    rw [link]
    split
    · split
      · exact .reply (.refl _) _
      · exact labelledBySerial_keepsTo fun _ _ _ _ _ _ _ hr free _ => reweighLabelled_keepsTo hr free
    · exact .reply (.refl _) _

theorem execHandover_keepsTo (h : Header) (items : List Item) : s.KeepsTo P none (execHandover h items s) :=
  haltedRequest_keepsTo (by decide) fun _ _ => by
    split
    · exact .reply (.refl _) _
    · exact labelledBySerial_keepsTo fun _ _ _ _ _ _ _ hr free _ => .finish (.retire hr free) _

theorem execSettleAccept_keepsTo (h : Header) (items : List Item) : s.KeepsTo P none (execSettleAccept h items s) :=
  haltedRequest_keepsTo (by decide) fun _ _ => heldRecord_keepsTo fun _ _ _ _ _ _ _ hr _ => .finish (.change hr rfl) _

theorem execSettleVoid_keepsTo (h : Header) (items : List Item) : s.KeepsTo P none (execSettleVoid h items s) :=
  haltedRequest_keepsTo (by decide) fun _ _ => heldRecord_keepsTo fun _ _ _ _ _ _ _ hr free => .finish (.retire hr free) _

/-! ### Labels (08) -/

theorem loadBlock_keepsTo {l : Link} (hl : asker l = none) (first count : Nat) :
    s.KeepsTo P none (loadBlock l first count s) := by
  have same : s.Keeps P none (asker l) s := hl ▸ .refl s
  unfold loadBlock
  dsimp only
  split
  · exact .reply same _
  · split
    · exact .reply same _
    · split
      · exact .reply same _
      · split
        · exact .reply same _
        · exact .finish (same.trans (.failIndexEntry s _ _ _)) _
        · refine .finish (same.trans ?_) _
          exact .frame rfl rfl rfl rfl rfl rfl rfl rfl rfl rfl rfl rfl

theorem execLoadBlock_keepsTo (h : Header) (items : List Item) : s.KeepsTo P none (execLoadBlock h items s) :=
  supervisorRequest_keepsTo (by decide) rfl fun link _ => by
    split
    · exact loadBlock_keepsTo link _ _
    · exact .reply (link ▸ .refl _) _

/-! ### Contexts of positions (07) -/

section
variable {p : PositionNo} {session : Session}

/-- A held request that does not wait is answered. -/
theorem State.Keeps.endEscalation {slot : NormalSlot} (hc : s.ctx p = .escalated session slot) (a : Answer)
    {x : Option Requester} : s.Keeps P x x (s.endEscalation p session a) := by
  refine ⟨fun h => h.endEscalation session a (by rw [hc]; rfl) (by rw [hc]; rfl), fun _ h => h.endEscalation p a ?_⟩
  have old := h.ctx p
  simp only [hc, Context.inRange, Bool.and_eq_true, decide_eq_true_eq] at old
  exact old.1

/-- A saved request is taken out of its slot to be looked at again (R127). -/
theorem State.InStep.reopen {slot : NormalSlot} (h : s.InStep none) (hc : s.ctx p = .escalated session slot) :
    (s.setCtx p (.opened session none)).InStep (some (.position p)) := by
  have requested := h.attended.requested
  have idle : Requester.position p ∉ s.waiting := fun hm => by
    have := (requested.waits _).1 hm
    simp [State.awaits, hc, Context.isWorking] at this
  have held : (s.link (.position p)).outstanding.isSome = true :=
    (requested.held (.position p)).2 (.inl (by simp [State.holds, hc, Context.holdsRequest]))
  refine ⟨h.marked, h.attended.nodup, requested.at (q := .position p) (s.setCtx_agreesBut p _)
    (fun c hn => ⟨.rfl, by simp [hn.symm]⟩) (iff_of_false idle (by simp [State.awaits, Context.isWorking]))
    (iff_of_true held (.inr rfl)) fun _ => by simp [State.holds, Context.holdsRequest]⟩

end

theorem execOpenPosition_keepsTo (h : Header) (items : List Item) : s.KeepsTo P none (execOpenPosition h items s) :=
  atPosition_keepsTo (by decide) rfl fun p s link accepted => by
    have same : s.Keeps P none (asker h.link) s := link ▸ .refl s
    split
    · rename_i g _ hg _
      obtain ⟨high, low⟩ := grade_le accepted (by decide) hg
      split
      · rename_i hc
        exact .finish (same.trans (.setCtx (by rw [hc]; rfl) (by rw [hc]; rfl) fun _ _ => by
          simp [Context.inRange, high, low rfl])) _
      · exact .reply same _
    · exact .reply same _

/-! ### A position that does not wait, under the reads of records -/

section
variable {p : PositionNo} (hp : (s.ctx p).isWorking = false)
include hp

theorem State.answerRequester_ctx (q : Requester) (a : Answer) : (s.answerRequester q a).ctx p = s.ctx p := by
  have answered (l : Link) (p : PositionNo) : (s.answer l a).ctx p = s.ctx p := by
    rw [State.ctx, State.answer_positions]
    rfl
  cases q with
  | dispatch => exact answered .dispatch p
  | position k =>
    by_cases hk : k = p
    · subst hk
      refine (State.ctx_setCtx _ _ _).trans ?_
      cases hc : s.ctx k with
      | working session pend res request =>
        rw [hc] at hp
        cases hp
      | _ => rfl
    · exact (State.ctx_setCtx_other _ _ _ _ hk).trans (answered (.position k) p)

theorem State.damageRecord_ctx (n : Nat) (r : Rec) (subject : ReportSubject) :
    (s.damageRecord n r subject).ctx p = s.ctx p := by
  have ended (v : State) (hv : v.ctx p = s.ctx p) (hd : Handle) (a : Answer) : (v.endJobOn hd a).ctx p = s.ctx p := by
    unfold State.endJobOn
    split
    · exact hv
    · rename_i u _
      split
      · exact hv
      · rename_i j _
        have released : ((v.setUnit u none).releasePin j.bank).ctx p = s.ctx p := by
          rw [State.ctx, State.releasePin_positions]
          exact hv
        dsimp only
        split
        · exact released
        · exact (State.answerRequester_ctx (released ▸ hp) _ a).trans released
  have dropped (v : State) (hv : v.ctx p = s.ctx p) (hd : Handle) (a : Answer) : (v.dropEntryOn hd a).ctx p = s.ctx p := by
    unfold State.dropEntryOn
    split
    · exact hv
    · rename_i e _
      have same : State.ctx { v with queue := v.queue.filter fun x => x.handle != hd } p = s.ctx p := hv
      exact (State.answerRequester_ctx (same ▸ hp) _ a).trans same
  unfold State.damageRecord
  split
  · rfl
  · refine dropped _ (ended _ ?_ _ _) _ _
    rw [State.ctx, State.releaseBodyPin_positions]
    rfl

theorem State.readAt_ctx (reader : Reader) (n : Nat) (r : Rec) : (s.readAt reader n r).1.ctx p = s.ctx p := by
  unfold State.readAt
  split
  · rfl
  · rw [State.ctx, State.report_positions]
    exact State.damageRecord_ctx hp n r _

theorem State.readAll_ctx (reader : Reader) : (s.readAll reader).ctx p = s.ctx p := by
  have each (slots : List Nat) (v : State) (hv : v.ctx p = s.ctx p) : (readEach reader slots v).ctx p = s.ctx p := by
    induction slots generalizing v with
    | nil => exact hv
    | cons n rest ih =>
      unfold readEach
      split
      · exact ih v hv
      · exact ih _ ((State.readAt_ctx (hv ▸ hp) reader n _).trans hv)
  exact each _ s rfl

end

theorem execClosePosition_keepsTo (h : Header) (items : List Item) : s.KeepsTo P none (execClosePosition h items s) :=
  atPosition_keepsTo (by decide) rfl fun p s link _ => by
    have same : s.Keeps P none (asker h.link) s := link ▸ .refl s
    split
    · exact .reply same _
    · rename_i session res hc
      have read := same.trans (.readAll s .supervisor)
      have stays := State.readAll_ctx (p := p) (by rw [hc]; rfl) .supervisor
      dsimp only
      split
      · exact .finish read _
      · exact .finish (read.trans (.setCtx (by rw [stays, hc]; rfl) (by rw [stays, hc]; rfl) fun _ _ => rfl)) _
    · exact .reply same _

theorem execResetPosition_keepsTo (h : Header) (items : List Item) : s.KeepsTo P none (execResetPosition h items s) :=
  atPosition_keepsTo (by decide) rfl fun p s link _ => by
    have same : s.Keeps P none (asker h.link) s := link ▸ .refl s
    split
    · exact .reply same _
    · refine .finish (t := (((s.removeEntryOf (.position p)).discardJobOf (.position p)).answer (.position p)
        .reset).setCtx p .closed) (same.trans ?_) _
      rw [link]
      refine ⟨fun i => i.resetPosition p .reset, fun _ r => ?_⟩
      exact (((r.removeEntryOf _).discardJobOf _).answer _ _).setCtx rfl

theorem reexecute_keepsTo {p : PositionNo} {session : Session} {res : Option Reservation} {g : Nat}
    (hc : s.ctx p = .opened session res) (hg : g ≤ 3) (request : HeldRequest) :
    s.KeepsTo P (some (.position p)) (reexecute p session g request s) := by
  unfold reexecute
  split
  · exact rateRequest_keepsTo hc _ _ _ fun _ _ => hg
  · exact commitRequest_keepsTo hc _ _ _
  · exact amendRequest_keepsTo hc _ _ _ fun _ _ => hg
  · exact voidRequest_keepsTo hc _ _ _ _

theorem execGrant_keepsTo (h : Header) (items : List Item) : s.KeepsTo P none (execGrant h items s) :=
  atPosition_keepsTo (by decide) rfl fun p s link accepted => by
    have same : s.Keeps P none (asker h.link) s := link ▸ .refl s
    split
    · exact .reply same _
    · rename_i g hg
      split
      · exact .reply same _
      · rename_i session slot hc
        split
        · exact .reply same _
        · have reopened : s.Keeps P none (some (.position p)) (s.setCtx p (.opened session none)) := by
            refine ⟨fun i => i.reopen hc, fun _ r => r.opened ?_⟩
            have old := r.ctx p
            simp only [hc, Context.inRange, Bool.and_eq_true, decide_eq_true_eq] at old
            exact old.1
          have again := reexecute_keepsTo (P := P) (s.ctx_setCtx p (.opened session none))
            (grade_le accepted (by decide) hg).1 slot.request
          intro t ht
          cases ho : reexecute p session g slot.request (s.setCtx p (.opened session none)) with
          | next u =>
            rw [ho] at ht
            cases ht
            have answered : u.Keeps P none none (u.answer h.link (.done .plain)) := by
              have := State.Keeps.answer (P := P) u h.link (.done .plain)
              rwa [link] at this
            exact (reopened.trans (again u ho)).trans (answered.trans (.judge _))
          | fault f =>
            rw [ho] at ht
            cases ht
          | refused f =>
            rw [ho] at ht
            cases ht
      · exact .reply same _

theorem execDeny_keepsTo (h : Header) (items : List Item) : s.KeepsTo P none (execDeny h items s) :=
  atPosition_keepsTo (by decide) rfl fun p s link _ => by
    have same : s.Keeps P none (asker h.link) s := link ▸ .refl s
    split
    · exact .reply same _
    · exact .finish (same.trans (.endEscalation ‹_› _)) _
    · exact .reply same _

theorem cancelAt_keepsTo (h : Header) (p : PositionNo) : s.KeepsTo P none (cancelAt h p s) := by
  have sent (v : State) (a : Answer) : v.Keeps P none none (v.send h.link h.tag Kind.cancel.code a) := .frame
  unfold cancelAt
  dsimp only
  split
  · exact .next (sent s _)
  · exact .next (sent s _)
  · exact .next (sent s _)
  · exact .judge (.trans (.endEscalation ‹_› _) (sent _ _))
  · split
    · exact .next (sent s _)
    · exact .judge (.trans (.withdraw (q := .position p) ‹_› _) (sent _ _))

theorem execCancel_keepsTo (h : Header) (items : List Item) : s.KeepsTo P none (execCancel h items s) := by
  have sent (l : Link) (a : Answer) : s.Keeps P none none (s.send l h.tag Kind.cancel.code a) := .frame
  unfold execCancel
  split
  · exact .refl s
  · split
    · exact .next (sent _ _)
    · split
      · exact .next (sent _ _)
      · split
        · exact cancelAt_keepsTo h _
        · exact .next (sent _ _)

theorem execSuspend_keepsTo (h : Header) (items : List Item) : s.KeepsTo P none (execSuspend h items s) :=
  atPosition_keepsTo (by decide) rfl fun p s link _ => by
    have same : s.Keeps P none (asker h.link) s := link ▸ .refl s
    split
    · rename_i session res hc
      refine .finish (same.trans (.setCtx (by rw [hc]; rfl) (by rw [hc]; rfl) fun _ r => ?_)) _
      simpa [Context.inRange] using r.sessionGrade hc
    · rename_i session slot hc
      refine .finish (same.trans (.setCtx (by rw [hc]; rfl) (by rw [hc]; rfl) fun _ r => ?_)) _
      have old := r.ctx p
      simp only [hc, Context.inRange, NormalSlot.inRange, Bool.and_eq_true, decide_eq_true_eq] at old ⊢
      omega
    · rename_i session pend res request hc
      refine .finish (same.trans (.setCtx (by rw [hc]; rfl) (by rw [hc]; rfl) fun _ r => ?_)) _
      simpa [hc, Context.inRange] using r.ctx p
    · exact .reply same _
    · exact .reply same _

theorem execResume_keepsTo (h : Header) (items : List Item) : s.KeepsTo P none (execResume h items s) :=
  atPosition_keepsTo (by decide) rfl fun p s link _ => by
    have same : s.Keeps P none (asker h.link) s := link ▸ .refl s
    split
    · rename_i session hc
      refine .finish (same.trans (.setCtx (by rw [hc]; rfl) (by rw [hc]; rfl) fun _ r => ?_)) _
      simpa [hc, Context.inRange] using r.ctx p
    · rename_i session slot hc
      refine .finish (same.trans (.setCtx (by rw [hc]; rfl) (by rw [hc]; rfl) fun _ r => ?_)) _
      have old := r.ctx p
      simp only [hc, Context.inRange, Bool.and_eq_true, decide_eq_true_eq] at old ⊢
      exact ⟨old.1, old.2.1⟩
    · rename_i session res request hc
      refine .finish (same.trans (.setCtx (by rw [hc]; rfl) (by rw [hc]; rfl) fun _ r => ?_)) _
      simpa [hc, Context.inRange] using r.ctx p
    · exact .reply same _

theorem execEscalationTimeout_keepsTo (p : PositionNo) : s.KeepsTo P none (execEscalationTimeout p s) := by
  unfold execEscalationTimeout
  split
  · exact .refl s
  · split
    · split
      · exact .judge (.endEscalation ‹_› _)
      · exact .refl s
    · exact .refl s

/-! ### The hall (12) -/

theorem execSetTime_keepsTo (h : Header) (items : List Item) : s.KeepsTo P none (execSetTime h items s) :=
  supervisorRequest_keepsTo (by decide) rfl fun link _ => by
    generalize s.hold h.link .setTime h.tag = v
    have same : v.Keeps P none (asker h.link) v := link ▸ .refl v
    split
    · exact .reply same _
    · rename_i time _
      have set : v.Keeps P (asker h.link) (asker h.link) { v with hallTime := time } :=
        .frame rfl rfl rfl rfl rfl rfl rfl rfl rfl rfl rfl rfl
      exact .finish (same.trans (set.trans (.switchIfDue _))) _

theorem execSetTimers_keepsTo (h : Header) (items : List Item) : s.KeepsTo P none (execSetTimers h items s) :=
  supervisorRequest_keepsTo (by decide) rfl fun link accepted => by
    generalize s.hold h.link .setTimers h.tag = v
    have same : v.Keeps P none (asker h.link) v := link ▸ .refl v
    refine .finish (same.trans ?_) _
    refine .still (fun _ r => ?_) rfl rfl rfl rfl rfl rfl rfl rfl
    exact (r.setTimers (timers_inRange accepted r.timers)).frame rfl rfl rfl rfl rfl rfl rfl rfl

theorem execSetEnables_keepsTo (h : Header) (items : List Item) : s.KeepsTo P none (execSetEnables h items s) :=
  supervisorRequest_keepsTo (by decide) rfl fun link _ => by
    generalize s.hold h.link .setEnables h.tag = v
    have same : v.Keeps P none (asker h.link) v := link ▸ .refl v
    split
    · exact .reply same _
    · refine .finish (same.trans ?_) _
      exact .frame rfl rfl rfl rfl rfl rfl rfl rfl rfl rfl rfl rfl

theorem execAcknowledge_keepsTo (h : Header) (items : List Item) : s.KeepsTo P none (execAcknowledge h items s) :=
  supervisorRequest_keepsTo (by decide) rfl fun link _ => by
    generalize s.hold h.link .acknowledge h.tag = v
    have same : v.Keeps P none (asker h.link) v := link ▸ .refl v
    split
    · exact .reply same _
    · refine .finish (same.trans ?_) _
      exact .frame rfl rfl rfl rfl rfl rfl rfl rfl rfl rfl rfl rfl

theorem execStatus_keepsTo (h : Header) (items : List Item) : s.KeepsTo P none (execStatus h items s) :=
  request_keepsTo (by decide) fun _ _ => by
    split
    · exact .reply (.refl _) _
    · exact .reply (.refl _) _

theorem State.Keeps.beginDrain (s : State) : s.Keeps P none none s.beginDrain :=
  ⟨fun h => h.beginDrain, fun _ h => h.beginDrain⟩

theorem State.Keeps.endDrain (s : State) : s.Keeps P none none s.endDrain := by
  have granting : s.Keeps P none none { s with grantState := .granting } :=
    .still (fun _ h => h.setGrantState rfl) rfl rfl rfl rfl rfl rfl rfl rfl
  exact ((granting.trans (.answer _ .supervisor (.done .plain))).trans (.judge _)).trans
    (.frame rfl rfl rfl rfl rfl rfl rfl rfl rfl rfl rfl rfl)

theorem execSoftReset_keepsTo (h : Header) (items : List Item) : s.KeepsTo P none (execSoftReset h items s) :=
  supervisorRequest_keepsTo (by decide) rfl fun _ _ => by
    dsimp only
    split
    · exact .next (.trans (.beginDrain _) (.endDrain _))
    · exact .judge (.beginDrain _)

theorem execDrainEnd_keepsTo : s.KeepsTo P none (execDrainEnd s) := by
  unfold execDrainEnd
  split
  · exact .refl s
  · split
    · exact .next (.endDrain s)
    · exact .refl s

theorem execHallTimeTick_keepsTo : s.KeepsTo P none (execHallTimeTick s) := by
  unfold execHallTimeTick
  split
  · exact .refl s
  · refine .next (.trans (t := { s with hallTime := min Config.hallTimeMax (s.hallTime + 1) })
      (.frame rfl rfl rfl rfl rfl rfl rfl rfl rfl rfl rfl rfl) ⟨fun h => h.countDown, fun _ h => h.countDown⟩)

theorem State.Keeps.hardResetValues (s : State) (asserted : Bool) : s.Keeps P none none (s.hardResetValues asserted) :=
  ⟨fun _ => .hardResetValues s asserted, fun _ _ => .hardResetValues s asserted⟩

theorem execResetRelease_keepsTo : s.KeepsTo P none (execResetRelease s) := by
  unfold execResetRelease
  split
  · exact .next (.hardResetValues s false)
  · exact .refl s

theorem execUnknownRequest_keepsTo (h : Header) (kind : Byte) : s.KeepsTo P none (execUnknownRequest h kind s) := by
  unfold execUnknownRequest
  split
  · exact .refl s
  · exact .next .frame

end Sys2Proof.Machine
end

section
/-! SUPPORT. The requests on the tariff (09) keep both laws. -/
namespace Sys2Proof.Machine

variable {s t : State} {P : Prop}

/-! ### Banks taken anew (R148 to R150) -/

/-- A bank whose content is replaced whole is past LOADING only after the next BANK VERIFY; no job runs on it. -/
theorem State.Keeps.replaceBank {l : BankLetter} {b : Bank} (hb : b.state.edition = none)
    (hn : P → ∀ u j, s.unit u = some j → j.bank ≠ l) {x : Option Requester} : s.Keeps P x x (s.setBank l b) :=
  .still fun p h => h.setBank (fun e => absurd hb e) fun u j hu hl => absurd hl (hn p u j hu)

/-- A request taken in the state of its bank, where it is none that may carry pins, finds no job on the bank (R147, R155). -/
theorem State.idle_of_takenIn {k : Kind} {l : BankLetter} (hp : s.pinLaw = true)
    (hk : k = .bankClear ∨ k = .bankWrite ∨ k = .bankCopy) (ht : takenIn k (s.bank l).state.name = true) (h : Header) :
    ∀ u j, (s.hold h.link k h.tag).unit u = some j → j.bank ≠ l := by
  intro u j hu hl
  rw [show (s.hold h.link k h.tag).unit u = s.unit u by simp [State.unit]] at hu
  have carries := State.carriesPins_of_unit hp hu
  rw [hl] at carries
  revert ht carries
  rcases hk with rfl | rfl | rfl <;> cases (s.bank l).state <;> simp [takenIn, BankState.name, BankState.carriesPins]

section
variable (hP : P → s.pinLaw = true)
include hP

theorem execBankClear_keepsTo (h : Header) (items : List Item) : s.KeepsTo P none (execBankClear h items s) :=
  bankRequest_keepsTo (by decide) rfl fun l link taken => by
    refine .finish (link ▸ .replaceBank rfl fun p => ?_) _
    exact State.idle_of_takenIn (hP p) (.inl rfl) taken h

theorem execBankWrite_keepsTo (h : Header) (items : List Item) : s.KeepsTo P none (execBankWrite h items s) :=
  bankRequest_keepsTo (by decide) rfl fun l link taken => by
    have idle (p : P) := State.idle_of_takenIn (hP p) (.inr (.inl rfl)) taken h
    split
    · exact .reply (link ▸ .refl _) _
    · exact .finish (link ▸ .replaceBank rfl idle) _

theorem execBankCopy_keepsTo (h : Header) (items : List Item) : s.KeepsTo P none (execBankCopy h items s) :=
  bankRequest_keepsTo (by decide) rfl fun l link taken => by
    have idle (p : P) := State.idle_of_takenIn (hP p) (.inr (.inr rfl)) taken h
    split
    · exact .reply (link ▸ .refl _) _
    · split
      · exact .finish (link ▸ .failBankEntry _ _ _ _ _) _
      · exact .finish (link ▸ .replaceBank rfl idle) _

end

/-! ### BANK VERIFY (R151, R152) -/

theorem Descriptor.gradeOk_of_form {d : Descriptor} (h : d.outOfForm = none) : d.gradeOk = true := by
  cases d with
  | service x =>
    simp only [Descriptor.outOfForm, ite_eq_left_iff, reduceCtorEq, imp_false, not_not, Bool.and_eq_true] at h
    exact h.1.1.1
  | redirect g target =>
    simp only [Descriptor.outOfForm, ite_eq_left_iff, reduceCtorEq, imp_false, not_not] at h
    exact decide_eq_true h
  | surcharge x =>
    simp only [Descriptor.outOfForm, ite_eq_left_iff, reduceCtorEq, imp_false, not_not, Bool.and_eq_true] at h
    exact h.1.1
  | rate bands => rfl
  | empty => rfl

theorem verifySlots_none {t : TableLetter} {first limit : Nat} {cells : List (Nat × SlotCell)}
    (h : verifySlots t first limit cells = none) :
    ∀ c ∈ cells, first ≤ c.1 → c.1 < limit → c.2.content.gradeOk = true := by
  induction cells with
  | nil => nofun
  | cons d rest ih =>
    obtain ⟨n, cell⟩ := d
    simp only [verifySlots] at h
    intro c hc low high
    split at h
    · split at h
      · cases h
      · split at h
        · cases h
        · split at h
          · cases h
          · rename_i form
            rcases List.mem_cons.1 hc with rfl | hc
            · exact Descriptor.gradeOk_of_form form
            · exact ih h c hc low high
    · rename_i outside
      rcases List.mem_cons.1 hc with rfl | hc
      · exact absurd ⟨low, high⟩ outside
      · exact ih h c hc low high

/-- A bank that passes BANK VERIFY is graded. -/
theorem Bank.graded_of_examine {b : Bank} (h : b.examine = none) : b.Graded := by
  simp only [Bank.examine, Option.or_eq_none_iff] at h
  obtain ⟨-, -, -, normal, supplement⟩ := h
  rintro t c hc ⟨notNull, below⟩
  cases t with
  | n =>
    refine verifySlots_none normal c hc (Nat.one_le_iff_ne_zero.2 fun zero => notNull ?_) below
    rw [zero]
  | h => exact verifySlots_none supplement c hc (Nat.zero_le _) below

theorem verifyBank_keepsTo {link : Link} (hl : asker link = none) (l : BankLetter) (number : Nat) :
    s.KeepsTo P none (verifyBank link l number s) := by
  have same : s.Keeps P none (asker link) s := hl ▸ .refl s
  unfold verifyBank
  split
  · exact .reply same _
  · split
    · exact .reply same _
    · exact .finish (same.trans (.failBankEntry _ _ _ _ _)) _
    · exact .reply same _
    · rename_i form
      refine .finish (same.trans (.still fun _ h => h.setBank (fun _ => ?_) fun _ _ _ _ => by simp [BankState.edition])) _
      exact (Bank.graded_of_examine form).of_slots (fun t => by cases t <;> rfl) fun t => by cases t <;> rfl

theorem execBankVerify_keepsTo (h : Header) (items : List Item) : s.KeepsTo P none (execBankVerify h items s) :=
  bankRequest_keepsTo (by decide) rfl fun l link _ => by
    split
    · exact .reply (link ▸ .refl _) _
    · exact verifyBank_keepsTo link l _

/-! ### The switch and the grace (R153, R154, R157) -/

theorem scheduleSwitch_keepsTo {link : Link} (hl : asker link = none) {l : BankLetter}
    (hv : (s.bank l).state.edition ≠ none) (effective grace : Nat) :
    s.KeepsTo P none (scheduleSwitch link l effective grace s) := by
  have same : s.Keeps P none (asker link) s := hl ▸ .refl s
  unfold scheduleSwitch
  split
  · exact .reply same _
  · have scheduled := same.trans (.setBankState (l := l)
      (st := .scheduled ((s.bank l).state.edition.getD 0) effective grace)
      (iff_of_false (by simp [BankState.edition]) hv))
    dsimp only
    split
    · exact .finish (scheduled.trans (.takeSwitch _ _)) _
    · exact .finish scheduled _

theorem execScheduleSwitch_keepsTo (h : Header) (items : List Item) : s.KeepsTo P none (execScheduleSwitch h items s) :=
  bankRequest_keepsTo (by decide) rfl fun l link taken => by
    split
    · refine scheduleSwitch_keepsTo link ?_ _ _
      rw [State.bank_hold]
      revert taken
      cases (s.bank l).state <;> simp [takenIn, BankState.name, BankState.edition]
    · exact .reply (link ▸ .refl _) _

theorem execUnschedule_keepsTo (h : Header) (items : List Item) : s.KeepsTo P none (execUnschedule h items s) :=
  bankRequest_keepsTo (by decide) rfl fun l link _ => by
    generalize s.hold h.link .unschedule h.tag = v
    have like := (v.bank l).unscheduled_like
    exact .finish (link ▸ .setBank like.edition fun _ _ graded => graded.like like) _

theorem execSwitch_keepsTo : s.KeepsTo P none (execSwitch s) := by
  unfold execSwitch
  split
  · exact .refl s
  · split
    · exact .judge (.takeSwitch s _)
    · exact .refl s

theorem execGraceExpiry_keepsTo (l : BankLetter) : s.KeepsTo P none (execGraceExpiry l s) := by
  unfold execGraceExpiry
  split
  · exact .refl s
  · split
    · exact .judge (.expireGrace s l)
    · exact .refl s

/-! ### Patches (R159, R160) -/

theorem Descriptor.gradeOk_regrade (d : Descriptor) {g : Nat} (hg : g ≤ 3) : (d.regrade g).gradeOk = true := by
  cases d <;> first | rfl | exact decide_eq_true hg

/-- A slot patched: its grade is in range where the patch's is and its own was. -/
theorem SlotCell.patched_gradeOk {c c' : SlotCell} {p : Patch} (h : c.patched p.change = some c')
    (hp : (GrantState.patchWait p).gradesOk = true) (hc : c.content.gradeOk = true) : c'.content.gradeOk = true := by
  obtain ⟨letter, sel, change⟩ := p
  unfold SlotCell.patched at h
  split at h
  · cases h
  · cases change with
    | withdraw =>
      cases h
      exact hc
    | restore =>
      cases h
      exact hc
    | regrade g =>
      dsimp only at h
      split at h
      · cases h
        exact Descriptor.gradeOk_regrade _ (of_decide_eq_true hp)
      · cases h

theorem patchSlot_keeps {p : Patch} (hp : P → s.Ranged → (GrantState.patchWait p).gradesOk = true)
    {x : Option Requester} : s.Keeps P x x (s.patchSlot p).1 := by
  have written {c : SlotCell} (hc : P → s.Ranged → ((s.bank p.bank).slotCell p.sel).content.gradeOk = true →
      c.content.gradeOk = true) : s.Keeps P x x (s.setBank p.bank ((s.bank p.bank).putSlot p.sel c)) := by
    have state : ((s.bank p.bank).putSlot p.sel c).state = (s.bank p.bank).state := by
      unfold Bank.putSlot
      split <;> rfl
    exact .setBank (by rw [state]) fun hP h graded => graded.putSlot fun reached => hc hP h (graded.slotCell reached)
  unfold State.patchSlot
  dsimp only
  split
  · exact .refl s
  · split
    · split
      · exact .refl s
      · exact written fun _ _ hc => hc
      · exact .refl s
    · split
      · exact .failBankEntry s _ _ _ _
      · split
        · exact .refl s
        · exact written fun hP h hc => SlotCell.patched_gradeOk ‹_› (hp hP h) hc

theorem applyPatch_keeps {p : Patch} (hp : P → s.Ranged → (GrantState.patchWait p).gradesOk = true) :
    s.Keeps P none none (s.applyPatch p) := by
  have patched : s.Keeps P none none (s.patchSlot p).1 := patchSlot_keeps hp
  have granting : (s.patchSlot p).1.Keeps P none none { (s.patchSlot p).1 with grantState := .granting } :=
    .still (fun _ h => h.setGrantState rfl) rfl rfl rfl rfl rfl rfl rfl rfl
  exact patched.trans ((granting.trans (.answer _ .supervisor _)).trans (.judge _))

theorem patchRequest_keepsTo {change : PatchChange} {h : Header} (hl : asker h.link = none)
    (hc : ∀ g, change = .regrade g → g ≤ 3) (items : List Item) :
    s.KeepsTo P none (patchRequest change h items s) := by
  have same : s.Keeps P none (asker h.link) s := hl ▸ .refl s
  have ok (l : BankLetter) (sel : Selector) : (GrantState.patchWait ⟨l, sel, change⟩).gradesOk = true := by
    cases change with
    | regrade g => exact decide_eq_true (hc g rfl)
    | withdraw => rfl
    | restore => rfl
  have waits (l : BankLetter) (sel : Selector) :
      s.Keeps P none none { s with grantState := .patchWait ⟨l, sel, change⟩ } :=
    .still (fun _ h => h.setGrantState (ok l sel)) rfl rfl rfl rfl rfl rfl rfl rfl
  unfold patchRequest
  split
  · split
    · exact .reply same _
    · split
      · exact .reply same _
      · split
        · exact .reply same _
        · split
          · exact .next ((waits _ _).trans (applyPatch_keeps fun _ _ => ok _ _))
          · exact .next (waits _ _)
  · exact .reply same _

theorem execPatchWithdraw_keepsTo (h : Header) (items : List Item) : s.KeepsTo P none (execPatchWithdraw h items s) :=
  supervisorRequest_keepsTo (by decide) rfl fun link _ => patchRequest_keepsTo (change := .withdraw) link (fun _ hg => nomatch hg) items

theorem execPatchRestore_keepsTo (h : Header) (items : List Item) : s.KeepsTo P none (execPatchRestore h items s) :=
  supervisorRequest_keepsTo (by decide) rfl fun link _ => patchRequest_keepsTo (change := .restore) link (fun _ hg => nomatch hg) items

theorem execPatchRegrade_keepsTo (h : Header) (items : List Item) : s.KeepsTo P none (execPatchRegrade h items s) :=
  supervisorRequest_keepsTo (by decide) rfl fun link accepted => patchRequest_keepsTo link (fun g hg => by
    cases hg
    rw [patchAccepted, Bool.and_eq_true] at accepted
    exact patchGrade_le accepted.1) items

theorem execPatchApplied_keepsTo : s.KeepsTo P none (execPatchApplied s) := by
  unfold execPatchApplied
  split
  · exact .refl s
  · split
    · rename_i p hp
      split
      · exact .next (applyPatch_keeps fun _ h => hp ▸ h.patch)
      · exact .refl s
    · exact .refl s

end Sys2Proof.Machine
end

section
/-! SUPPORT. The grant and the completions (04) keep both laws. -/
namespace Sys2Proof.Machine

variable {s t : State} {P : Prop} {u : UnitNo} {j : Job} {x : Option Requester}

/-! ### The grant (R69 to R71) -/

theorem dropEntry_keeps {e : QueueEntry} (he : e ∈ s.queue) (a : Answer) :
    s.Keeps P none none (dropEntry e a s) := by
  obtain ⟨found, hf⟩ := Option.isSome_iff_exists.1
    (List.find?_isSome.2 ⟨e, he, by simp⟩ : (s.entryOf e.requester).isSome = true)
  exact .trans (.withdraw hf a) (.judge _)

theorem grantEntry_keeps {e : QueueEntry} {l : BankLetter} (he : e ∈ s.queue) (hu : s.unit u = none)
    (hl : (s.bank l).state.edition ≠ none) (edition : Nat) (values : JobValues) {r : Rec}
    (hf : s.find e.handle = some r) : s.Keeps P none none (grantEntry e u l edition values r s) := by
  have granted : s.Keeps P none none (s.granted e u l edition values r) :=
    ⟨fun h => h.granted l edition values hu he,
      fun _ h => h.granted edition values he hl (h.deadline (State.record_of_find hf))⟩
  cases hr : r.sound with
  | true =>
    rw [grantEntry_sound s edition values hr]
    exact granted.trans (.judge _)
  | false =>
    rw [grantEntry_failing s edition values hf hr]
    exact granted.trans (.trans (.damageRecord _ _ _ _) (.trans (.report _ _ _) (.trans (.endUnread _ _ _) (.judge _))))

theorem State.unit_of_idleUnit (h : s.idleUnit = some u) : s.unit u = none := by
  simpa using List.find?_some h

theorem State.mem_of_nextEntry {e : QueueEntry} (h : s.nextEntry = some e) : e ∈ s.queue := by
  unfold State.nextEntry at h
  split at h
  · rename_i e' he
    cases h
    exact List.mem_of_find?_eq_some he
  · exact List.mem_of_head? h

theorem State.edition_of_activeBank {l : BankLetter} (h : s.activeBank = some l) :
    (s.bank l).state.edition ≠ none := by
  have active {b : BankState} (h : b.isActive = true) : b.edition ≠ none := by
    cases b with
    | active n => simp [BankState.edition]
    | _ => cases h
  unfold State.activeBank at h
  split at h
  · cases h
    exact active ‹_›
  · split at h
    · cases h
      exact active ‹_›
    · cases h

theorem execGrantOfJob_keepsTo : s.KeepsTo P none (execGrantOfJob s) := by
  unfold execGrantOfJob
  split
  · exact .refl s
  · split
    · rename_i u e hu he
      have mem := State.mem_of_nextEntry he
      split
      · exact .refl s
      · rename_i l hl
        split
        · exact .next (dropEntry_keeps mem _)
        · rename_i r hf
          split
          · exact .next (dropEntry_keeps mem _)
          · exact .next (grantEntry_keeps mem (State.unit_of_idleUnit hu) (State.edition_of_activeBank hl) _ _ hf)
    · exact .refl s

/-! ### The end of a procedure (R47, R65) -/

/-- A fault whose needed grade, if it has one, is 0 to 3. -/
def FaultReport.Bounded (f : FaultReport) : Prop := ∀ g ∈ f.grades, g.1 ≤ 3

theorem FaultReport.Bounded.needed {f : FaultReport} (h : f.Bounded) : (f.grades.map (·.1)).getD 0 ≤ 3 := by
  cases hg : f.grades with
  | none => exact Nat.zero_le 3
  | some g => exact h g hg

/-- The job of a unit as its procedure has left it: the same entry, discarded or not as before; and the fault it hands on
is bounded. -/
structure State.Ended (s : State) (u : UnitNo) (j : Job) (result : JobResult) : Prop where
  running : ∃ k, s.unit u = some k ∧ k.entry = j.entry ∧ k.discarded = j.discarded
  fault : ∀ f, result = .fault f → s.Ranged → f.Bounded

theorem State.Keeps.jobReadFails (hu : s.unit u = some j) {e : BankEntry} {f : FaultReport}
    (hf : s.Ranged → f.grades = none) : s.Keeps P x x (s.jobReadFails u j e f) :=
  ⟨fun h => h.jobReadFails hu e f, fun _ h => h.jobReadFails hu e (hf h)⟩

/-- A running job's bank is graded. -/
theorem State.Ranged.jobBank (h : s.Ranged) (hu : s.unit u = some j) : (s.bank j.bank).Graded :=
  h.banks _ (h.jobs u j hu).2

theorem runJob_keeps (hu : s.unit u = some j) : s.Keeps P x x (s.runJob u j).1 := by
  unfold State.runJob
  split
  · exact .refl s
  · split
    · exact .refl s
    · exact .refl s
    · rename_i e f hp
      exact .jobReadFails hu fun h => (h.jobs u j hu).1.badRead (h.jobBank hu) hp

/-- A procedure yields a quote or an option, no fault. -/
theorem Job.procedure_ok {b : Bank} {result : JobResult} (h : j.procedure b = .ok result) (f : FaultReport) :
    result ≠ .fault f := by
  have mapped {α : Type} (x : Except StopAt α) (k : α → JobResult) (hk : ∀ a, k a ≠ .fault f)
      (hx : onOneBank (x.map k) = .ok result) : result ≠ .fault f := by
    cases x with
    | ok a =>
      cases hx
      exact hk a
    | error e => cases hx
  unfold Job.procedure Job.procedureAt at h
  split at h
  · exact mapped _ .quote (fun _ e => nomatch e) h
  · exact mapped _ .option (fun _ e => nomatch e) h

theorem runJob_ended {result : JobResult} (hu : s.unit u = some j) (hr : s.runJob u j = (t, some result)) :
    t.Ended u j result := by
  have still (f : FaultReport) (hf : s.Ranged → f.Bounded) : s.Ended u j (.fault f) :=
    ⟨⟨j, hu, rfl, rfl⟩, by rintro _ ⟨⟩; exact hf⟩
  unfold State.runJob at hr
  split at hr
  · rename_i f hf
    cases hr
    exact still f fun h => (h.jobs u j hu).1.found f hf
  · split at hr
    · rename_i r hp
      cases hr
      exact ⟨⟨j, hu, rfl, rfl⟩, fun f hf => absurd hf (Job.procedure_ok hp f)⟩
    · rename_i f hp
      cases hr
      exact still f fun h => (h.jobs u j hu).1.procedure (h.jobBank hu) _ hp
    · rename_i e f hp
      obtain ⟨rfl, handed⟩ := Prod.mk.inj hr
      have unit := s.jobReadFails_unit (u := u) (j := j) e f
      refine ⟨⟨_, unit, rfl, rfl⟩, fun g hg h => (h.jobs u _ unit).1.found g ?_⟩
      split at handed
      · cases handed
      · cases handed
        exact congrArg some (JobResult.fault.inj hg)

/-! ### The end of a job (R72) -/

section
variable {k : Job}

/-- A job ends and its requester is answered. -/
theorem State.Keeps.finishJob (hk : s.unit u = some k) (he : k.entry = j.entry) (hd : k.discarded = false) (a : Answer) :
    s.Keeps P x x ((s.endJob u j).answerRequester j.entry.requester a) :=
  ⟨fun h => h.finish hk he hd a, fun _ h => (h.endJob u j).answerRequester _ a⟩

theorem finishJob_keepsTo (hk : s.unit u = some k) (he : k.entry = j.entry) (hd : k.discarded = false) (a : Answer) :
    s.KeepsTo P none (s.finishJob u j a) := .judge (.finishJob hk he hd a)

theorem positionFault_keepsTo (hk : s.unit u = some k) (he : k.entry = j.entry) (hd : k.discarded = false)
    {f : FaultReport} (hf : P → s.Ranged → f.Bounded) : s.KeepsTo P none (positionFault u j f s) := by
  have finish (a : Answer) : s.KeepsTo P none (s.finishJob u j a) := finishJob_keepsTo hk he hd a
  unfold positionFault
  split
  · exact finish _
  · rename_i p hp
    split
    · rename_i session pend res request hc
      split
      · exact finish _
      · split
        · exact finish _
        · refine .judge ⟨fun h => ?_, fun hP h => ?_⟩
          · unfold State.escalate
            split
            · refine h.park hk he hd hp ?_ ?_ <;> cases pend <;> rfl
            · have := h.finish hk he hd (.fault f)
              rwa [hp] at this
          · refine (h.endJob u j).escalate p pend request f ?_ (hf hP h).needed
            simpa [hc, Context.inRange] using h.ctx p
    · exact finish _

theorem State.answerRequester_raise (s : State) (c : Cause) (q : Requester) (a : Answer) :
    (s.raise c).answerRequester q a = (s.answerRequester q a).raise c := by
  have answered (l : Link) : (s.raise c).answer l a = (s.answer l a).raise c := by
    have link : (s.raise c).link l = s.link l := by cases l <;> rfl
    unfold State.answer
    rw [link]
    cases (s.link l).outstanding with
    | none => rfl
    | some o => cases l <;> rfl
  cases q with
  | position p =>
    show ((s.raise c).answer (.position p) a).setCtx p (s.ctx p).released = _
    rw [answered]
    rfl
  | dispatch =>
    show { (s.raise c).answer .dispatch a with pendingReweigh := none } = _
    rw [answered]
    rfl

theorem storeQuote_keeps (hk : s.unit u = some k) (he : k.entry = j.entry) (hd : k.discarded = false) {r : Rec}
    (hr : s.record j.entry.handle.slot = some r) (e : Entered) (q : Quote) :
    s.Keeps P none none (storeQuote u j r e q s) := by
  unfold storeQuote
  dsimp only
  split
  · have put : s.Keeps P none none (s.putRecord j.entry.handle.slot (r.change (.draft e))) := .change hr rfl
    rw [State.answerRequester_raise]
    have here : (s.putRecord j.entry.handle.slot (r.change (.draft e))).unit u = some k := hk
    exact (put.trans (.trans (.finishJob here he hd _) (.raise _ _))).trans (.judge _)
  · have put : s.Keeps P none none ((s.putRecord j.entry.handle.slot (r.change (.rated e q))).takePin q.bank) :=
      .trans (.change hr rfl) (.takePin _ _)
    refine (put.trans (.finishJob (k := k) ?_ he hd _)).trans (.judge _)
    rw [State.unit, State.takePin_units]
    exact hk

theorem addOption_keeps (hk : s.unit u = some k) (he : k.entry = j.entry) (hd : k.discarded = false) {r : Rec}
    (hr : s.record j.entry.handle.slot = some r) (e : Entered) (q : Quote) (l : Label) (adj : Nat)
    (rw : Option ReweighPart) (line : Option Line) :
    s.Keeps P none none (addOption u j r e q l adj rw line s) := by
  unfold addOption
  extract_lets code amount e' q' r'
  have put : s.Keeps P none none (s.putRecord j.entry.handle.slot r') := .change hr rfl
  have here : (s.putRecord j.entry.handle.slot r').unit u = some k := hk
  exact (put.trans (.finishJob here he hd _)).trans (.judge _)

end

/-- A completion hands on what its job's procedure has left, to an application that keeps both laws. -/
theorem completion_keepsTo {kind : JobKind → Bool} {apply : Job → Rec → JobResult → State → Outcome}
    (ha : ∀ j k r result (s : State), s.unit u = some k → k.entry = j.entry → k.discarded = false →
      s.record j.entry.handle.slot = some r → (∀ f, result = .fault f → P → s.Ranged → f.Bounded) →
      s.KeepsTo P none (apply j r result s)) : s.KeepsTo P none (completion u kind s apply) := by
  unfold completion
  split
  · exact .refl s
  · split
    · exact .refl s
    · rename_i j hu
      split
      · exact .refl s
      · rename_i taken
        have live : j.discarded = false := by
          simp only [Bool.or_eq_true, not_or, Bool.not_eq_true] at taken
          exact taken.1
        have run : s.Keeps P none none (s.runJob u j).1 := runJob_keeps hu
        split <;> rename_i hrun <;> rw [hrun] at run
        · exact .judge run
        · rename_i v result
          obtain ⟨⟨k, hk, he, hd⟩, fault⟩ := runJob_ended hu hrun
          rw [live] at hd
          split
          · exact .after run (finishJob_keepsTo hk he hd _)
          · rename_i r hf
            have read : v.Keeps P none none (v.readAt (.unit u) j.entry.handle.slot r).1 := .readAt v _ _ r
            split <;> rename_i hread
            · obtain ⟨rfl, rfl, rfl, -⟩ := State.readAt_found hread
              exact .after run (ha j k _ _ _ hk he hd (State.record_of_find hf) fun f hf _ h => fault f hf h)
            · rw [hread] at read
              exact .judge (run.trans (read.trans (.endUnread _ _ _)))
            · rw [hread] at read
              exact .judge (run.trans read)

theorem execRateJobCompletion_keepsTo (u : UnitNo) : s.KeepsTo P none (execRateJobCompletion u s) :=
  completion_keepsTo fun j k r result s hk he hd hr hf => by
    split
    · exact .next (storeQuote_keeps hk he hd hr _ _)
    · exact positionFault_keepsTo hk he hd (hf _ rfl)
    · exact finishJob_keepsTo hk he hd _

theorem execRateOptionCompletion_keepsTo (u : UnitNo) : s.KeepsTo P none (execRateOptionCompletion u s) :=
  completion_keepsTo fun j k r result s hk he hd hr hf => by
    split
    · exact .next (addOption_keeps hk he hd hr _ _ _ _ _ _)
    · exact positionFault_keepsTo hk he hd (hf _ rfl)
    · exact finishJob_keepsTo hk he hd _

/-- A re-rating's record keeps its marks and is not PRINTING (R170). -/
theorem reweighVerdict_record {pr : PendingReweigh} {r r' : Rec} {e : Entered} {q : Quote} {l : Label} {adj : Nat}
    {result : JobResult} {a : Answer} (h : reweighVerdict pr r e q l adj result = some (r', a)) :
    r'.queued = r.queued ∧ r'.busy = r.busy ∧ r'.body.deadlineOk = true := by
  unfold reweighVerdict at h
  split at h
  · split at h
    all_goals
      cases h
      exact ⟨rfl, rfl, rfl⟩
  · cases h
    exact ⟨rfl, rfl, rfl⟩
  · cases h

theorem execRerateReweighCompletion_keepsTo (u : UnitNo) : s.KeepsTo P none (execRerateReweighCompletion u s) :=
  completion_keepsTo fun j k r result s hk he hd hr _ => by
    split
    · split
      · rename_i hv
        obtain ⟨queued, busy, deadline⟩ := reweighVerdict_record hv
        have put := State.Keeps.rewrite (P := P) (x := none) hr queued busy fun _ => deadline
        exact .after put (finishJob_keepsTo (s := s.putRecord _ _) (k := k) hk he hd _)
      · exact finishJob_keepsTo hk he hd _
    · exact finishJob_keepsTo hk he hd _

/-! ### Discarded jobs and failing reads (R65, R73) -/

theorem execDiscardedJobCompletion_keepsTo (u : UnitNo) : s.KeepsTo P none (execDiscardedJobCompletion u s) := by
  unfold execDiscardedJobCompletion
  split
  · exact .refl s
  · split
    · exact .refl s
    · rename_i j hu
      split
      · exact .refl s
      · rename_i taken
        have run : s.Keeps P none none (s.runJob u j).1 := runJob_keeps hu
        split <;> rename_i hrun <;> rw [hrun] at run
        · exact .judge run
        · obtain ⟨⟨k, hk, he, hd⟩, -⟩ := runJob_ended hu hrun
          have drop : j.discarded = true := by simpa using taken
          refine .judge (run.trans ⟨fun h => h.dropResult hk he (hd.trans drop), fun _ h => h.endJob u j⟩)

theorem execJobReadFailsCheck_keepsTo (u : UnitNo) (entry : BankEntry) :
    s.KeepsTo P none (execJobReadFailsCheck u entry s) := by
  unfold execJobReadFailsCheck
  split
  · exact .refl s
  · split
    · exact .refl s
    · rename_i j hu
      split
      · exact .refl s
      · split
        · rename_i e f hp
          split
          · exact .judge (.jobReadFails hu fun h =>
              ((h.jobs u j hu).1.badRead ((h.jobBank hu).unsound entry) hp))
          · exact .refl s
        · exact .refl s

end Sys2Proof.Machine
end

section
/-! The laws of the requests, the grades and the times at every step (R67, R18, R19, R116, R164, R115, R124, R125, R45, R159,
R192, R6): O60. -/
namespace Sys2Proof.Machine

variable {s t : State} {P : Prop}

/-- Every command keeps both laws; that of the grades and the times from a state that meets the law of the pins. -/
theorem exec_keepsTo (hP : P → s.pinLaw = true) (i : Instr) : s.KeepsTo P none (exec i s) := by
  cases i with
  | newParcel h items => exact execNewParcel_keepsTo h items
  | setAttributes h items => exact execSetAttributes_keepsTo h items
  | rate h items =>
    exact positionRequest_keepsTo (by decide) fun _ _ _ _ _ ok hc =>
      rateRequest_keepsTo hc _ _ _ fun _ r => r.effectiveGrade_le hc ok (by decide)
  | commit h items => exact positionRequest_keepsTo (by decide) fun _ _ _ _ _ _ hc => commitRequest_keepsTo hc _ _ _
  | printed h items => exact execPrinted_keepsTo h items
  | spoilt h items => exact execSpoilt_keepsTo h items
  | query h items => exact execQuery_keepsTo h items
  | amendAddOption h items =>
    exact positionRequest_keepsTo (by decide) fun _ _ _ _ _ ok hc =>
      amendRequest_keepsTo hc _ _ _ fun _ r => r.effectiveGrade_le hc ok (by decide)
  | takeOver h items => exact execTakeOver_keepsTo h items
  | void h items => exact positionRequest_keepsTo (by decide) fun _ _ _ _ _ _ hc => voidRequest_keepsTo hc _ _ _ _
  | cancel h items => exact execCancel_keepsTo h items
  | reweigh h items => exact execReweigh_keepsTo h items
  | handover h items => exact execHandover_keepsTo h items
  | setTime h items => exact execSetTime_keepsTo h items
  | setTimers h items => exact execSetTimers_keepsTo h items
  | setEnables h items => exact execSetEnables_keepsTo h items
  | acknowledge h items => exact execAcknowledge_keepsTo h items
  | status h items => exact execStatus_keepsTo h items
  | openPosition h items => exact execOpenPosition_keepsTo h items
  | closePosition h items => exact execClosePosition_keepsTo h items
  | resetPosition h items => exact execResetPosition_keepsTo h items
  | suspend h items => exact execSuspend_keepsTo h items
  | resume h items => exact execResume_keepsTo h items
  | grant h items => exact execGrant_keepsTo h items
  | deny h items => exact execDeny_keepsTo h items
  | loadBlock h items => exact execLoadBlock_keepsTo h items
  | bankClear h items => exact execBankClear_keepsTo hP h items
  | bankWrite h items => exact execBankWrite_keepsTo hP h items
  | bankCopy h items => exact execBankCopy_keepsTo hP h items
  | bankVerify h items => exact execBankVerify_keepsTo h items
  | scheduleSwitch h items => exact execScheduleSwitch_keepsTo h items
  | unschedule h items => exact execUnschedule_keepsTo h items
  | patchWithdraw h items => exact execPatchWithdraw_keepsTo h items
  | patchRestore h items => exact execPatchRestore_keepsTo h items
  | patchRegrade h items => exact execPatchRegrade_keepsTo h items
  | patchApplied => exact execPatchApplied_keepsTo
  | settleAccept h items => exact execSettleAccept_keepsTo h items
  | settleVoid h items => exact execSettleVoid_keepsTo h items
  | querySupervisor h items => exact execQuerySupervisor_keepsTo h items
  | voidSupervisor h items => exact execVoidSupervisor_keepsTo h items
  | softReset h items => exact execSoftReset_keepsTo h items
  | drainEnd => exact execDrainEnd_keepsTo
  | frameDiscarded link bytes => exact .refl s
  | unknownRequest h kind => exact execUnknownRequest_keepsTo h kind
  | hardReset => exact .next (.hardResetValues s true)
  | resetRelease => exact execResetRelease_keepsTo
  | hallTimeTick => exact execHallTimeTick_keepsTo
  | printDeadlineExpiry n => exact execPrintDeadlineExpiry_keepsTo n
  | escalationTimeout p => exact execEscalationTimeout_keepsTo p
  | graceExpiry l => exact execGraceExpiry_keepsTo l
  | switch => exact execSwitch_keepsTo
  | grantOfJob => exact execGrantOfJob_keepsTo
  | rateJobCompletion u => exact execRateJobCompletion_keepsTo u
  | rateOptionCompletion u => exact execRateOptionCompletion_keepsTo u
  | rerateReweighCompletion u => exact execRerateReweighCompletion_keepsTo u
  | discardedJobCompletion u => exact execDiscardedJobCompletion_keepsTo u
  | jobReadFailsCheck u e => exact execJobReadFailsCheck_keepsTo u e

/-- Every step keeps both laws. -/
theorem step_keeps (h : step s = .next t) : s.Keeps (s.pinLaw = true) none none t := by
  unfold step at h
  split at h
  · cases h
    exact .refl s
  · rename_i c rest _
    have taken : s.Keeps (s.pinLaw = true) none none { s with pending := rest } :=
      .frame rfl rfl rfl rfl rfl rfl rfl rfl rfl rfl rfl rfl
    have pins : s.pinLaw = true → State.pinLaw { s with pending := rest } = true := id
    exact taken.trans (exec_keepsTo pins c t h)

/-- Settles O60: the invariants `State.InStep` and `State.Ranged`, both kept by every command (`exec_keepsTo`). -/
theorem requestLawsAreKept : Obligations.RequestLawsAreKept := by
  unfold Obligations.RequestLawsAreKept
  refine ⟨fun s t canonical marks requests h => ?_, fun s t _ pins ranges h => ?_⟩
  · have started := (State.inStep_iff (State.canonical_records s canonical)).2 ⟨marks, requests⟩
    have ended := (step_keeps h).inStep started
    exact (State.inStep_iff ended.marked.rising).1 ended
  · exact ((step_keeps h).ranged pins (State.ranged_of_rangeLaw pins ranges)).rangeLaw

end Sys2Proof.Machine
end

section
/-! SUPPORT. The requests of acceptance on a record their position owns (R80, R83 to R95), past their lookup: what their
operations leave aside, and the answers that change nothing. -/
namespace Sys2Proof.Machine

variable {s : State}

/-! ### Operations that leave the links aside -/

theorem State.bank_withLinks (s : State) (links : Links) (l : BankLetter) : (s.withLinks links).bank l = s.bank l := by
  cases l <;> rfl

theorem State.toDraft_withLinks (s : State) (links : Links) (slot : Nat) (r : Rec) (e : Entered) :
    (s.withLinks links).toDraft slot r e = (s.toDraft slot r e).withLinks links :=
  State.releaseBodyPin_withLinks (s.putRecord slot (r.change (.draft e))) links r.body

theorem State.graceExpired_withLinks (s : State) (links : Links) (l : BankLetter) :
    (s.withLinks links).graceExpired l = s.graceExpired l := by
  unfold State.graceExpired
  rw [State.bank_withLinks]

theorem State.unprint_withLinks (s : State) (links : Links) (slot : Nat) (r : Rec) (e : Entered) (q : Quote)
    (l : Label) : (s.withLinks links).unprint slot r e q l = (s.unprint slot r e q l).withLinks links := by
  have grace : ((s.withLinks links).eraseIndex l.serial).graceExpired q.bank =
      (s.eraseIndex l.serial).graceExpired q.bank := State.graceExpired_withLinks (s.eraseIndex l.serial) links q.bank
  unfold State.unprint
  dsimp only
  rw [grace]
  split
  · exact State.toDraft_withLinks (s.eraseIndex l.serial) links slot r e
  · rfl

theorem readAhead_withLinks (l : BankLetter) (e : BankEntry) (own : Option UnitNo) (s : State) (links : Links)
    (u : UnitNo) : readAhead l e own (s.withLinks links) u = (readAhead l e own s u).withLinks links := by
  have unit : (s.withLinks links).unit u = s.unit u := rfl
  unfold readAhead
  rw [unit]
  split
  · rfl
  · rw [State.bank_withLinks]
    split <;> rfl

theorem State.jobsReadOn_withLinks (s : State) (links : Links) (l : BankLetter) (e : BankEntry) (own : Option UnitNo) :
    (s.withLinks links).jobsReadOn l e own = (s.jobsReadOn l e own).withLinks links := by
  simp only [State.jobsReadOn, List.foldl, readAhead_withLinks]

theorem State.failBankEntry_withLinks (s : State) (links : Links) (l : BankLetter) (e : BankEntry) (reader : Reader)
    (own : Option UnitNo) :
    (s.withLinks links).failBankEntry l e reader own = (s.failBankEntry l e reader own).withLinks links := by
  unfold State.failBankEntry
  dsimp only
  rw [State.jobsReadOn_withLinks, State.bank_withLinks, ← State.report_withLinks]
  cases l <;> rfl

/-! ### A request at its body -/

variable {k : Kind} {p : PositionNo} {g : Tag} {items : List Item} {session : Session} {res : Option Reservation}
  {hd : Handle} {r : Rec}

/-- A held request's record is found where it was found before. -/
theorem State.Finds.hold (h : s.Finds hd r) (l : Link) (k : Kind) (g : Tag) : (s.hold l k g).Finds hd r :=
  ⟨(s.find_hold l k g hd).trans h.1, h.2⟩

/-- The link of a request served held nothing before it. -/
theorem State.ServesAt.free (h : s.ServesAt k p items session res) : (s.link (.position p)).outstanding = none := by
  obtain ⟨⟨⟨-, -, free, -⟩, -⟩, -⟩ := h
  exact free

/-- A request served, whose record passes its check and carries no mark that refuses, comes to its body. -/
theorem positionRequest_record (hs : s.ServesAt k p items session res) (hh : handleOf items = some hd)
    (hf : s.Finds hd r) {refusing : Rec → Bool} (hr : refusing r = false) (hd' : ∀ l, r.body ≠ .damaged l)
    (body : PositionNo → Handle → Rec → State → Outcome) :
    positionRequest k ⟨.position p, g⟩ (itemsAccepted k items) s
      (fun q _ _ t => withRecord q items t refusing (body q)) = body p hd r (s.hold (.position p) k g) :=
  (positionRequest_servesAt k p g items session res _ hs).trans
    (withRecord_found p items refusing (body p) hd r hh (hf.hold _ _ _) hr hd')

/-- A held request that returns its record to DRAFT is answered beside the state so written (R13). -/
theorem State.toDraft_finish_hold {l : Link} (free : (s.link l).outstanding = none) (slot : Nat) (r : Rec) (e : Entered)
    (a : Answer) :
    ((s.hold l k g).toDraft slot r e).finish l a = .next ((s.toDraft slot r e).judge.send l g k.code a) :=
  State.finish_beside (f := fun u => u.toDraft slot r e) (fun links => s.toDraft_withLinks links slot r e) l k g a free

/-- A RATED record returned to DRAFT: written as one change, its pin released (R13). -/
theorem State.toDraft_rated (s : State) (slot : Nat) {e : Entered} {q : Quote} (e' : Entered)
    (hb : r.body = .rated e q) : s.toDraft slot r e' = (s.putRecord slot { r with
      changeCount := (r.changeCount + 1) % 65536, sound := true, body := .draft e' }).releasePin q.bank := by
  rw [State.toDraft, hb]
  rfl

/-- Writing the context a position has changes nothing. -/
theorem State.setCtx_ctx (s : State) (p : PositionNo) {c : Context} (h : s.ctx p = c) : s.setCtx p c = s := by
  subst h
  simp only [State.setCtx, State.ctx, set_get_same]

/-- An answer frame leaves the conditions as they are judged. -/
theorem State.judge_send (s : State) (l : Link) (g : Tag) (k : Byte) (a : Answer) :
    (s.send l g k a).judge = s.judge.send l g k a := rfl

/-! ### An escalation (R123) -/

theorem State.escalate_enabled (s : State) (p : PositionNo) (request : HeldRequest) (needed : Nat)
    (report : FaultReport) (he : session.escalation = true) : s.escalate p session false request needed report =
      s.setCtx p (.escalated session ⟨request, needed, s.timers.escalationTimeout⟩) := by
  simp [State.escalate, he]

/-- With the enable clear the request of an OPEN position is answered, and nothing else changes. -/
theorem State.escalate_disabled (hs : s.ServesAt k p items session res) (request : HeldRequest) (needed : Nat)
    (report : FaultReport) (he : session.escalation = false) :
    (s.hold (.position p) k g).escalate p session false request needed report =
      s.send (.position p) g k.code (.fault report) := by
  have opened : s.ctx p = .opened session res := hs.2
  have released : (s.send (.position p) g k.code (.fault report)).ctx p =
      ((s.hold (.position p) k g).ctx p).released := by
    rw [State.ctx_send, State.ctx_hold, opened]
    rfl
  simp only [State.escalate, he, Bool.false_eq_true, if_false, State.answerPosition]
  rw [State.answer_hold _ _ _ _ _ hs.free, State.setCtx_ctx _ _ released]

end Sys2Proof.Machine
end

section
/-! SUPPORT. The items 05 to 0C of SET ATTRIBUTES (R83 to R85): which are accepted, and what each of them writes. -/
namespace Sys2Proof.Machine

variable {items : List Item} {c : Nat}

/-! ### Which items are accepted (R83) -/

theorem within_eq_true {lo hi n : Nat} : within lo hi n = true ↔ lo ≤ n ∧ n ≤ hi := by simp [within]

theorem attributeInRange_sides (a b c : Nat) :
    attributeInRange (.sides a b c) = true ↔ ∀ x ∈ [a, b, c], 10 ≤ x ∧ x ≤ 2000 := by
  simp [attributeInRange, within_eq_true, and_assoc]

theorem isAttributeItem_iff {i : Item} : isAttributeItem i = true ↔ 0x05 ≤ i.code ∧ i.code ≤ 0x0C := within_eq_true

/-- The items 05 to 0C alone hold every item of such a code. -/
theorem codeCount_attributeItems (h : 0x05 ≤ c ∧ c ≤ 0x0C) :
    codeCount c (items.filter isAttributeItem) = codeCount c items := by
  unfold codeCount
  rw [List.countP_filter]
  refine List.countP_congr fun i _ => ?_
  simp only [Bool.and_eq_true, beq_iff_eq, isAttributeItem_iff, and_iff_left_iff_imp]
  rintro rfl
  exact h

/-- A code that no item carries stands no time among them. -/
theorem codeCount_le_of_carried {n : Nat} (h : ∀ i ∈ items, i.code = c → codeCount c items ≤ n) :
    codeCount c items ≤ n := by
  rcases Nat.eq_zero_or_pos (codeCount c items) with hz | hpos
  · omega
  · obtain ⟨i, hi, hc⟩ := List.countP_pos_iff.1 hpos
    exact h i hi (by simpa using hc)

/-- How often a code of 05 to 0C may stand (R83). -/
def attributeLimit (c : Nat) : Nat := if c = 0x0B then 4 else 1

theorem attributeItemsOk_iff : attributeItemsOk items = true ↔
    (∃ i ∈ items, isAttributeItem i = true) ∧
      ∀ i ∈ items, isAttributeItem i = true →
        attributeInRange i = true ∧ codeCount i.code items ≤ attributeLimit i.code := by
  have count (i : Item) (h : isAttributeItem i = true) :
      codeCount i.code (items.filter isAttributeItem) = codeCount i.code items :=
    codeCount_attributeItems (isAttributeItem_iff.1 h)
  simp only [attributeItemsOk, Bool.and_eq_true, Bool.not_eq_true', List.isEmpty_eq_false_iff_exists_mem,
    List.all_eq_true, List.mem_filter, decide_eq_true_eq, and_imp, attributeLimit]
  exact and_congr_right fun _ => forall_congr' fun i => forall_congr' fun _ => forall_congr' fun h => by rw [count i h]

/-- Among accepted items each code stands at most as often as it may. -/
theorem codeCount_le_of_ok (hok : attributeItemsOk items = true) (h : 0x05 ≤ c ∧ c ≤ 0x0C) :
    codeCount c items ≤ attributeLimit c := by
  refine codeCount_le_of_carried fun i hi hc => ?_
  subst hc
  exact ((attributeItemsOk_iff.1 hok).2 i hi (isAttributeItem_iff.2 h)).2

/-- The codes one by one: each at most once, but add option up to four times. -/
theorem attributeItemsOk_iff_counts : attributeItemsOk items = true ↔
    (∃ i ∈ items, isAttributeItem i = true) ∧ (∀ i ∈ items, isAttributeItem i = true → attributeInRange i = true) ∧
      (∀ c ∈ [0x05, 0x06, 0x07, 0x08, 0x09, 0x0A, 0x0C], codeCount c items ≤ 1) ∧ codeCount 0x0B items ≤ 4 := by
  constructor
  · intro hok
    obtain ⟨some_item, each⟩ := attributeItemsOk_iff.1 hok
    refine ⟨some_item, fun i hi h => (each i hi h).1, fun c hc => ?_, codeCount_le_of_ok hok (by decide)⟩
    have limit : (0x05 ≤ c ∧ c ≤ 0x0C) ∧ attributeLimit c = 1 := by
      revert c
      decide
    exact limit.2 ▸ codeCount_le_of_ok hok limit.1
  · rintro ⟨some_item, range, once, options⟩
    refine attributeItemsOk_iff.2 ⟨some_item, fun i hi h => ⟨range i hi h, ?_⟩⟩
    have code := isAttributeItem_iff.1 h
    unfold attributeLimit
    split
    · rename_i hc
      rwa [hc]
    · refine once i.code ?_
      simp only [List.mem_cons, List.not_mem_nil, or_false]
      omega

/-- Two items of a code that stands at most once are one item. -/
theorem eq_of_codeCount_le_one {i j : Item} (h : codeCount c items ≤ 1) (hi : i ∈ items) (hj : j ∈ items)
    (hic : i.code = c) (hjc : j.code = c) : i = j := by
  rw [codeCount, List.countP_eq_length_filter] at h
  have mem {x : Item} (hx : x ∈ items) (hxc : x.code = c) : x ∈ items.filter fun i => i.code == c :=
    List.mem_filter.2 ⟨hx, by simpa using hxc⟩
  obtain ⟨x, hx⟩ : ∃ x, (items.filter fun i => i.code == c) = [x] :=
    List.length_eq_one_iff.1 (Nat.le_antisymm h (List.length_pos_of_mem (mem hi hic)))
  rw [hx] at mem
  exact (List.mem_singleton.1 (mem hi hic)).trans (List.mem_singleton.1 (mem hj hjc)).symm

/-! ### What an item writes (R83, R85) -/

/-- The items `item v` are those of one code, and write their value to one field, which no other item writes. -/
structure WritesAttribute {α : Type} (c : Nat) (item : α → Item) (field : Entered → Option α) : Prop where
  code : ∀ v, (item v).code = c
  written : ∀ e v, field (writeAttribute e (item v)) = some v
  kept : ∀ e i, (∀ v, i ≠ item v) → field (writeAttribute e i) = field e

section
variable {α : Type} {item : α → Item} {field : Entered → Option α} (h : WritesAttribute c item field)
include h

/-- A field whose item does not stand stays. -/
theorem WritesAttribute.absent (e : Entered) (hn : ∀ v, item v ∉ items) :
    field (items.foldl writeAttribute e) = field e := by
  induction items using List.reverseRecOn with
  | nil => rfl
  | append_singleton rest i ih =>
    rw [List.foldl_append, List.foldl_cons, List.foldl_nil,
      h.kept _ _ fun v hv => hn v (by simp [hv]), ih fun v hv => hn v (List.mem_append_left _ hv)]

/-- A field whose items all carry one value takes it. -/
theorem WritesAttribute.carried_of_unique (e : Entered) {v : α} (hv : item v ∈ items)
    (hu : ∀ w, item w ∈ items → w = v) : field (items.foldl writeAttribute e) = some v := by
  induction items using List.reverseRecOn with
  | nil => cases hv
  | append_singleton rest i ih =>
    rw [List.foldl_append, List.foldl_cons, List.foldl_nil]
    by_cases last : ∃ w, i = item w
    · obtain ⟨w, rfl⟩ := last
      rw [h.written, hu w (by simp)]
    · have other : ∀ w, i ≠ item w := fun w hw => last ⟨w, hw⟩
      have before : item v ∈ rest := by
        rcases List.mem_append.1 hv with hv | hv
        · exact hv
        · exact absurd (List.mem_singleton.1 hv).symm (other v)
      rw [h.kept _ _ other, ih before fun w hw => hu w (List.mem_append_left _ hw)]

/-- The value of an item that stands once is written. -/
theorem WritesAttribute.carried (e : Entered) {v : α} (hc : codeCount c items ≤ 1) (hv : item v ∈ items) :
    field (items.foldl writeAttribute e) = some v := by
  refine h.carried_of_unique e hv fun w hw => ?_
  have same : item w = item v := eq_of_codeCount_le_one hc hw hv (h.code w) (h.code v)
  have wrote := h.written e w
  rw [same, h.written e v] at wrote
  exact (Option.some.inj wrote).symm

end

/-! The six kinds of item that write a field. -/

theorem writesAttribute_serviceCode : WritesAttribute 0x05 .serviceCode Entered.serviceCode :=
  ⟨fun _ => rfl, fun _ _ => rfl, fun _ i h => by cases i with
    | serviceCode n => exact absurd rfl (h n)
    | _ => rfl⟩

theorem writesAttribute_destination : WritesAttribute 0x06 .destination Entered.destination :=
  ⟨fun _ => rfl, fun _ _ => rfl, fun _ i h => by cases i with
    | destination n => exact absurd rfl (h n)
    | _ => rfl⟩

theorem writesAttribute_mass : WritesAttribute 0x07 .mass Entered.mass :=
  ⟨fun _ => rfl, fun _ _ => rfl, fun _ i h => by cases i with
    | mass n => exact absurd rfl (h n)
    | _ => rfl⟩

/-- The item of three sides. -/
def Item.ofSides (d : Sides) : Item := .sides d.a d.b d.c

theorem writesAttribute_sides : WritesAttribute 0x08 Item.ofSides Entered.sides :=
  ⟨fun _ => rfl, fun _ _ => rfl, fun _ i h => by cases i with
    | sides a b c => exact absurd rfl (h ⟨a, b, c⟩)
    | _ => rfl⟩

theorem writesAttribute_declaredValue : WritesAttribute 0x09 .declaredValue Entered.declaredValue :=
  ⟨fun _ => rfl, fun _ _ => rfl, fun _ i h => by cases i with
    | declaredValue n => exact absurd rfl (h n)
    | _ => rfl⟩

theorem writesAttribute_contentCategory : WritesAttribute 0x0A .contentCategory Entered.contentCategory :=
  ⟨fun _ => rfl, fun _ _ => rfl, fun _ i h => by cases i with
    | contentCategory n => exact absurd rfl (h n)
    | _ => rfl⟩

/-- No item writes the time a record was opened at. -/
theorem foldl_writeAttribute_openedAt (e : Entered) : (items.foldl writeAttribute e).openedAt = e.openedAt := by
  induction items generalizing e with
  | nil => rfl
  | cons i rest ih =>
    rw [List.foldl_cons, ih]
    cases i <;> rfl

end Sys2Proof.Machine
end

section
/-! NEW PARCEL (R82, R3, R22) and the reading of every live record (R177, R178, R17): O18. -/
namespace Sys2Proof.Machine

variable {s : State}

/-! ### What the reading of every live record leaves -/

/-- The reading counts right where the records rise, and where none fails. -/
def State.ReadsWell (s : State) : Prop := risingKeys s.table.records.cells = true ∨ s.RecordsSound

theorem State.readsWell_of_canonical (h : s.canonical = true ∨ s.RecordsSound) : s.ReadsWell :=
  h.imp_left s.canonical_records

/-- The slots that are free stay the same. -/
theorem State.readAll_record_eq_none (h : s.ReadsWell) (reader : Reader) (n : Nat) :
    (s.readAll reader).record n = none ↔ s.record n = none := by
  rcases h with rising | sound
  · rw [s.readAll_record reader rising, Option.map_eq_none_iff]
  · rw [s.readAll_sound reader sound]

theorem State.readAll_handleAt (h : s.ReadsWell) (reader : Reader) (n : Nat) :
    (s.readAll reader).handleAt n = s.handleAt n := by
  rcases h with rising | sound
  · simp only [State.handleAt, State.generation, (s.readAll_table reader rising).1]
  · rw [s.readAll_sound reader sound]

/-- A record that passes its check, or is DAMAGED already, is left by its read. -/
theorem Rec.afterRead_kept {r : Rec} (h : r.sound = true ∨ ∃ l, r.body = .damaged l) : r.afterRead = r := by
  rcases h with h | ⟨l, h⟩
  · simp [Rec.afterRead, h]
  · cases hs : r.sound <;> simp [Rec.afterRead, h, hs]

/-- Any other becomes DAMAGED. -/
theorem Rec.afterRead_failing {r : Rec} (hs : r.sound = false) (hb : ∀ l, r.body ≠ .damaged l) :
    r.afterRead = r.damage := by
  cases h : r.body with
  | damaged l => exact absurd h (hb l)
  | _ => simp [Rec.afterRead, h, hs]

/-! ### NEW PARCEL -/

section
variable {p : PositionNo} {g : Tag} {items : List Item} {session : Session} {res : Option Reservation} {t : State}
  (hs : s.ServesAt .newParcel p items session res)
  (ht : t = (s.hold (.position p) .newParcel g).readAll (.position p))
include hs ht

/-- NEW PARCEL on the state `t` that the reading of every live record leaves. -/
theorem exec_newParcel_read : exec (.newParcel ⟨.position p, g⟩ items) s =
    if 8 ≤ t.ownedInHand p then t.finish (.position p) .limit
    else (t.table.records.lowestFree 4096 0).elim (t.finish (.position p) .tableFull) fun slot =>
      (t.putRecord slot (.fresh p t.hallTime)).finish (.position p) (.done (.parcel (t.handleAt slot))) := by
  dsimp only [exec, execNewParcel]
  rw [positionRequest_servesAt _ p g items session res _ hs, ← ht]
  dsimp only [Config.slotCount]
  cases t.table.records.lowestFree 4096 0 <;> rfl

theorem exec_newParcel_limit (hn : 8 ≤ t.ownedInHand p) :
    exec (.newParcel ⟨.position p, g⟩ items) s = .next (t.answer (.position p) .limit).judge := by
  rw [exec_newParcel_read hs ht, if_pos hn, State.finish]

theorem exec_newParcel_tableFull (hn : t.ownedInHand p < 8) (hfull : ∀ m, m < 4096 → t.record m ≠ none) :
    exec (.newParcel ⟨.position p, g⟩ items) s = .next (t.answer (.position p) .tableFull).judge := by
  have full : t.table.records.lowestFree 4096 0 = none :=
    t.table.records.lowestFree_none _ _ fun m _ hm => hfull m (by omega)
  rw [exec_newParcel_read hs ht, if_neg (Nat.not_le_of_lt hn), full, Option.elim_none, State.finish]

theorem exec_newParcel_takes {slot : Nat} (hn : t.ownedInHand p < 8) (hslot : slot < 4096)
    (hfree : t.record slot = none) (hlow : ∀ m, m < slot → t.record m ≠ none) :
    exec (.newParcel ⟨.position p, g⟩ items) s =
      .next ((t.putRecord slot (.fresh p t.hallTime)).answer (.position p)
        (.done (.parcel (t.handleAt slot)))).judge := by
  have lowest : t.table.records.lowestFree 4096 0 = some slot :=
    t.table.records.lowestFree_some (Nat.zero_le slot) (by omega) hfree fun m _ hm => hlow m hm
  rw [exec_newParcel_read hs ht, if_neg (Nat.not_le_of_lt hn), lowest, Option.elim_some, State.finish]

end

/-- Settles O18: NEW PARCEL is judged on the records as their reading leaves them, which changes each failing record by
itself. -/
theorem newParcelTakesTheLowestSlot : Obligations.NewParcelTakesTheLowestSlot := by
  unfold Obligations.NewParcelTakesTheLowestSlot
  refine ⟨fun g items s t p session res n hs hc hn ht => ?_, fun s reader => s.readAll_sound reader,
    fun s t reader hc ht => ?_⟩
  · have same : (s.hold (.position p) .newParcel g).table = s.table := s.hold_table _ _ _
    have reads : (s.hold (.position p) .newParcel g).ReadsWell := by
      rw [State.ReadsWell, State.RecordsSound, same]
      exact State.readsWell_of_canonical hc
    have count : t.ownedInHand p = n := by
      rw [hn, ht, State.ownedInHand, State.owned_readAll _ _ _ _ (fun _ => rfl) reads, same]
    have free (m : Nat) : t.record m = none ↔ s.record m = none := by
      rw [ht, State.readAll_record_eq_none reads, State.record_hold]
    have handle (m : Nat) : t.handleAt m = s.handleAt m := by
      rw [ht, State.readAll_handleAt reads, State.handleAt_hold]
    have time : t.hallTime = s.hallTime := by rw [ht, State.readAll_hallTime, State.hold_hallTime]
    refine ⟨fun h => exec_newParcel_limit hs ht (count ▸ h), fun h hfull =>
      exec_newParcel_tableFull hs ht (count ▸ h) fun m hm => (free m).not.2 (hfull m hm),
      fun slot h hslot hfree hlow => ?_⟩
    rw [exec_newParcel_takes hs ht (count ▸ h) hslot ((free slot).2 hfree) fun m hm => (free m).not.2 (hlow m hm),
      handle, time]
    rfl
  · subst ht
    have rising := s.canonical_records hc
    obtain ⟨generations, index⟩ := s.readAll_table reader rising
    refine ⟨s.readAll_eq_foldl reader rising, fun m => (State.readAll_record_eq_none (.inl rising) reader m).2,
      fun m r hr => ?_, generations, index, fun p => ⟨s.owned_readAll reader p _ (fun _ => rfl) (.inl rising),
        s.owned_readAll reader p _ (fun _ => rfl) (.inl rising)⟩⟩
    have left : (s.readAll reader).record m = some r.afterRead := by rw [s.readAll_record reader rising, hr]; rfl
    refine ⟨fun h => left.trans (congrArg some (Rec.afterRead_kept h)), fun hsound hb => ?_⟩
    rw [left, Rec.afterRead_failing hsound hb, Rec.damage_eq]

end Sys2Proof.Machine
end

section
/-! SET ATTRIBUTES, PRINTED, SPOILT and the expiry of the print deadline (R83 to R85, R94 to R96, R15, R177): O19. -/
namespace Sys2Proof.Machine

variable {s : State} {p : PositionNo} {g : Tag} {items : List Item} {session : Session} {res : Option Reservation}
  {hd : Handle} {r : Rec} {e : Entered} {q : Quote} {l : Label} {d : Nat}

/-! ### SET ATTRIBUTES -/

/-- A DRAFT record stays DRAFT, as one change. -/
theorem State.toDraft_draft (s : State) (slot : Nat) (e' : Entered) (hb : r.body = .draft e) :
    s.toDraft slot r e' = s.putRecord slot { r with
      changeCount := (r.changeCount + 1) % 65536, sound := true, body := .draft e' } := by
  rw [State.toDraft, hb]
  rfl

/-- SET ATTRIBUTES of an unbusy DRAFT or RATED record by its owner: its checks in order, else the record written. -/
theorem exec_setAttributes_open (hs : s.ServesAt .setAttributes p items session res) (hh : handleOf items = some hd)
    (hf : s.Finds hd r) (hbusy : r.busy = false) (ho : r.owner = p) (he : r.body.openEntries = some e) :
    exec (.setAttributes ⟨.position p, g⟩ items) s =
      if attributeItemsOk items = false then .next (s.send (.position p) g Kind.setAttributes.code .malformed)
      else if hasRepeat (candidateOptions items e.options) = true then
        .next (s.send (.position p) g Kind.setAttributes.code .optionPresent)
      else if 4 < (candidateOptions items e.options).length then
        .next (s.send (.position p) g Kind.setAttributes.code .limit)
      else .next ((s.toDraft hd.slot r (writeAttributes items e)).judge.send (.position p) g Kind.setAttributes.code
        (.done (.changed hd .draft ((r.changeCount + 1) % 65536)))) := by
  have undamaged : ∀ l, r.body ≠ .damaged l := fun l hl => by simp [hl, RecordBody.openEntries] at he
  dsimp only [exec, execSetAttributes]
  rw [positionRequest_record hs hh hf (refusing := refusedBusy) hbusy undamaged]
  simp only [ho, he, ne_eq, not_true_eq_false, if_false, Bool.not_eq_true', State.reply_hold _ _ _ _ hs.free,
    State.toDraft_finish_hold hs.free, Config.optionLimit]

/-! ### PRINTED and SPOILT -/

section
variable (hh : handleOf items = some hd) (hf : s.Finds hd r) (ho : r.owner = p)
include hh hf ho

/-- PRINTED of a PRINTING record whose serial it names makes it LABELLED, its pin released (R94, R15). -/
theorem exec_printed_labels (hs : s.ServesAt .printed p items session res) (hb : r.body = .printing e q l d)
    (hn : serialOf items = some l.serial) : exec (.printed ⟨.position p, g⟩ items) s =
      .next (((s.putRecord hd.slot (r.change (.labelled e q l 0 none))).releasePin q.bank).judge.send (.position p) g
        Kind.printed.code (.done .plain)) := by
  dsimp only [exec, execPrinted]
  rw [positionRequest_record hs hh hf rfl (by simp [hb])]
  simp only [ho, hb, hn, ne_eq, not_true_eq_false, if_false, if_true]
  exact State.finish_beside
    (f := fun u => (u.putRecord hd.slot (r.change (.labelled e q l 0 none))).releasePin q.bank)
    (fun links => State.releaseBodyPin_withLinks (s.putRecord hd.slot _) links (.rated e q)) _ _ g _ hs.free

/-- SPOILT of a PRINTING record whose serial it names takes it out of print (R95, R15). -/
theorem exec_spoilt_unprints (hs : s.ServesAt .spoilt p items session res) (hb : r.body = .printing e q l d)
    (hn : serialOf items = some l.serial) : exec (.spoilt ⟨.position p, g⟩ items) s =
      .next ((s.unprint hd.slot r e q l).judge.send (.position p) g Kind.spoilt.code
        (.done (.state (unprintedState s q)))) := by
  have state : unprintedState (s.hold (.position p) .spoilt g) q = unprintedState s q := by
    rw [unprintedState, State.hold_eq, State.graceExpired_withLinks]
    rfl
  dsimp only [exec, execSpoilt]
  rw [positionRequest_record hs hh hf rfl (by simp [hb])]
  simp only [ho, hb, hn, ne_eq, not_true_eq_false, if_false, if_true, state]
  exact State.finish_beside (f := fun u => u.unprint hd.slot r e q l)
    (fun links => s.unprint_withLinks links _ _ _ _ _) _ _ g _ hs.free

/-- Both are TOO LATE where the record is not PRINTING with the serial they name. -/
theorem exec_endsPrint_tooLate {k : Kind} (hk : k = .printed ∨ k = .spoilt) (hs : s.ServesAt k p items session res)
    (hd' : ∀ l, r.body ≠ .damaged l)
    (hn : r.body.isPrinting = true → serialOf items ≠ r.body.label.map Label.serial) :
    exec (requestCommand k ⟨.position p, g⟩ items) s = .next (s.send (.position p) g k.code .tooLate) := by
  have answered := s.reply_hold (.position p) k g .tooLate hs.free
  rcases hk with rfl | rfl
  all_goals
    dsimp only [requestCommand, exec, execPrinted, execSpoilt]
    rw [positionRequest_record hs hh hf rfl hd', ← answered]
    cases hb : r.body with
    | printing e q l d =>
      have other : serialOf items ≠ some l.serial := by simpa [hb, RecordBody.isPrinting, RecordBody.label] using hn
      simp [ho, other]
    | _ => simp [ho]

end

/-! ### Out of print (R15) -/

section
variable (s : State) (slot : Nat)

theorem State.unprint_before_grace (r : Rec) (e : Entered) (l : Label) (hg : s.graceExpired q.bank = false) :
    s.unprint slot r e q l = (s.eraseIndex l.serial).putRecord slot (r.change (.rated e q)) := by
  have grace : (s.eraseIndex l.serial).graceExpired q.bank = false := hg
  simp [State.unprint, grace]

theorem State.unprint_after_grace (hb : r.body = .printing e q l d) (hg : s.graceExpired q.bank = true) :
    s.unprint slot r e q l = ((s.eraseIndex l.serial).putRecord slot (r.change (.draft e))).releasePin q.bank := by
  have grace : (s.eraseIndex l.serial).graceExpired q.bank = true := hg
  simp only [State.unprint, grace, if_true, State.toDraft, hb]
  rfl

end

/-! ### The print deadline (R96) -/

section
variable {slot : Nat} (hl : s.Live) (hr : s.record slot = some r)
include hl hr

/-- With time left the expiry does not come about (log entry 2). -/
theorem exec_printDeadline_early (hb : r.body = .printing e q l d) (hd : 0 < d) :
    exec (.printDeadlineExpiry slot) s = .next s := by
  obtain ⟨n, rfl⟩ := Nat.exists_eq_succ_of_ne_zero hd.ne'
  simp [exec, execPrintDeadlineExpiry, hl.1, hl.2, hr, hb]

variable (hb : r.body = .printing e q l 0)
include hb

theorem exec_printDeadline_unprints (hs : r.sound = true) :
    exec (.printDeadlineExpiry slot) s = .next (s.unprint slot r e q l).judge := by
  simp [exec, execPrintDeadlineExpiry, hl.1, hl.2, hr, hb, s.readAt_sound _ _ _ hs]

theorem exec_printDeadline_failing (hs : r.sound = false) : exec (.printDeadlineExpiry slot) s =
    .next ((s.damageRecord slot r (.record (s.handleAt slot))).report (.record (s.handleAt slot))
      .printDeadline).judge := by
  simp [exec, execPrintDeadlineExpiry, hl.1, hl.2, hr, hb, s.readAt_failing _ _ _ hs]

end

/-- Settles O19: SET ATTRIBUTES is its checks, the items it accepts and what they write; the ends of print are PRINTED,
and the way out of print that SPOILT and the deadline share. -/
theorem attributesAndPrintEnds : Obligations.AttributesAndPrintEnds := by
  unfold Obligations.AttributesAndPrintEnds
  refine ⟨fun g items s p session res hd r e hs hh hf hbusy ho he => ?_, fun items => attributeItemsOk_iff_counts,
    fun n a b c => ⟨within_eq_true, ?_, within_eq_true, attributeInRange_sides a b c, ?_, within_eq_true,
      within_eq_true, rfl⟩,
    fun items e hok => ?_, fun g items s p session res hd r hh hf ho => ⟨fun hs => ?_, fun hs => ?_⟩,
    fun s slot r e q l d hl hr hs hb => ?_, fun s slot r e q l hl hr hs hb => ?_⟩
  · rw [exec_setAttributes_open hs hh hf hbusy ho he]
    refine ⟨fun hok => by simp [hok], fun hok hrep => by simp [hok, hrep],
      fun hok hrep hlen => by simp [hok, hrep, hlen], fun hok hrep hlen => ?_⟩
    have written := s.toDraft_draft (r := r) hd.slot (e := e) (writeAttributes items e)
    have released {q : Quote} := s.toDraft_rated (r := r) hd.slot (e := e) (q := q) (writeAttributes items e)
    simp only [hok, hrep, Bool.true_eq_false, Bool.false_eq_true, if_false, if_neg (Nat.not_lt_of_le hlen)]
    exact ⟨fun hb => by rw [written hb], fun q hb => by rw [released hb]⟩
  · simp [attributeInRange, within]
  · simp [attributeInRange, within]
  · have once {c : Nat} (hc : 0x05 ≤ c ∧ c ≤ 0x0A) : codeCount c items ≤ 1 := by
      have := codeCount_le_of_ok hok (c := c) (by omega)
      rwa [attributeLimit, if_neg (by omega)] at this
    exact ⟨fun n => writesAttribute_serviceCode.carried e (once (by decide)),
      fun n => writesAttribute_destination.carried e (once (by decide)),
      fun n => writesAttribute_mass.carried e (once (by decide)),
      fun a b c => writesAttribute_sides.carried e (v := ⟨a, b, c⟩) (once (by decide)),
      fun n => writesAttribute_declaredValue.carried e (once (by decide)),
      fun n => writesAttribute_contentCategory.carried e (once (by decide)),
      writesAttribute_serviceCode.absent e, writesAttribute_destination.absent e, writesAttribute_mass.absent e,
      fun hn => writesAttribute_sides.absent e fun v => hn v.a v.b v.c,
      writesAttribute_declaredValue.absent e, writesAttribute_contentCategory.absent e, rfl,
      foldl_writeAttribute_openedAt e⟩
  · have late := exec_endsPrint_tooLate (g := g) hh hf ho (.inl rfl) hs
    exact ⟨fun e q l d hb hn => exec_printed_labels hh hf ho hs hb hn, fun e q l d hb hn =>
      late (by simp [hb]) fun _ => by rw [hb]; exact hn, fun hb hd' => late hd' fun h => absurd h (by simp [hb])⟩
  · have late := exec_endsPrint_tooLate (g := g) hh hf ho (.inr rfl) hs
    refine ⟨fun e q l d hb hn hg => ?_, fun e q l d hb hn hg => ?_, fun e q l d hb hn =>
      late (by simp [hb]) fun _ => by rw [hb]; exact hn, fun hb hd' => late hd' fun h => absurd h (by simp [hb])⟩
    · rw [exec_spoilt_unprints hh hf ho hs hb hn, s.unprint_before_grace _ _ _ _ hg, unprintedState, hg]
      rfl
    · rw [exec_spoilt_unprints hh hf ho hs hb hn, s.unprint_after_grace _ hb hg, unprintedState, hg]
      rfl
  · refine ⟨?_, ?_, exec_printDeadline_early hl hr hb⟩
    · rintro rfl hg
      rw [exec_printDeadline_unprints hl hr hb hs, s.unprint_before_grace _ _ _ _ hg]
      rfl
    · rintro rfl hg
      rw [exec_printDeadline_unprints hl hr hb hs, s.unprint_after_grace _ hb hg]
      rfl
  · refine ⟨exec_printDeadline_failing hl hr hb hs, fun hu hq => ?_⟩
    rw [exec_printDeadline_failing hl hr hb hs, State.damageRecord_report _ _ (by simp [hb]) hu hq, State.damagedIdle,
      Rec.damage_eq, hb]
    rfl

end Sys2Proof.Machine
end

section
/-! RATE (R86, R68, R122, R76): O20. -/
namespace Sys2Proof.Machine

variable {s : State} {p : PositionNo} {g : Tag} {items : List Item} {session : Session} {res : Option Reservation}
  {hd : Handle} {r : Rec} {e : Entered} {q : Quote} {eg : Nat}

/-- A RATE served is judged at its EG on the held request. -/
theorem exec_rate (hs : s.ServesAt .rate p items session res) : exec (.rate ⟨.position p, g⟩ items) s =
    rateRequest p session res (max session.grade ((statedGradeOf items).getD 0)) g items
      (s.hold (.position p) .rate g) := by
  dsimp only [exec, execRate]
  exact positionRequest_servesAt _ p g items session res _ hs

/-- An entry that joins marks the record of its handle (R68, R19). -/
theorem State.join_found (x : QueueEntry) (hf : s.find x.handle = some r) : s.join x =
    State.putRecord { s with queue := s.queue ++ [x] } x.handle.slot { r with queued := true } := by
  have live : State.record { s with queue := s.queue ++ [x] } x.handle.slot = some r := State.record_of_find hf
  simp only [State.join, State.markQueued, live]

section
variable (hh : handleOf items = some hd) (hf : s.Finds hd r) (hbusy : r.busy = false) (hqueued : r.queued = false)
  (ho : r.owner = p) (he : r.body.openEntries = some e)
include hh hf hbusy hqueued he

/-- The lookup of an unmarked DRAFT or RATED record goes on with it. -/
theorem withRecord_unmarked (body : Handle → Rec → State → Outcome) :
    withRecord p items s refusedMarked body = body hd r s :=
  withRecord_found p items refusedMarked body hd r hh hf (by simp [refusedMarked, hbusy, hqueued])
    fun l hl => by simp [hl, RecordBody.openEntries] at he

include ho

theorem rateRequest_noEdition (ha : s.activeBank = none) :
    rateRequest p session res eg g items s = s.reply (.position p) .noEdition := by
  simp [rateRequest, withRecord_unmarked hh hf hbusy hqueued he, ho, he, ha]

variable (ha : s.activeBank ≠ none)
include ha

theorem rateRequest_draining (hdrain : s.draining = true) :
    rateRequest p session res eg g items s = s.reply (.position p) .reset := by
  simp [rateRequest, withRecord_unmarked hh hf hbusy hqueued he, ho, he, ha, hdrain]

/-- Past its checks a RATE joins the queue, a RATED record returned to DRAFT before. -/
theorem rateRequest_joins (hdrain : s.draining = false) : rateRequest p session res eg g items s =
    .next ((((if r.body.pin.isSome then s.toDraft hd.slot r e else s).join ⟨.rate, hd, .position p, eg⟩).setCtx p
      (.working session false res ⟨.rate, g, items, none⟩)).judge) := by
  simp [rateRequest, withRecord_unmarked hh hf hbusy hqueued he, ho, he, ha, hdrain]

end

/-- Settles O20: a RATE of an unmarked record by its owner takes its two checks on the held request, and joins past
them. -/
theorem rateJoinsTheQueue : Obligations.RateJoinsTheQueue := by
  unfold Obligations.RateJoinsTheQueue
  intro g items s p session res hd r e hs hh hf hbusy hqueued ho
  have found := hf.hold (.position p) .rate g
  have active : (s.hold (.position p) .rate g).activeBank = s.activeBank := rfl
  have draining : (s.hold (.position p) .rate g).draining = s.draining := rfl
  have answered (a : Answer) := s.reply_hold (.position p) .rate g a hs.free
  rw [exec_rate hs, ← active, ← draining]
  refine ⟨fun hb ha hdrain => ?_, fun q hb ha hdrain => ?_, fun he ha => ?_, fun he ha hdrain => ?_⟩
  · have unpinned : ¬ r.body.pin.isSome := by simp [hb, RecordBody.pin]
    rw [rateRequest_joins hh found hbusy hqueued ho (by rw [hb]; rfl) ha hdrain, if_neg unpinned,
      State.join_found ⟨.rate, hd, .position p, _⟩ found.1]
    rfl
  · have pinned : r.body.pin.isSome := by simp [hb, RecordBody.pin]
    rw [rateRequest_joins hh found hbusy hqueued ho (by rw [hb]; rfl) ha hdrain, if_pos pinned]
  · rw [rateRequest_noEdition hh found hbusy hqueued ho he ha, answered]
  · rw [rateRequest_draining hh found hbusy hqueued ho he ha hdrain, answered]

end Sys2Proof.Machine
end

section
/-! COMMIT (R88 to R92, R14, R141) and the label number (R144): O21. -/
namespace Sys2Proof.Machine

variable {s : State} {p : PositionNo} {g : Tag} {items : List Item} {session : Session} {res : Option Reservation}
  {hd : Handle} {r : Rec} {e : Entered} {q : Quote} {service : Service} {eg : Nat} {subject : Subject}

/-! ### The clearance (R90) -/

/-- No clearance is needed where the service asks for none, the declared value is below the threshold, or the grade is
at most 1. -/
theorem needsClearance_eq_false {threshold declared : Nat}
    (h : service.customs = false ∨ declared < threshold ∨ eg ≤ 1) :
    needsClearance service threshold declared eg = false := by
  rcases h with h | h | h <;> simp [needsClearance, h]

theorem needsClearance_eq_true {threshold declared : Nat} (hc : service.customs = true) (hd : threshold ≤ declared)
    (hg : 1 < eg) : needsClearance service threshold declared eg = true := by
  simp [needsClearance, hc, hd, hg]

/-! ### The pool and the zone lookup (R141, R91) -/

theorem Pool.draw_nil {pool : Pool} (h : pool.blocks = []) : pool.draw = none := by simp [Pool.draw, h]

theorem Pool.draw_cons {pool : Pool} {b : Block} {rest : List Block} (h : pool.blocks = b :: rest) :
    pool.draw = some (b.next, { pool with
      blocks := if b.next = b.last then rest else { b with next := b.next + 1 } :: rest }) := by
  simp [Pool.draw, h]

/-- A pool with a block gives a serial. -/
theorem Pool.draw_isSome {pool : Pool} (h : pool.blocks ≠ []) : ∃ drawn, pool.draw = some drawn := by
  obtain ⟨b, rest, hb⟩ := List.exists_cons_of_ne_nil h
  exact ⟨_, Pool.draw_cons hb⟩

/-- The first damaged place that only undamaged places below the district precede is where the lookup stops. -/
theorem damagedPlaceFor_append {district n : Nat} {c : Cell Zone} {before after : List (Nat × Cell Zone)}
    (hc : c.damaged = true)
    (hbefore : ∀ x ∈ before, x.2.damaged = false ∧ ∀ z, x.2.content = some z → z.high < district) :
    damagedPlaceFor district (before ++ (n, c) :: after) = some n := by
  induction before with
  | nil => simp [damagedPlaceFor, hc]
  | cons x before ih =>
    obtain ⟨sound, below⟩ := hbefore x (List.mem_cons_self ..)
    have rest := ih fun y hy => hbefore y (List.mem_cons_of_mem _ hy)
    cases hx : x.2.content with
    | none => simpa [damagedPlaceFor, sound, hx] using rest
    | some z => simpa [damagedPlaceFor, sound, hx, below z hx] using rest

/-! ### A COMMIT of a RATED record by its owner -/

/-- The lookup of an unbusy RATED record goes on with it. -/
theorem withRecord_rated (hh : handleOf items = some hd) (hf : s.Finds hd r) (hbusy : r.busy = false)
    (hb : r.body = .rated e q) (body : Handle → Rec → State → Outcome) :
    withRecord p items s refusedBusy body = body hd r s :=
  withRecord_found p items refusedBusy body hd r hh hf hbusy (by simp [hb])

/-- A COMMIT served is judged at its EG on the held request. -/
theorem exec_commit (hs : s.ServesAt .commit p items session res) : exec (.commit ⟨.position p, g⟩ items) s =
    commitRequest p session (max session.grade ((statedGradeOf items).getD 0)) g items
      (s.hold (.position p) .commit g) := by
  dsimp only [exec, execCommit]
  exact positionRequest_servesAt _ p g items session res _ hs

section
variable (hh : handleOf items = some hd) (hf : s.Finds hd r) (hbusy : r.busy = false) (ho : r.owner = p)
  (hb : r.body = .rated e q)
include hh hf hbusy ho hb

theorem commitRequest_withdrawn
    (hw : recheck (s.bank q.bank) (e.serviceCode.getD 0) = .error ⟨subject, none⟩) :
    commitRequest p session eg g items s = (s.toDraft hd.slot r e).finish (.position p) (.withdrawn subject) := by
  simp [commitRequest, withRecord_rated hh hf hbusy hb, ho, hb, hw]

theorem commitRequest_withdrawn_failing {entry : BankEntry}
    (hw : recheck (s.bank q.bank) (e.serviceCode.getD 0) = .error ⟨subject, some entry⟩) :
    commitRequest p session eg g items s =
      ((s.failBankEntry q.bank entry (.position p) none).toDraft hd.slot r e).finish (.position p)
        (.withdrawn subject) := by
  simp [commitRequest, withRecord_rated hh hf hbusy hb, ho, hb, hw]

variable (hw : recheck (s.bank q.bank) (e.serviceCode.getD 0) = .ok service)
include hw

theorem commitRequest_escalated
    (hn : needsClearance service (s.bank q.bank).parameters.customsThreshold (e.declaredValue.getD 0) eg = true) :
    commitRequest p session eg g items s =
      .next (s.escalate p session false ⟨.commit, g, items, none⟩ 1 (gradeRefusal .commit 1 eg)).judge := by
  simp [commitRequest, withRecord_rated hh hf hbusy hb, ho, hb, hw, hn]

variable (hn : needsClearance service (s.bank q.bank).parameters.customsThreshold (e.declaredValue.getD 0) eg = false)
include hn

theorem commitRequest_noNumbers (hp : s.pool.draw = none) :
    commitRequest p session eg g items s = s.reply (.position p) .noNumbers := by
  simp [commitRequest, withRecord_rated hh hf hbusy hb, ho, hb, hw, hn, hp]

variable {drawn : Nat × Pool} (hp : s.pool.draw = some drawn)
include hp

theorem commitRequest_issues {z : Zone} (hz : lookupZone (s.bank q.bank) (e.destination.getD 0) = .ok z) :
    commitRequest p session eg g items s = issueLabel p hd r e q drawn.1 drawn.2 service z s := by
  simp [commitRequest, withRecord_rated hh hf hbusy hb, ho, hb, hw, hn, hp, hz]

theorem commitRequest_place_failing {entry : BankEntry} {f : FaultReport}
    (hz : lookupZone (s.bank q.bank) (e.destination.getD 0) = .error (.badRead entry f)) :
    commitRequest p session eg g items s =
      (s.failBankEntry q.bank entry (.position p) none).finish (.position p)
        (.damaged (.bankEntry q.bank entry)) := by
  simp [commitRequest, withRecord_rated hh hf hbusy hb, ho, hb, hw, hn, hp, hz]

theorem commitRequest_place_damaged {n : Nat} {f : FaultReport}
    (hz : lookupZone (s.bank q.bank) (e.destination.getD 0) = .error (.fault f))
    (hd' : damagedPlaceFor (e.destination.getD 0) (s.bank q.bank).zones.cells = some n) :
    commitRequest p session eg g items s = s.reply (.position p) (.damaged (.bankEntry q.bank (.place n))) := by
  simp [commitRequest, withRecord_rated hh hf hbusy hb, ho, hb, hw, hn, hp, hz, hd']

end

/-! ### What a held COMMIT answers -/

/-- The issue of a label on a held request (R91, R92). -/
theorem issueLabel_hold (free : (s.link (.position p)).outstanding = none) (serial : Nat) (pool : Pool) (z : Zone) :
    issueLabel p hd r e q serial pool service z (s.hold (.position p) .commit g) =
      .next ((State.putRecord (State.putIndex { s with pool := pool } serial ⟨hd.slot, false, true⟩) hd.slot
        (r.change (.printing e q (labelFor service z serial s.hallTime) s.timers.printDeadline))).judge.send
        (.position p) g Kind.commit.code (.label (labelAnswer p e q (labelFor service z serial s.hallTime)))) :=
  State.finish_beside (s := s)
    (f := fun u => State.putRecord (State.putIndex { u with pool := pool } serial ⟨hd.slot, false, true⟩) hd.slot
      (r.change (.printing e q (labelFor service z serial s.hallTime) s.timers.printDeadline)))
    (fun _ => rfl) (.position p) .commit g _ free

/-! ### The label number (R144) -/

theorem serialDigits_eq {n d1 d2 d3 d4 d5 d6 d7 d8 d9 : Nat} (hd : ∀ d ∈ [d1, d2, d3, d4, d5, d6, d7, d8, d9], d < 10)
    (hn : n = d1 * 100000000 + d2 * 10000000 + d3 * 1000000 + d4 * 100000 + d5 * 10000 + d6 * 1000 + d7 * 100 +
      d8 * 10 + d9) : serialDigits n = [d1, d2, d3, d4, d5, d6, d7, d8, d9] := by
  simp only [List.forall_mem_cons, List.not_mem_nil, false_implies, implies_true, and_true] at hd
  obtain ⟨h1, h2, h3, h4, h5, h6, h7, h8, h9⟩ := hd
  simp only [serialDigits, List.map_cons, List.map_nil, List.cons.injEq, and_true]
  refine ⟨?_, ?_, ?_, ?_, ?_, ?_, ?_, ?_, ?_⟩ <;> omega

theorem checkByte_eq (n : Nat) : checkByte n = BitVec.ofNat 8 (if n < 10 then 48 + n else 88) := by
  unfold checkByte
  split <;> rfl

/-- Settles O21: a COMMIT of a RATED record by its owner takes its checks in order, and each of its ends is answered on
the held request; the number of a label is its two letters, its nine digits and its check character. -/
theorem commitIssuesALabelOrRefuses : Obligations.CommitIssuesALabelOrRefuses := by
  unfold Obligations.CommitIssuesALabelOrRefuses
  refine ⟨fun g items s p session res hd r e q service z b rest hs hh hf hbusy ho hb hw hc hp hz => ?_,
    fun l d1 d2 d3 d4 d5 d6 d7 d8 d9 hd hn => ?_, fun g items s p session res hd r e q hs hh hf hbusy ho hb => ?_⟩
  · have bank := s.bank_hold (.position p) .commit g q.bank
    have unneeded := needsClearance_eq_false hc
    have drawn := (s.hold_pool (.position p) .commit g).symm ▸ Pool.draw_cons hp
    rw [← bank] at hw hz unneeded
    rw [exec_commit hs, commitRequest_issues hh (hf.hold _ _ _) hbusy ho hb hw unneeded drawn hz]
    exact issueLabel_hold hs.free _ _ z
  · rw [Label.number, serialDigits_eq hd hn, checkByte_eq]
    exact ⟨rfl, rfl⟩
  · have bank := s.bank_hold (.position p) .commit g q.bank
    have found := hf.hold (.position p) .commit g
    have answered (a : Answer) := s.reply_hold (.position p) .commit g a hs.free
    rw [exec_commit hs, ← bank]
    refine ⟨fun subject hw => ?_, fun service hw hc ht hg he => ?_, fun service hw hc ht hg he => ?_,
      fun service hw hc hp => ?_, fun subject entry hw => ?_, fun service f hw hc hp => ?_⟩
    · rw [commitRequest_withdrawn hh found hbusy ho hb hw, State.toDraft_finish_hold hs.free,
        State.toDraft_rated s hd.slot e hb]
    · rw [commitRequest_escalated hh found hbusy ho hb hw (needsClearance_eq_true hc ht hg),
        State.escalate_enabled _ _ _ _ _ he]
      rfl
    · rw [commitRequest_escalated hh found hbusy ho hb hw (needsClearance_eq_true hc ht hg),
        State.escalate_disabled hs _ _ _ he]
      rfl
    · rw [commitRequest_noNumbers hh found hbusy ho hb hw (needsClearance_eq_false hc) (Pool.draw_nil hp), answered]
    · rw [commitRequest_withdrawn_failing hh found hbusy ho hb hw, ← State.toDraft_rated _ hd.slot e hb]
      refine State.finish_beside (f := fun u => (u.failBankEntry q.bank entry (.position p) none).toDraft hd.slot r e)
        (fun links => ?_) _ _ g _ hs.free
      rw [State.failBankEntry_withLinks, State.toDraft_withLinks]
    · have unneeded := needsClearance_eq_false hc
      obtain ⟨drawn, hdrawn⟩ := Pool.draw_isSome hp
      refine ⟨fun entry hz => ?_, fun before n c after hcells hdamaged hbefore hz => ?_⟩
      · rw [commitRequest_place_failing hh found hbusy ho hb hw unneeded hdrawn hz]
        exact State.finish_beside (f := fun u => u.failBankEntry q.bank entry (.position p) none)
          (fun links => s.failBankEntry_withLinks links _ _ _ _) _ _ g _ hs.free
      · have place := damagedPlaceFor_append (n := n) (after := after) hdamaged hbefore
        rw [← hcells] at place
        rw [commitRequest_place_damaged hh found hbusy ho hb hw unneeded hdrawn hz place, answered]

end Sys2Proof.Machine
end

section
/-! SUPPORT. The requests on shared records (06): the lookup of the record named, the reservation used, and a
retirement beside a held request. -/
namespace Sys2Proof.Machine

variable {s : State} {k : Kind} {p : PositionNo} {g : Tag} {items : List Item} {session : Session}
  {res : Option Reservation} {hd : Handle} {r : Rec} {slot : Nat}

/-! ### The record named by handle or by serial (R99, R112) -/

theorem State.FindsNamed.lookupItems (h : s.FindsNamed items slot r) (reader : Reader) :
    s.lookupItems reader items = (s, .found slot r) := by
  obtain ⟨hd, hh, rfl, hf, hs⟩ | ⟨hh, n, hn, hi, hr, hs⟩ := h
  · simp only [State.lookupItems_handle _ hh, State.lookupHandle, hf, s.readAt_sound _ _ _ hs]
  · simp only [State.lookupItems_serial _ hh hn, State.lookupSerial, hi, hr, s.readAt_sound _ _ _ hs,
      Bool.false_eq_true, if_false, if_true]

theorem State.FindsNone.lookupItems (h : s.FindsNone items) (reader : Reader) :
    s.lookupItems reader items = (s, .noRecord) := by
  obtain ⟨hd, hh, hf⟩ | ⟨hh, n, hn, hi⟩ := h
  · simp only [State.lookupItems_handle _ hh, State.lookupHandle, hf]
  · simp only [State.lookupItems_serial _ hh hn, State.lookupSerial, hi]

/-- A held request finds what was found before it was held. -/
theorem State.FindsNamed.hold (h : s.FindsNamed items slot r) (l : Link) (k : Kind) (g : Tag) :
    (s.hold l k g).FindsNamed items slot r := by
  simpa only [State.FindsNamed, State.Finds, State.FindsSerial, State.find_hold, State.index_hold, State.record_hold]
    using h

theorem State.FindsNone.hold (h : s.FindsNone items) (l : Link) (k : Kind) (g : Tag) :
    (s.hold l k g).FindsNone items := by
  simpa only [State.FindsNone, State.find_hold, State.index_hold] using h

/-! ### The reservation used (R103) -/

theorem reservationValid_iff : reservationValid res hd r = true ↔ res = some ⟨hd, r.changeCount⟩ := beq_iff_eq

/-- A held request leaves the contexts aside, so that a context may be written before it is held. -/
theorem State.setCtx_hold (s : State) (l : Link) (c : Context) :
    (s.hold l k g).setCtx p c = (s.setCtx p c).hold l k g := by cases l <;> rfl

/-- The context written last stands. -/
theorem State.setCtx_setCtx (s : State) (c c' : Context) : (s.setCtx p c).setCtx p c' = s.setCtx p c' := by
  simp [State.setCtx]

/-- An entry joins the queue beside the contexts. -/
theorem State.join_setCtx (s : State) (c : Context) (x : QueueEntry) :
    (s.setCtx p c).join x = (s.join x).setCtx p c := by
  simp only [State.join, State.markQueued, State.record, State.setCtx_table, State.setCtx_queue]
  split <;> rfl

/-- Without its reservation the position is served as before. -/
theorem State.ServesAt.spent (hs : s.ServesAt k p items session res) :
    (s.setCtx p (.opened session none)).ServesAt k p items session none := ⟨hs.1, s.ctx_setCtx p _⟩

/-- A held request that uses the reservation and is answered at once. -/
theorem State.reply_spent (hs : s.ServesAt k p items session res) (a : Answer) :
    ((s.hold (.position p) k g).setCtx p (.opened session none)).reply (.position p) a =
      .next ((s.setCtx p (.opened session none)).send (.position p) g k.code a) := by
  rw [State.setCtx_hold]
  exact State.reply_hold _ _ _ _ hs.spent.free

/-- A request that has used the reservation escalates (R123). -/
theorem State.escalate_spent_enabled (request : HeldRequest) (needed : Nat) (report : FaultReport)
    (he : session.escalation = true) :
    (s.setCtx p (.opened session none)).escalate p session false request needed report =
      s.setCtx p (.escalated session ⟨request, needed, s.timers.escalationTimeout⟩) := by
  rw [State.escalate_enabled _ _ _ _ _ he, State.setCtx_setCtx]
  rfl

theorem State.escalate_spent_disabled (hs : s.ServesAt k p items session res) (request : HeldRequest) (needed : Nat)
    (report : FaultReport) (he : session.escalation = false) :
    ((s.hold (.position p) k g).setCtx p (.opened session none)).escalate p session false request needed report =
      (s.setCtx p (.opened session none)).send (.position p) g k.code (.fault report) := by
  rw [State.setCtx_hold]
  exact State.escalate_disabled hs.spent _ _ _ he

/-! ### A retirement beside a held request (R5) -/

section
variable {l : Link}

/-- The answers of two links are apart. -/
theorem State.answer_setLink {m : Link} (h : m ≠ l) (x : LinkState) (a : Answer) :
    (s.setLink l x).answer m a = (s.answer m a).setLink l x := by
  have comm (y : LinkState) : (s.setLink l x).setLink m y = (s.setLink m y).setLink l x := by
    cases l with
    | position p =>
      cases m with
      | position q =>
        have apart : p.val ≠ q.val := fun e => h (by rw [Fin.ext e])
        simp only [State.setLink, Vector.set_comm _ _ apart]
      | dispatch => rfl
      | supervisor => rfl
    | dispatch =>
      cases m with
      | dispatch => exact absurd rfl h
      | _ => rfl
    | supervisor =>
      cases m with
      | supervisor => exact absurd rfl h
      | _ => rfl
  have other := s.link_setLink_other l m x h.symm
  cases ho : (s.link m).outstanding with
  | none => simp only [State.answer, other, ho]
  | some o =>
    rw [State.answer_held _ a (other.symm ▸ ho), State.answer_held _ a ho, other, comm]
    cases l <;> rfl

theorem State.answerRequester_setLink {q : Requester} (h : q.link ≠ l) (x : LinkState) (a : Answer) :
    (s.setLink l x).answerRequester q a = (s.answerRequester q a).setLink l x := by
  have answered := State.answer_setLink (s := s) h x a
  cases q with
  | position q =>
    simp only [Requester.link] at answered
    simp only [State.answerRequester, State.answerPosition, answered, State.ctx_setLink]
    cases l <;> rfl
  | dispatch =>
    simp only [Requester.link] at answered
    simp only [State.answerRequester, answered]
    cases l <;> rfl

theorem State.retiring_setLink (x : LinkState) : (s.setLink l x).retiring r = (s.retiring r).setLink l x := by
  have released := s.releaseBodyPin_withLinks (s.setLink l x).links r.body
  have same : (s.releaseBodyPin r.body).withLinks (s.setLink l x).links = (s.releaseBodyPin r.body).setLink l x := by
    cases l <;> simp [State.withLinks, State.setLink]
  have own : s.withLinks (s.setLink l x).links = s.setLink l x := by cases l <;> rfl
  rw [own, same] at released
  unfold State.retiring
  rw [released]
  split <;> cases l <;> rfl

/-- The end of a queue entry answers its requester alone. -/
theorem State.dropEntryOn_setLink (h : ∀ x ∈ s.queue, x.requester.link ≠ l) (x : LinkState) (hd : Handle)
    (a : Answer) : (s.setLink l x).dropEntryOn hd a = (s.dropEntryOn hd a).setLink l x := by
  have same : (s.setLink l x).queue = s.queue := s.setLink_queue l x
  cases he : s.queue.find? (fun e => e.handle == hd) with
  | none => simp only [State.dropEntryOn, same, he]
  | some e =>
    rw [State.dropEntryOn_some _ a (same.symm ▸ he), State.dropEntryOn_some _ a he,
      ← State.answerRequester_setLink (h e (List.mem_of_find?_eq_some he))]
    cases l <;> rfl

theorem State.retire_setLink (h : ∀ x ∈ s.queue, x.requester.link ≠ l) (x : LinkState) :
    (s.setLink l x).retire slot r = (s.retire slot r).setLink l x := by
  have same : (s.setLink l x).handleAt slot = s.handleAt slot := by cases l <;> rfl
  rw [State.retire_eq, State.retire_eq, State.retiring_setLink, same, State.dropEntryOn_setLink (by simpa using h)]
  cases l <;> rfl

/-- A held request whose requester has no entry in the queue, answered past a retirement. -/
theorem State.retire_finish_hold (h : ∀ x ∈ s.queue, x.requester.link ≠ l) (free : (s.link l).outstanding = none)
    (a : Answer) : ((s.hold l k g).retire slot r).finish l a = .next ((s.retire slot r).judge.send l g k.code a) := by
  have own : (s.retire slot r).link l = s.link l := by
    conv_lhs => rw [← s.setLink_link l, State.retire_setLink h]
    exact State.link_setLink _ l _
  have held : (s.hold l k g).retire slot r = (s.retire slot r).hold l k g := by
    rw [State.hold, State.retire_setLink h, State.hold, own]
  rw [held]
  exact State.finish_beside (f := id) (fun _ => rfl) l k g a (own.symm ▸ free)

end

end Sys2Proof.Machine
end

section
/-! QUERY (R99 to R101): O22. -/
namespace Sys2Proof.Machine

variable {s : State} {p : PositionNo} {g : Tag} {items : List Item} {session : Session} {res : Option Reservation}
  {slot : Nat} {r : Rec}

/-- QUERY reports the record on the state in which the position holds its reservation. -/
theorem exec_query_found (hs : s.ServesAt .query p items session res) (hf : s.FindsNamed items slot r) :
    exec (.query ⟨.position p, g⟩ items) s =
      .next ((s.setCtx p (.opened session
        (if reserves items then some ⟨s.handleAt slot, r.changeCount⟩ else res))).send (.position p) g Kind.query.code
        (.record (viewOf (s.handleAt slot) r) (reserves items))) := by
  have reserved (res' : Option Reservation) : (if reserves items then
      (s.hold (.position p) .query g).setCtx p (.opened session res') else s.hold (.position p) .query g) =
        (s.setCtx p (.opened session (if reserves items then res' else res))).hold (.position p) .query g := by
    split
    · exact s.setCtx_hold _ _
    · rw [s.setCtx_ctx p hs.2]
  dsimp only [exec, execQuery]
  rw [positionRequest_servesAt _ p g items session res _ hs, (hf.hold _ _ _).lookupItems]
  dsimp only
  rw [reserved, State.handleAt_hold]
  exact State.reply_hold _ _ _ _ hs.free

theorem exec_query_none (hs : s.ServesAt .query p items session res) (hf : s.FindsNone items) :
    exec (.query ⟨.position p, g⟩ items) s = .next (s.send (.position p) g Kind.query.code .noRecord) := by
  dsimp only [exec, execQuery]
  rw [positionRequest_servesAt _ p g items session res _ hs, (hf.hold _ _ _).lookupItems]
  exact State.reply_hold _ _ _ _ hs.free

theorem exec_querySupervisor_found (hs : s.Serves .querySupervisor .supervisor items) (hf : s.FindsNamed items slot r) :
    exec (.querySupervisor ⟨.supervisor, g⟩ items) s =
      .next (s.send .supervisor g Kind.querySupervisor.code (.record (viewOf (s.handleAt slot) r) false)) := by
  dsimp only [exec, execQuerySupervisor]
  rw [haltedRequest_serves .querySupervisor ⟨.supervisor, g⟩ items _ hs, (hf.hold _ _ _).lookupItems]
  dsimp only
  rw [State.handleAt_hold]
  exact State.reply_hold _ _ _ _ hs.1.2.2.1

theorem exec_querySupervisor_none (hs : s.Serves .querySupervisor .supervisor items) (hf : s.FindsNone items) :
    exec (.querySupervisor ⟨.supervisor, g⟩ items) s =
      .next (s.send .supervisor g Kind.querySupervisor.code .noRecord) := by
  dsimp only [exec, execQuerySupervisor]
  rw [haltedRequest_serves .querySupervisor ⟨.supervisor, g⟩ items _ hs, (hf.hold _ _ _).lookupItems]
  exact State.reply_hold _ _ _ _ hs.1.2.2.1

/-- Settles O22: either QUERY looks its record up and answers what it finds; a position's sets the reservation asked for
and is answered beside it. -/
theorem queryReportsTheRecord : Obligations.QueryReportsTheRecord := by
  unfold Obligations.QueryReportsTheRecord
  exact ⟨fun _ _ _ _ _ _ _ _ hs hf => exec_query_found hs hf, fun _ _ _ _ _ _ hs hf => exec_query_none hs hf,
    fun _ _ _ hs hf => exec_querySupervisor_none hs hf, fun _ _ _ _ _ hs hf => exec_querySupervisor_found hs hf⟩

end Sys2Proof.Machine
end

section
/-! AMEND ADD OPTION (R103 to R105, R76): O24. -/
namespace Sys2Proof.Machine

variable {s : State} {p : PositionNo} {g : Tag} {items : List Item} {session : Session} {res : Option Reservation}
  {hd : Handle} {r : Rec} {e : Entered} {q : Quote} {l : Label} {adj code : Nat} {rw : Option ReweighPart}

/-- An AMEND served is judged at its EG on the held request. -/
theorem exec_amend (hs : s.ServesAt .amend p items session res) : exec (.amendAddOption ⟨.position p, g⟩ items) s =
    amendRequest p session res (max session.grade ((statedGradeOf items).getD 0)) g items
      (s.hold (.position p) .amend g) := by
  dsimp only [exec, execAmendAddOption]
  exact positionRequest_servesAt _ p g items session res _ hs

section
variable {eg : Nat} (hh : handleOf items = some hd) (hf : s.Finds hd r) (hm : refusedMarked r = false)
include hh hf hm

theorem amendRequest_lost (hb : ∀ l, r.body ≠ .damaged l) (hv : res ≠ some ⟨hd, r.changeCount⟩) :
    amendRequest p session res eg g items s =
      (s.setCtx p (.opened session none)).reply (.position p) .reservationLost := by
  simp [amendRequest, withRecord_found p items _ _ hd r hh hf hm hb, reservationValid_iff, hv]

theorem amendRequest_wrongState (hn : r.body.name ∈ [.draft, .rated, .printing, .held]) :
    amendRequest p session (some ⟨hd, r.changeCount⟩) eg g items s =
      (s.setCtx p (.opened session none)).reply (.position p) .wrongState := by
  have undamaged : ∀ l, r.body ≠ .damaged l := fun l hl => by simp [hl, RecordBody.name] at hn
  rw [amendRequest, withRecord_found p items _ _ hd r hh hf hm undamaged]
  cases hb : r.body with
  | labelled e q l adj rw => simp [hb, RecordBody.name] at hn
  | _ => simp [reservationValid_iff]

/-- On a valid reservation of a LABELLED record: the checks of R104 in order, else the option's entry at the tail of the
queue. -/
theorem amendRequest_labelled (hb : r.body = .labelled e q l adj rw) (hc : optionCodeOf items = some code) :
    amendRequest p session (some ⟨hd, r.changeCount⟩) eg g items s =
      let spent := s.setCtx p (.opened session none)
      let request : HeldRequest := ⟨.amend, g, items, some ⟨hd, r.changeCount⟩⟩
      if code ∈ e.options then spent.reply (.position p) .optionPresent
      else if 4 ≤ e.options.length then spent.reply (.position p) .limit
      else if 2 < eg then .next (spent.escalate p session false request 2 (gradeRefusal .amend 2 eg)).judge
      else if s.draining then spent.reply (.position p) .reset
      else .next ((State.putRecord { s with queue := s.queue ++ [⟨.rateOption code, hd, .position p, eg⟩] } hd.slot
        { r with queued := true }).setCtx p (.working session false none request)).judge := by
  have valid : reservationValid (some ⟨hd, r.changeCount⟩) hd r = true := reservationValid_iff.2 rfl
  have draining : (s.setCtx p (.opened session none)).draining = s.draining := rfl
  have joined (c : Context) :
      ((s.setCtx p (.opened session none)).join ⟨.rateOption code, hd, .position p, eg⟩).setCtx p c =
        (State.putRecord { s with queue := s.queue ++ [⟨.rateOption code, hd, .position p, eg⟩] } hd.slot
          { r with queued := true }).setCtx p c := by
    rw [State.join_setCtx, State.setCtx_setCtx, State.join_found _ hf.1]
  rw [amendRequest, withRecord_found p items _ _ hd r hh hf hm (by simp [hb])]
  simp only [valid, hb, hc, Bool.not_true, Bool.false_eq_true, if_false, List.contains_iff_mem, Config.optionLimit,
    draining, joined]

end

/-- Settles O24: an AMEND of an unmarked record uses the reservation before its checks, each of which is answered on the
position so left, and joins the queue past them. -/
theorem amendJoinsTheQueue : Obligations.AmendJoinsTheQueue := by
  unfold Obligations.AmendJoinsTheQueue
  refine ⟨fun g items s p session hd r hs hh hf hbusy hqueued hn => ?_,
    fun g items s p session res hd r code e q l adj rw hs hh hc hf hbusy hqueued hb => ?_⟩
  · have unmarked : refusedMarked r = false := by simp [refusedMarked, hbusy, hqueued]
    rw [exec_amend hs, amendRequest_wrongState hh (hf.hold _ _ _) unmarked hn, State.reply_spent hs]
  have unmarked : refusedMarked r = false := by simp [refusedMarked, hbusy, hqueued]
  have found := hf.hold (.position p) .amend g
  have draining : (s.hold (.position p) .amend g).draining = s.draining := rfl
  rw [exec_amend hs]
  refine ⟨?_, ?_, ?_, ?_, ?_, ?_, fun hv => by
    rw [amendRequest_lost hh found unmarked (by simp [hb]) hv, State.reply_spent hs]⟩
  all_goals
    rintro rfl
    rw [amendRequest_labelled hh found unmarked hb hc, draining]
  · intro hp hl hg hd
    simp only [hp, Nat.not_le_of_lt hl, Nat.not_lt_of_le hg, hd, if_false, Bool.false_eq_true]
    rfl
  · intro hp hl hg he
    simp only [hp, Nat.not_le_of_lt hl, hg, if_false, if_true]
    rw [State.escalate_spent_enabled _ _ _ he]
    rfl
  · intro hp hl hg he
    simp only [hp, Nat.not_le_of_lt hl, hg, if_false, if_true]
    rw [State.escalate_spent_disabled hs _ _ _ he]
    rfl
  · intro hp
    simp only [hp, if_true, State.reply_spent hs]
  · intro hp hl
    simp only [hp, hl, if_false, if_true, State.reply_spent hs]
  · intro hp hl hg hd
    simp only [hp, Nat.not_le_of_lt hl, Nat.not_lt_of_le hg, hd, if_false, if_true, State.reply_spent hs]

end Sys2Proof.Machine
end

section
/-! TAKE OVER (R108, R109, R177): O25. -/
namespace Sys2Proof.Machine

variable {s : State} {p : PositionNo} {g : Tag} {items : List Item} {session : Session} {res : Option Reservation}
  {hd : Handle} {r : Rec}

/-- The position that asks is not CLOSED, the reservation used or not. -/
theorem State.isClosed_spent (hc : s.ctx p = .opened session res) (q : PositionNo) :
    ((s.setCtx p (.opened session none)).ctx q).isClosed = (s.ctx q).isClosed := by
  by_cases h : p = q
  · subst h
    rw [State.ctx_setCtx, hc]
    rfl
  · rw [State.ctx_setCtx_other _ _ _ _ h]

theorem Context.isClosed_iff {c : Context} : c.isClosed = true ↔ c = .closed := by
  cases c <;> simp [Context.isClosed]

/-- A TAKE OVER of an unbusy record uses the reservation; past its checks it goes by the count on the records `t` that
their reading leaves. -/
theorem exec_takeOver {t : State} (hs : s.ServesAt .takeOver p items session res) (hh : handleOf items = some hd)
    (hf : s.Finds hd r) (hbusy : r.busy = false) (hb : ∀ l, r.body ≠ .damaged l)
    (ht : t = ((s.hold (.position p) .takeOver g).setCtx p (.opened session none)).readAll (.position p)) :
    exec (.takeOver ⟨.position p, g⟩ items) s =
      let refused (a : Answer) : Outcome :=
        .next ((s.setCtx p (.opened session none)).send (.position p) g Kind.takeOver.code a)
      if res ≠ some ⟨hd, r.changeCount⟩ then refused .reservationLost
      else if r.body.isOpen = false then refused .wrongState
      else if s.ctx r.owner ≠ .closed then refused .notOwner
      else if 8 ≤ t.ownedInHand p then t.finish (.position p) .limit
      else (t.putRecord hd.slot { r with
        owner := p, changeCount := (r.changeCount + 1) % 65536, sound := true }).finish (.position p)
          (.done (.takenOver hd p r.body.name ((r.changeCount + 1) % 65536))) := by
  have opened : (s.hold (.position p) .takeOver g).ctx p = .opened session res := (s.ctx_hold _ _ _ p).trans hs.2
  have owner := (State.isClosed_spent opened r.owner).trans
    (congrArg Context.isClosed (s.ctx_hold (.position p) .takeOver g r.owner))
  dsimp only [exec, execTakeOver]
  rw [positionRequest_servesAt _ p g items session res _ hs,
    withRecord_found p items refusedBusy _ hd r hh (hf.hold _ _ _) hbusy hb]
  simp only [Bool.not_eq_true', ← Bool.not_eq_true, reservationValid_iff, owner, Context.isClosed_iff, ← ht,
    State.reply_spent hs, Config.ownedLimit]
  rfl

/-- Settles O25: the checks of TAKE OVER in their order, and the count on the records their reading leaves. -/
theorem takeOverChangesTheOwner : Obligations.TakeOverChangesTheOwner := by
  unfold Obligations.TakeOverChangesTheOwner
  refine ⟨fun g items s p session res hd r hs hh hf hbusy hb => ?_,
    fun g items s t p session hd r n hs hh hf hbusy ho hn ht => ?_⟩
  · rw [exec_takeOver hs hh hf hbusy hb rfl]
    refine ⟨fun hv => if_pos hv, fun hv hx => ?_⟩
    have closed : r.body.isOpen = false := by cases hc : r.body <;> simp_all [RecordBody.name, RecordBody.isOpen]
    rw [if_neg (not_not_intro hv), if_pos closed]
  · have undamaged : ∀ l, r.body ≠ .damaged l := fun l hl => by simp [hl, RecordBody.isOpen] at ho
    have same : ((s.hold (.position p) .takeOver g).setCtx p (.opened session none)).table = s.table :=
      s.hold_table _ _ _
    have count (hc : s.canonical = true ∨ s.RecordsSound) : t.ownedInHand p = n := by
      have reads : ((s.hold (.position p) .takeOver g).setCtx p (.opened session none)).ReadsWell := by
        rw [State.ReadsWell, State.RecordsSound, same]
        exact State.readsWell_of_canonical hc
      rw [hn, ht, State.ownedInHand, State.owned_readAll _ _ _ _ (fun _ => rfl) reads, same]
    rw [exec_takeOver hs hh hf hbusy undamaged ht]
    simp only [ne_eq, not_true_eq_false, if_false, ho, Bool.true_eq_false]
    refine ⟨fun hx hc hl => ?_, fun hx hc hl => ?_, fun hx => if_pos hx⟩
    · rw [if_neg (not_not_intro hx), count hc, if_neg (Nat.not_le_of_lt hl), State.finish]
    · rw [if_neg (not_not_intro hx), count hc, if_pos hl, State.finish]

end Sys2Proof.Machine
end

section
/-! VOID (R110 to R112): O26. -/
namespace Sys2Proof.Machine

variable {s : State} {p : PositionNo} {g : Tag} {items : List Item} {session : Session} {res : Option Reservation}
  {hd : Handle} {r : Rec} {e : Entered} {q : Quote} {l : Label} {adj slot : Nat} {rw : Option ReweighPart}

/-- A VOID served is judged at its EG on the held request. -/
theorem exec_void (hs : s.ServesAt .void p items session res) : exec (.void ⟨.position p, g⟩ items) s =
    voidRequest p session res (max session.grade ((statedGradeOf items).getD 0)) g items
      (s.hold (.position p) .void g) := by
  dsimp only [exec, execVoid]
  exact positionRequest_servesAt _ p g items session res _ hs

section
variable {eg : Nat} (hh : handleOf items = some hd) (hf : s.Finds hd r) (hbusy : r.busy = false)
include hh hf hbusy

/-- A DRAFT, RATED or PRINTING record is its owner's to void (R110). -/
theorem voidRequest_unlabelled (hb : r.body.isOpen = true ∨ r.body.isPrinting = true) :
    voidRequest p session res eg g items s =
      if r.owner ≠ p then s.reply (.position p) .notOwner
      else (s.retire hd.slot r).finish (.position p) (.done (.parcel hd)) := by
  have undamaged : ∀ l, r.body ≠ .damaged l := fun l hl => by simp [hl, RecordBody.isOpen, RecordBody.isPrinting] at hb
  rw [voidRequest, withRecord_found p items refusedBusy _ hd r hh hf hbusy undamaged]
  cases hx : r.body <;> simp_all [RecordBody.isOpen, RecordBody.isPrinting]

/-- A LABELLED one goes by the reservation, which is used, and by EG (R111). -/
theorem voidRequest_labelled (hb : r.body = .labelled e q l adj rw) :
    voidRequest p session res eg g items s =
      let spent := s.setCtx p (.opened session none)
      if res ≠ some ⟨hd, r.changeCount⟩ then spent.reply (.position p) .reservationLost
      else if 1 < eg then
        .next (spent.escalate p session false ⟨.void, g, items, res⟩ 1 (gradeRefusal .void 1 eg)).judge
      else (spent.retire hd.slot r).finish (.position p) (.done (.parcel hd)) := by
  rw [voidRequest, withRecord_found p items refusedBusy _ hd r hh hf hbusy (by simp [hb])]
  simp [hb, ← reservationValid_iff]

theorem voidRequest_held (hb : r.body.isHeld = true) :
    voidRequest p session res eg g items s = s.reply (.position p) .wrongState := by
  have undamaged : ∀ l, r.body ≠ .damaged l := fun l hl => by simp [hl, RecordBody.isHeld] at hb
  rw [voidRequest, withRecord_found p items refusedBusy _ hd r hh hf hbusy undamaged]
  cases hx : r.body <;> simp_all [RecordBody.isHeld]

end

/-- The supervisor's VOID of a record looks at the busy mark alone (R112). -/
theorem exec_voidSupervisor_found (hs : s.Serves .voidSupervisor .supervisor items) (hf : s.FindsNamed items slot r) :
    exec (.voidSupervisor ⟨.supervisor, g⟩ items) s =
      if r.busy then .next (s.send .supervisor g Kind.voidSupervisor.code .recordBusy)
      else .next ((s.retire slot r).judge.send .supervisor g Kind.voidSupervisor.code
        (.done (.parcel (s.handleAt slot)))) := by
  have free : (s.link .supervisor).outstanding = none := hs.1.2.2.1
  have away : ∀ x ∈ s.queue, x.requester.link ≠ .supervisor := fun x _ => by cases x.requester <;> nofun
  dsimp only [exec, execVoidSupervisor]
  rw [haltedRequest_serves .voidSupervisor ⟨.supervisor, g⟩ items _ hs, (hf.hold _ _ _).lookupItems]
  dsimp only
  rw [State.handleAt_hold, State.retire_finish_hold away free, State.reply_hold _ _ _ _ free]

theorem exec_voidSupervisor_none (hs : s.Serves .voidSupervisor .supervisor items) (hf : s.FindsNone items) :
    exec (.voidSupervisor ⟨.supervisor, g⟩ items) s =
      .next (s.send .supervisor g Kind.voidSupervisor.code .noRecord) := by
  dsimp only [exec, execVoidSupervisor]
  rw [haltedRequest_serves .voidSupervisor ⟨.supervisor, g⟩ items _ hs, (hf.hold _ _ _).lookupItems]
  exact State.reply_hold _ _ _ _ hs.1.2.2.1

/-- Settles O26: a VOID goes by the state of its record, and each retirement stands beside the held request. -/
theorem voidRetiresARecord : Obligations.VoidRetiresARecord := by
  unfold Obligations.VoidRetiresARecord
  refine ⟨fun g items s p session res hd r hs hh hf hbusy => ?_, fun g items s slot r hs hf => ?_,
    fun g items s hs hf => exec_voidSupervisor_none hs hf⟩
  · have found := hf.hold (.position p) .void g
    have away (hq : ∀ x ∈ s.queue, x.requester ≠ .position p) : ∀ x ∈ s.queue, x.requester.link ≠ .position p :=
      fun x hx hl => hq x hx (by cases h : x.requester <;> simp_all [Requester.link])
    rw [exec_void hs]
    refine ⟨fun hb ho hq => ?_, fun hb ho => ?_, fun e q l adj rw hb hv hg hq => ?_,
      fun e q l adj rw hb hv hg he => ?_, fun e q l adj rw hb hv hg he => ?_, fun e q l adj rw hb hv => ?_,
      fun hb => by rw [voidRequest_held hh found hbusy hb, State.reply_hold _ _ _ _ hs.free]⟩
    · rw [voidRequest_unlabelled hh found hbusy hb, if_neg (not_not_intro ho),
        State.retire_finish_hold (away hq) hs.free]
    · rw [voidRequest_unlabelled hh found hbusy hb, if_pos ho, State.reply_hold _ _ _ _ hs.free]
    all_goals rw [voidRequest_labelled hh found hbusy hb]
    · simp only [ne_eq, hv, not_true_eq_false, if_false, Nat.not_lt_of_le hg]
      rw [State.setCtx_hold, State.retire_finish_hold (s := s.setCtx p _) (away hq) hs.spent.free]
    · simp only [ne_eq, hv, not_true_eq_false, if_false, if_true, hg]
      rw [State.escalate_spent_enabled _ _ _ he]
      rfl
    · simp only [ne_eq, hv, not_true_eq_false, if_false, if_true, hg]
      rw [State.escalate_spent_disabled hs _ _ _ he]
      rfl
    · simp only [ne_eq, hv, not_false_eq_true, if_true, State.reply_spent hs]
  · rw [exec_voidSupervisor_found hs hf]
    exact ⟨fun hbusy => by rw [hbusy]; rfl, fun hbusy => by rw [hbusy]; rfl⟩

end Sys2Proof.Machine
end

section
/-! The completed RATE OPTION job (R16, R72, R106): O37. -/
namespace Sys2Proof.Machine

/-- Settles O37: the completion adds the option as one change, ends the job and answers the AMEND. -/
theorem optionCompletionAddsTheOption : Obligations.OptionCompletionAddsTheOption := by
  unfold Obligations.OptionCompletionAddsTheOption
  intro s u j r e q l adj rw p code hs hu hd hk hp hn hf hb
  have added {line : Option Line} (hproc : j.procedure (s.bank j.bank) = .ok (.option line)) :
      exec (.rateOptionCompletion u) s = .next (addOption u j r e q l adj rw line s) := by
    refine (completion_applies hs hu hd (by rw [hk]; rfl) (State.runJob_ok hn hproc) hf).trans ?_
    simp only [hb]
  refine ⟨fun hproc => ?_, fun sel n hproc => ?_⟩
  all_goals
    rw [added hproc]
    simp [addOption, hk, hp, JobKind.optionCode, State.answerRequester, State.endJob, Rec.change]

end Sys2Proof.Machine
end

section
/-! SUPPORT. The requests of the supervisor on a position (R136): what their bodies may do before the request is held,
and how they are answered on the supervisor link. -/
namespace Sys2Proof.Machine

variable {s : State} {k : Kind} {p : PositionNo} {g : Tag} {items : List Item} {l m : Link}

/-! ### Held requests -/

/-- A held request judged and answered: only the answer frame is new. -/
theorem State.finish_hold (free : (s.link l).outstanding = none) (a : Answer) :
    (s.hold l k g).finish l a = .next (s.judge.send l g k.code a) :=
  State.finish_beside (f := id) (fun _ => rfl) l k g a free

/-- A held request whose body writes a context and judges it. -/
theorem State.setCtx_finish_hold (free : (s.link l).outstanding = none) (c : Context) (a : Answer) :
    ((s.hold l k g).setCtx p c).finish l a = .next ((s.setCtx p c).judge.send l g k.code a) := by
  rw [State.setCtx_hold]
  exact State.finish_hold (s := s.setCtx p c) free a

/-- An answer on one link leaves the others. -/
theorem State.link_answer_other (h : m ≠ l) (a : Answer) : (s.answer m a).link l = s.link l := by
  conv_lhs => rw [← s.setLink_link l, State.answer_setLink h]
  exact State.link_setLink _ l _

/-- Another link's answer may go before the request is held. -/
theorem State.answer_hold_other (h : m ≠ l) (a : Answer) : (s.hold l k g).answer m a = (s.answer m a).hold l k g := by
  rw [State.hold, State.answer_setLink h, State.hold, State.link_answer_other h]

/-- The reading of every live record answers no request of the supervisor. -/
theorem State.link_readAll_supervisor (reader : Reader) : (s.readAll reader).link .supervisor = s.link .supervisor := by
  conv_lhs => rw [← s.setLink_link .supervisor, State.readAll_supervisor]
  exact State.link_setLink _ .supervisor _

/-- It may go before a request of the supervisor is held. -/
theorem State.readAll_hold_supervisor (reader : Reader) :
    (s.hold .supervisor k g).readAll reader = (s.readAll reader).hold .supervisor k g := by
  rw [State.hold, State.readAll_supervisor, State.hold, State.link_readAll_supervisor]

/-- The end of an escalation answers its position alone. -/
theorem State.endEscalation_hold_supervisor (session : Session) (a : Answer) :
    (s.hold .supervisor k g).endEscalation p session a = (s.endEscalation p session a).hold .supervisor k g := by
  have apart : Link.position p ≠ .supervisor := nofun
  rw [State.endEscalation, State.answer_hold_other apart, State.setCtx_hold, State.endEscalation]

theorem State.link_endEscalation_supervisor (session : Session) (a : Answer) :
    (s.endEscalation p session a).link .supervisor = s.link .supervisor :=
  State.link_answer_other (m := .position p) (l := .supervisor) nofun a

/-! ### A request that names a position -/

/-- The supervisor link held nothing before its request. -/
theorem State.Serves.free (hs : s.Serves k l items) : (s.link l).outstanding = none := by
  obtain ⟨⟨-, -, free, -⟩, -⟩ := hs
  exact free

/-- A request served comes to its body at the position it names. -/
theorem atPosition_serves (hs : s.Serves k .supervisor items) (hp : positionOf items = some p)
    (body : PositionNo → State → Outcome) :
    atPosition k ⟨.supervisor, g⟩ items s body = body p (s.hold .supervisor k g) := by
  rw [atPosition, haltedRequest_serves k ⟨.supervisor, g⟩ items _ hs]
  simp only [hp]

end Sys2Proof.Machine
end

section
/-! OPEN POSITION, CLOSE POSITION and RESET POSITION (R118 to R120, R177): O11, O12. -/
namespace Sys2Proof.Machine

variable {s t : State} {p : PositionNo} {g : Tag} {items : List Item}

/-! ### OPEN POSITION -/

section
variable {grade : Nat} {enable : Bool} (hs : s.Serves .openPosition .supervisor items) (hp : positionOf items = some p)
  (hg : gradeOf items = some grade) (he : escalationEnableOf items = some enable)
include hs hp hg he

theorem exec_openPosition_closed (hc : s.ctx p = .closed) : exec (.openPosition ⟨.supervisor, g⟩ items) s =
    .next ((s.setCtx p (.opened ⟨grade, enable⟩ none)).judge.send .supervisor g Kind.openPosition.code
      (.done .plain)) := by
  dsimp only [exec, execOpenPosition]
  rw [atPosition_serves hs hp]
  simp only [hg, he, State.ctx_hold, hc]
  exact State.setCtx_finish_hold hs.free _ _

theorem exec_openPosition_other (hc : s.ctx p ≠ .closed) : exec (.openPosition ⟨.supervisor, g⟩ items) s =
    .next (s.send .supervisor g Kind.openPosition.code .wrongState) := by
  dsimp only [exec, execOpenPosition]
  rw [atPosition_serves hs hp]
  simp only [hg, he, State.ctx_hold]
  cases h : s.ctx p with
  | closed => exact absurd h hc
  | _ => exact State.reply_hold _ _ _ _ hs.free

end

/-! ### CLOSE POSITION -/

section
variable (hs : s.Serves .closePosition .supervisor items) (hp : positionOf items = some p)
include hs hp

theorem exec_closePosition_closed (hc : s.ctx p = .closed) : exec (.closePosition ⟨.supervisor, g⟩ items) s =
    .next (s.send .supervisor g Kind.closePosition.code .wrongState) := by
  dsimp only [exec, execClosePosition]
  rw [atPosition_serves hs hp]
  simp only [State.ctx_hold, hc]
  exact State.reply_hold _ _ _ _ hs.free

/-- At an OPEN position CLOSE POSITION is judged on the state that the reading of every live record leaves. -/
theorem exec_closePosition_opened {session : Session} {res : Option Reservation} (hc : s.ctx p = .opened session res) :
    exec (.closePosition ⟨.supervisor, g⟩ items) s =
      if 0 < (s.readAll .supervisor).owned p RecordBody.isPrinting then
        .next ((s.readAll .supervisor).judge.send .supervisor g Kind.closePosition.code .notIdle)
      else .next (((s.readAll .supervisor).setCtx p .closed).judge.send .supervisor g Kind.closePosition.code
        (.done .plain)) := by
  have free : ((s.readAll .supervisor).link .supervisor).outstanding = none :=
    (congrArg LinkState.outstanding (State.link_readAll_supervisor _)).trans hs.free
  dsimp only [exec, execClosePosition]
  rw [atPosition_serves hs hp]
  simp only [State.ctx_hold, hc, State.readAll_hold_supervisor, State.finish_hold free,
    State.setCtx_finish_hold free]
  rfl

theorem exec_closePosition_other (hc : s.ctx p ≠ .closed) (ho : ∀ session res, s.ctx p ≠ .opened session res) :
    exec (.closePosition ⟨.supervisor, g⟩ items) s =
      .next (s.send .supervisor g Kind.closePosition.code .notIdle) := by
  dsimp only [exec, execClosePosition]
  rw [atPosition_serves hs hp]
  simp only [State.ctx_hold]
  cases h : s.ctx p with
  | closed => exact absurd h hc
  | opened session res => exact absurd h (ho session res)
  | _ => exact State.reply_hold _ _ _ _ hs.free

end

/-- After the reading a position owns a PRINTING record exactly where it owned one that passes its check. -/
theorem State.owned_readAll_pos (h : s.ReadsWell) (reader : Reader) :
    0 < (s.readAll reader).owned p RecordBody.isPrinting ↔
      ∃ c ∈ s.table.records.cells, c.2.sound = true ∧ c.2.owner = p ∧ c.2.body.isPrinting = true := by
  rw [s.owned_readAll reader p _ (fun _ => rfl) h, List.countP_pos_iff]
  simp only [Bool.and_eq_true, beq_iff_eq]

/-- Settles O11: OPEN POSITION goes by the context of its position; CLOSE POSITION at an OPEN one by the PRINTING
records that the reading of every live record leaves it. -/
theorem openAndClosePosition : Obligations.OpenAndClosePosition := by
  unfold Obligations.OpenAndClosePosition
  refine ⟨fun g items s p grade enable hs hp hg he =>
      ⟨exec_openPosition_closed hs hp hg he, exec_openPosition_other hs hp hg he⟩,
    fun g items s p hs hp => ⟨exec_closePosition_closed hs hp, ?_, exec_closePosition_other hs hp⟩⟩
  rintro session res t hc hw rfl
  have printing := State.owned_readAll_pos (p := p) (State.readsWell_of_canonical hw) .supervisor
  rw [exec_closePosition_opened hs hp hc]
  refine ⟨fun owns => if_pos (printing.2 owns), fun none => if_neg fun counted => ?_⟩
  obtain ⟨c, hm, sound, own, body⟩ := printing.1 counted
  rw [none c hm sound own] at body
  cases body

/-! ### What RESET POSITION ends -/

section
variable {l : Link} {k : Kind} (q : Requester)

/-- A record's mark may be set or cleared before a request is held. -/
theorem State.markQueued_hold (n : Nat) (b : Bool) : (s.hold l k g).markQueued n b = (s.markQueued n b).hold l k g := by
  unfold State.markQueued
  rw [State.record_hold]
  split
  · cases l <;> rfl
  · rfl

/-- A requester's entry may go before a request is held. -/
theorem State.removeEntryOf_hold : (s.hold l k g).removeEntryOf q = (s.removeEntryOf q).hold l k g := by
  have entry : (s.hold l k g).entryOf q = s.entryOf q := State.entryOf_congr (s.hold_queue l k g) q
  cases he : s.entryOf q with
  | none => simp only [State.removeEntryOf, entry, he]
  | some e =>
    simp only [State.removeEntryOf, entry, he]
    rw [← State.markQueued_hold]
    cases l <;> rfl

/-- A requester's job may be discarded before a request is held. -/
theorem State.discardJobOf_hold : (s.hold l k g).discardJobOf q = (s.discardJobOf q).hold l k g := by
  have running : (s.hold l k g).runningOf q = s.runningOf q := by cases l <;> rfl
  unfold State.discardJobOf
  rw [running]
  split <;> cases l <;> rfl

/-- No entry of the requester is left, and every other stays. -/
theorem State.removeEntryOf_queue : (s.removeEntryOf q).queue = s.queue.filter fun e => e.requester != q := by
  cases he : s.entryOf q with
  | some e => simp only [State.removeEntryOf, he, State.markQueued_queue]
  | none =>
    have absent : ∀ e ∈ s.queue, (e.requester != q) = true := by simpa [State.entryOf] using he
    simp only [State.removeEntryOf, he, List.filter_eq_self.2 absent]

/-- The record of the entry loses its mark. -/
theorem State.removeEntryOf_table : (s.removeEntryOf q).table = (match s.entryOf q with
    | some e => (s.markQueued e.handle.slot false).table
    | none => s.table) := by
  cases he : s.entryOf q with
  | none => simp only [State.removeEntryOf, he]
  | some e =>
    simp only [State.removeEntryOf, he, State.markQueued]
    have same (queue : List QueueEntry) (n : Nat) : State.record { s with queue := queue } n = s.record n := rfl
    rw [same]
    split <;> rfl

/-- The requester's running job is discarded, and every other unit stays. -/
theorem State.unit_discardJobOf (u : UnitNo) : (s.discardJobOf q).unit u =
    if s.runningOf q = some u then (s.unit u).map fun j => { j with discarded := true } else s.unit u := by
  cases hr : s.runningOf q with
  | none => simp only [State.discardJobOf, hr, reduceCtorEq, if_false]
  | some v =>
    simp only [State.discardJobOf, hr, Option.some.injEq]
    split
    · rename_i same
      rw [same, State.unit_setUnit]
    · rename_i other
      exact State.unit_setUnit_other s v u _ other

end

/-- What a link is answered: its outstanding request, if it holds one. -/
theorem State.answers_answer (l : Link) (a : Answer) : (s.answer l a).answers =
    s.answers ++ (s.link l).outstanding.toList.map fun o => ⟨l, o.tag, answerKind o.kind.code, a⟩ := by
  cases h : (s.link l).outstanding with
  | none => simp [State.answer, h]
  | some o => simpa using s.answer_answers a h

/-! ### RESET POSITION -/

/-- What RESET POSITION makes of the part at a position that is not CLOSED (R120). -/
def State.positionReset (s : State) (p : PositionNo) : State :=
  ((((s.removeEntryOf (.position p)).discardJobOf (.position p)).answer (.position p) .reset).setCtx p .closed).judge

section
variable (hs : s.Serves .resetPosition .supervisor items) (hp : positionOf items = some p)
include hs hp

theorem exec_resetPosition_closed (hc : s.ctx p = .closed) : exec (.resetPosition ⟨.supervisor, g⟩ items) s =
    .next (s.send .supervisor g Kind.resetPosition.code (.done .plain)) := by
  dsimp only [exec, execResetPosition]
  rw [atPosition_serves hs hp]
  simp only [State.ctx_hold, hc]
  exact State.reply_hold _ _ _ _ hs.free

theorem exec_resetPosition_other (hc : s.ctx p ≠ .closed) : exec (.resetPosition ⟨.supervisor, g⟩ items) s =
    .next ((s.positionReset p).send .supervisor g Kind.resetPosition.code (.done .plain)) := by
  have apart : Link.position p ≠ .supervisor := nofun
  have free : ((((s.removeEntryOf (.position p)).discardJobOf (.position p)).answer (.position p)
      .reset).link .supervisor).outstanding = none := by
    rw [State.link_answer_other apart]
    simpa [State.link] using hs.free
  have ended : (((((s.hold .supervisor .resetPosition g).removeEntryOf (.position p)).discardJobOf (.position p)).answer
      (.position p) .reset).setCtx p .closed).finish .supervisor (.done .plain) =
        .next ((s.positionReset p).send .supervisor g Kind.resetPosition.code (.done .plain)) := by
    rw [State.removeEntryOf_hold, State.discardJobOf_hold, State.answer_hold_other apart]
    exact State.setCtx_finish_hold free _ _
  dsimp only [exec, execResetPosition]
  rw [atPosition_serves hs hp]
  simp only [State.ctx_hold]
  cases h : s.ctx p with
  | closed => exact absurd h hc
  | _ => exact ended

end

/-! ### The blocks after a RESET POSITION -/

theorem State.positionReset_ctx : (s.positionReset p).ctx p = .closed := State.ctx_setCtx _ p _

theorem State.positionReset_ctx_other {q : PositionNo} (h : q ≠ p) : (s.positionReset p).ctx q = s.ctx q := by
  refine (State.ctx_setCtx_other _ p q _ h.symm).trans ?_
  simp [State.ctx]

theorem State.positionReset_outstanding : ((s.positionReset p).link (.position p)).outstanding = none :=
  State.answer_outstanding _ (.position p) .reset

theorem State.positionReset_link_other {l : Link} (h : l ≠ .position p) : (s.positionReset p).link l = s.link l := by
  refine (State.link_answer_other h.symm .reset).trans ?_
  cases l <;> simp [State.link]

theorem State.positionReset_answers : (s.positionReset p).answers = s.answers ++
    (s.link (.position p)).outstanding.toList.map fun o => ⟨.position p, o.tag, answerKind o.kind.code, .reset⟩ := by
  refine (State.answers_answer (.position p) .reset).trans ?_
  simp [State.link]

theorem State.positionReset_queue :
    (s.positionReset p).queue = s.queue.filter fun e => e.requester != .position p := by
  simp [State.positionReset, State.removeEntryOf_queue]

theorem State.positionReset_table : (s.positionReset p).table = (s.removeEntryOf (.position p)).table := by
  simp [State.positionReset]

theorem State.positionReset_unit (u : UnitNo) : (s.positionReset p).unit u =
    if s.runningOf (.position p) = some u then (s.unit u).map fun j => { j with discarded := true } else s.unit u := by
  have units : (s.removeEntryOf (.position p)).units = s.units := s.removeEntryOf_units _
  have running : (s.removeEntryOf (.position p)).runningOf (.position p) = s.runningOf (.position p) := by
    simp only [State.runningOf, State.unit, units]
  have unit : (s.removeEntryOf (.position p)).unit u = s.unit u := by simp only [State.unit, units]
  have discarded : (s.positionReset p).unit u =
      ((s.removeEntryOf (.position p)).discardJobOf (.position p)).unit u := by
    simp [State.positionReset, State.unit]
  rw [discarded, State.unit_discardJobOf, running, unit]

theorem State.positionReset_enabled : (s.positionReset p).attention.enabled = s.attention.enabled := by
  simp [State.positionReset, Attention.judge]

/-- Settles O12: at a position that is not CLOSED the step is `State.positionReset` and its answer, block by block. -/
theorem resetPositionClosesAnyState : Obligations.ResetPositionClosesAnyState := by
  unfold Obligations.ResetPositionClosesAnyState
  intro g items s p hs hp
  refine ⟨exec_resetPosition_closed hs hp, fun hc => ⟨_, exec_resetPosition_other hs hp hc, s.positionReset_ctx,
    fun q hq => State.positionReset_ctx_other hq, s.positionReset_outstanding,
    fun l hl => State.positionReset_link_other hl, s.positionReset_enabled, ?_, s.positionReset_queue,
    s.positionReset_table.trans (State.removeEntryOf_table _), s.positionReset_unit, ?_⟩⟩
  · rw [State.send_answers, State.positionReset_answers]
  · simp [State.positionReset]

end Sys2Proof.Machine
end

section
/-! A position request at a CLOSED or SUSPENDED position, and CANCEL (R117, R129, R133): O10, O14. -/
namespace Sys2Proof.Machine

variable {s : State} {k : Kind} {p : PositionNo} {g : Tag} {items : List Item} {session : Session}

/-! ### The judgement of Position Control (R117) -/

/-- Every request of a position but CANCEL is judged by Position Control before its body. -/
theorem exec_positionKind (hk : linkSort k = .position) (hc : k ≠ .cancel) (h : Header) (items : List Item)
    (s : State) : ∃ body, exec (requestCommand k h items) s = positionRequest k h (itemsAccepted k items) s body := by
  cases k with
  | newParcel | setAttributes | rate | commit | printed | spoilt | query | amend | takeOver | void =>
    dsimp only [requestCommand, exec, execNewParcel, execSetAttributes, execRate, execCommit, execPrinted, execSpoilt,
      execQuery, execAmendAddOption, execTakeOver, execVoid]
    exact ⟨_, rfl⟩
  | cancel => exact absurd rfl hc
  | _ => cases hk

section
variable (hs : s.Serves k (.position p) items) (body : PositionNo → Session → Option Reservation → State → Outcome)
include hs

theorem positionRequest_closed (hc : s.ctx p = .closed) :
    positionRequest k ⟨.position p, g⟩ (itemsAccepted k items) s body =
      .next (s.send (.position p) g k.code .positionClosed) := by
  rw [positionRequest, request_admitted k ⟨.position p, g⟩ items _ hs.1]
  simp only [State.halted_hold, hs.2, State.ctx_hold, hc, Bool.false_eq_true, if_false]
  exact State.reply_hold _ _ _ _ hs.free

theorem positionRequest_suspended {saved : Saved} (hc : s.ctx p = .suspended session saved) :
    positionRequest k ⟨.position p, g⟩ (itemsAccepted k items) s body =
      .next (s.send (.position p) g k.code .suspended) := by
  rw [positionRequest, request_admitted k ⟨.position p, g⟩ items _ hs.1]
  simp only [State.halted_hold, hs.2, State.ctx_hold, hc, Bool.false_eq_true, if_false]
  exact State.reply_hold _ _ _ _ hs.free

end

/-! ### CANCEL (R129) -/

/-- A CANCEL that the link accepts goes by the context of its position, whether or not the link holds a request. -/
theorem exec_cancel (ha : s.resetAsserted = false) (hh : s.halted = false) (hi : itemsAccepted .cancel items = true) :
    exec (.cancel ⟨.position p, g⟩ items) s = cancelAt ⟨.position p, g⟩ p s := by
  simp [exec, execCancel, linkRefusal, sortOf, linkSort, ha, hh, hi]

theorem cancelAt_closed (hc : s.ctx p = .closed) : cancelAt ⟨.position p, g⟩ p s =
    .next (s.send (.position p) g Kind.cancel.code .positionClosed) := by
  simp only [cancelAt, hc]

theorem cancelAt_suspended {saved : Saved} (hc : s.ctx p = .suspended session saved) :
    cancelAt ⟨.position p, g⟩ p s = .next (s.send (.position p) g Kind.cancel.code .suspended) := by
  simp only [cancelAt, hc]

theorem cancelAt_opened {res : Option Reservation} (hc : s.ctx p = .opened session res) :
    cancelAt ⟨.position p, g⟩ p s = .next (s.send (.position p) g Kind.cancel.code .wrongState) := by
  simp only [cancelAt, hc]

theorem cancelAt_escalated {slot : NormalSlot} (hc : s.ctx p = .escalated session slot) :
    cancelAt ⟨.position p, g⟩ p s = .next (((s.answer (.position p) .cancelled).setCtx p (.opened session none)).send
      (.position p) g Kind.cancel.code (.done .plain)).judge := by
  simp only [cancelAt, hc, State.endEscalation]

section
variable {pend : Bool} {res : Option Reservation} {request : HeldRequest}
  (hc : s.ctx p = .working session pend res request)
include hc

/-- The request of a WORKING position without an entry is a running job's. -/
theorem cancelAt_running (hq : ∀ e ∈ s.queue, e.requester ≠ .position p) :
    cancelAt ⟨.position p, g⟩ p s = .next (s.send (.position p) g Kind.cancel.code .busy) := by
  have absent : s.entryOf (.position p) = none := List.find?_eq_none.2 fun e he => by simpa using hq e he
  simp only [cancelAt, hc, absent]

theorem cancelAt_queued {e : QueueEntry} (he : s.entryOf (.position p) = some e) :
    cancelAt ⟨.position p, g⟩ p s =
      .next ((((State.markQueued { s with queue := s.queue.filter fun x => x.requester != .position p }
        e.handle.slot false).answer (.position p) .cancelled).setCtx p
        (if pend then .suspended session .opened else .opened session res)).send (.position p) g
        Kind.cancel.code (.done .plain)).judge := by
  have kept : (s.removeEntryOf (.position p)).ctx p = .working session pend res request := by
    simpa [State.ctx] using hc
  have removed : s.removeEntryOf (.position p) =
      State.markQueued { s with queue := s.queue.filter fun x => x.requester != .position p } e.handle.slot false := by
    simp only [State.removeEntryOf, he]
  have cancelled : cancelAt ⟨.position p, g⟩ p s =
      .next (((s.removeEntryOf (.position p)).answerPosition p .cancelled).send (.position p) g Kind.cancel.code
        (.done .plain)).judge := by
    simp only [cancelAt, hc, he]
  rw [cancelled, State.answerPosition, kept, removed]
  rfl

end

/-- Settles O10: CANCEL looks at the context itself, and every other request is judged by Position Control first. -/
theorem positionControlRefuses : Obligations.PositionControlRefuses := by
  unfold Obligations.PositionControlRefuses
  intro k p g items s hk ha hh hi free
  by_cases hc : k = .cancel
  · subst hc
    have cancelled := exec_cancel (p := p) (g := g) ha hh hi
    exact ⟨fun h => cancelled.trans (cancelAt_closed h), fun _ _ h => cancelled.trans (cancelAt_suspended h)⟩
  · have serves : s.Serves k (.position p) items := ⟨⟨ha, hk.symm, free.resolve_right hc, hi⟩, hh⟩
    obtain ⟨body, judged⟩ := exec_positionKind hk hc ⟨.position p, g⟩ items s
    exact ⟨fun h => judged.trans (positionRequest_closed serves body h),
      fun _ _ h => judged.trans (positionRequest_suspended serves body h)⟩

/-- Settles O14: one lemma for each context of a position that Position Control lets pass. -/
theorem cancelByPositionState : Obligations.CancelByPositionState := by
  unfold Obligations.CancelByPositionState
  intro g items s p ha hh hi
  rw [exec_cancel ha hh hi]
  exact ⟨fun _ _ h => cancelAt_opened h, fun _ _ _ _ h hq => cancelAt_running h hq,
    fun _ _ _ _ _ h he => cancelAt_queued h he, fun _ _ h => cancelAt_escalated h⟩

end Sys2Proof.Machine
end

section
/-! DENY and the escalation timeout (R125, R128), SUSPEND and RESUME (R131, R134), and what an escalation does (R123,
R132): O13, O15, O17. -/
namespace Sys2Proof.Machine

variable {s : State} {p : PositionNo} {g : Tag} {items : List Item} {session : Session} {slot : NormalSlot}
  {saved : Saved}

/-! ### DENY -/

theorem exec_deny_halted (ha : s.Admits .deny .supervisor items) (hh : s.halted = true) :
    exec (.deny ⟨.supervisor, g⟩ items) s = .next (s.send .supervisor g Kind.deny.code .halted) := by
  dsimp only [exec, execDeny, atPosition]
  exact haltedRequest_halted .deny ⟨.supervisor, g⟩ items _ ha hh

section
variable (hs : s.Serves .deny .supervisor items) (hp : positionOf items = some p)
include hs hp

theorem exec_deny_suspended (hc : s.ctx p = .suspended session saved) : exec (.deny ⟨.supervisor, g⟩ items) s =
    .next (s.send .supervisor g Kind.deny.code .suspended) := by
  dsimp only [exec, execDeny]
  rw [atPosition_serves hs hp]
  simp only [State.ctx_hold, hc]
  exact State.reply_hold _ _ _ _ hs.free

theorem exec_deny_wrongState (he : ∀ session slot, s.ctx p ≠ .escalated session slot)
    (hn : ∀ session saved, s.ctx p ≠ .suspended session saved) : exec (.deny ⟨.supervisor, g⟩ items) s =
      .next (s.send .supervisor g Kind.deny.code .wrongState) := by
  dsimp only [exec, execDeny]
  rw [atPosition_serves hs hp]
  simp only [State.ctx_hold]
  cases h : s.ctx p with
  | escalated session slot => exact absurd h (he session slot)
  | suspended session saved => exact absurd h (hn session saved)
  | _ => exact State.reply_hold _ _ _ _ hs.free

theorem exec_deny_escalated (hc : s.ctx p = .escalated session slot) : exec (.deny ⟨.supervisor, g⟩ items) s =
    .next ((s.endEscalation p session .denied).judge.send .supervisor g Kind.deny.code (.done .plain)) := by
  dsimp only [exec, execDeny]
  rw [atPosition_serves hs hp]
  simp only [State.ctx_hold, hc]
  rw [State.endEscalation_hold_supervisor]
  exact State.finish_hold ((congrArg LinkState.outstanding (State.link_endEscalation_supervisor _ _)).trans hs.free) _

end

/-! ### The escalation timeout -/

section
variable (hs : s.Live)
include hs

theorem exec_escalationTimeout_due (hc : s.ctx p = .escalated session slot) (hr : slot.remaining = 0) :
    exec (.escalationTimeout p) s = .next (s.endEscalation p session .timedOut).judge := by
  simp [exec, execEscalationTimeout, hs.1, hs.2, hc, hr]

theorem exec_escalationTimeout_early
    (hr : ∀ session slot, s.ctx p = .escalated session slot → 0 < slot.remaining) :
    exec (.escalationTimeout p) s = .next s := by
  simp only [exec, execEscalationTimeout, hs.1, hs.2, Bool.or_self, Bool.false_eq_true, if_false]
  cases h : s.ctx p with
  | escalated session slot => exact if_neg (Nat.ne_of_gt (hr session slot h))
  | _ => rfl

end

/-- Settles O13: a DENY goes by the context of its position, and the timeout by the time left. -/
theorem denyAndTimeoutEndTheEscalation : Obligations.DenyAndTimeoutEndTheEscalation := by
  unfold Obligations.DenyAndTimeoutEndTheEscalation
  exact ⟨fun g items s p ha hp => ⟨exec_deny_halted ha,
      fun hh _ _ hc => exec_deny_suspended ⟨ha, hh⟩ hp hc, fun hh => exec_deny_wrongState ⟨ha, hh⟩ hp,
      fun hh _ _ hc => exec_deny_escalated ⟨ha, hh⟩ hp hc⟩,
    fun s p hs => ⟨fun _ _ => exec_escalationTimeout_due hs, exec_escalationTimeout_early hs⟩⟩

/-! ### SUSPEND and RESUME -/

/-- What SUSPEND makes of a context, and what its DONE says; none where it is refused (R131). -/
def Context.suspending : Context → Option (Context × Done)
  | .opened session _ => some (.suspended session .opened, .suspended)
  | .escalated session slot =>
    some (.suspended session (.escalated { slot with remaining := max 1 slot.remaining }), .suspended)
  | .working session _ res request => some (.working session true res request, .suspendPending)
  | _ => none

/-- What RESUME makes of a context, in the same way (R134). -/
def Context.resuming : Context → Option (Context × Done)
  | .suspended session .opened => some (.opened session none, .plain)
  | .suspended session (.escalated slot) => some (.escalated session slot, .plain)
  | .working session true res request => some (.working session false res request, .plain)
  | _ => none

/-- A supervisor request that moves a position to another context, or is refused WRONG STATE. -/
def State.moved (s : State) (k : Kind) (g : Tag) (p : PositionNo) (move : Option (Context × Done)) : State :=
  move.elim (s.send .supervisor g k.code .wrongState) fun m =>
    (s.setCtx p m.1).judge.send .supervisor g k.code (.done m.2)

/-- What it does once it is held. -/
theorem State.moved_hold {k : Kind} (free : (s.link .supervisor).outstanding = none) (move : Option (Context × Done)) :
    move.elim ((s.hold .supervisor k g).reply .supervisor .wrongState) (fun m =>
      ((s.hold .supervisor k g).setCtx p m.1).finish .supervisor (.done m.2)) = .next (s.moved k g p move) := by
  cases move with
  | none => exact State.reply_hold _ _ _ _ free
  | some m => exact State.setCtx_finish_hold free _ _

theorem exec_suspend (hs : s.Serves .suspend .supervisor items) (hp : positionOf items = some p) :
    exec (.suspend ⟨.supervisor, g⟩ items) s = .next (s.moved .suspend g p (s.ctx p).suspending) := by
  dsimp only [exec, execSuspend]
  rw [atPosition_serves hs hp, ← State.moved_hold hs.free]
  simp only [State.ctx_hold]
  cases s.ctx p <;> rfl

theorem exec_resume (hs : s.Serves .resume .supervisor items) (hp : positionOf items = some p) :
    exec (.resume ⟨.supervisor, g⟩ items) s = .next (s.moved .resume g p (s.ctx p).resuming) := by
  dsimp only [exec, execResume]
  rw [atPosition_serves hs hp, ← State.moved_hold hs.free]
  simp only [State.ctx_hold]
  cases s.ctx p with
  | suspended session saved => cases saved <;> rfl
  | working session pend res request => cases pend <;> rfl
  | _ => rfl

/-- RESUME is refused at a position that is not SUSPENDED and has no suspension pending. -/
theorem Context.resuming_none {c : Context} (hn : ∀ session saved, c ≠ .suspended session saved)
    (hw : ∀ session res request, c ≠ .working session true res request) : c.resuming = none := by
  cases c with
  | suspended session saved => exact absurd rfl (hn session saved)
  | working session pend res request =>
    cases pend with
    | true => exact absurd rfl (hw session res request)
    | false => rfl
  | _ => rfl

/-- A countdown with time left stops with what is left. -/
theorem Context.suspending_escalated (hr : 0 < slot.remaining) : (Context.escalated session slot).suspending =
    some (.suspended session (.escalated slot), .suspended) := by
  have left : max 1 slot.remaining = slot.remaining := Nat.max_eq_right hr
  simp only [Context.suspending, left]

/-- Settles O15: either request moves the context of its position, or is refused. -/
theorem suspendAndResumeByState : Obligations.SuspendAndResumeByState := by
  unfold Obligations.SuspendAndResumeByState
  refine ⟨fun g items s p hs hp => ?_, fun g items s p hs hp => ?_⟩
  · rw [exec_suspend hs hp]
    refine ⟨fun session res hc => ?_, fun session slot hc hr => ?_, fun session pend res request hc => ?_,
      fun session saved hc => ?_⟩
    · rw [hc]; rfl
    · rw [hc, Context.suspending_escalated hr]; rfl
    · rw [hc]; rfl
    · rcases hc with hc | hc <;> rw [hc] <;> rfl
  · rw [exec_resume hs hp]
    refine ⟨fun session hc => ?_, fun session slot hc => ?_, fun session res request hc => ?_, fun hn hw => ?_⟩
    · rw [hc]; rfl
    · rw [hc]; rfl
    · rw [hc]; rfl
    · rw [Context.resuming_none hn hw]; rfl

/-! ### An escalation -/

/-- Settles O17: the enable decides between the save slot and the answer to the outstanding request. -/
theorem escalationFillsTheSlot : Obligations.EscalationFillsTheSlot := by
  unfold Obligations.EscalationFillsTheSlot
  intro s p grade needed pend request report
  refine ⟨rfl, fun o ho => ?_⟩
  have answered : s.escalate p ⟨grade, false⟩ pend request needed report =
      s.answerRequester (.position p) (.fault report) := rfl
  obtain ⟨answers, freed, -⟩ := s.answerRequester_position (.fault report) ho
  rw [answered]
  exact ⟨answers, freed⟩

end Sys2Proof.Machine
end

section
/-! GRANT (R126, R127): O16. -/
namespace Sys2Proof.Machine

variable {s t : State} {p : PositionNo} {g : Tag} {items : List Item} {grade : Nat} {session : Session}
  {slot : NormalSlot} {hd : Handle} {r : Rec} {e : Entered}

section
variable (hs : s.Serves .grant .supervisor items) (hp : positionOf items = some p) (hg : gradeOf items = some grade)
include hs hp hg

/-! ### The checks of GRANT -/

theorem exec_grant_suspended {saved : Saved} (hc : s.ctx p = .suspended session saved) :
    exec (.grant ⟨.supervisor, g⟩ items) s = .next (s.send .supervisor g Kind.grant.code .suspended) := by
  dsimp only [exec, execGrant]
  rw [atPosition_serves hs hp]
  simp only [hg, State.ctx_hold, hc]
  exact State.reply_hold _ _ _ _ hs.free

theorem exec_grant_wrongState (he : ∀ session slot, s.ctx p ≠ .escalated session slot)
    (hn : ∀ session saved, s.ctx p ≠ .suspended session saved) :
    exec (.grant ⟨.supervisor, g⟩ items) s = .next (s.send .supervisor g Kind.grant.code .wrongState) := by
  dsimp only [exec, execGrant]
  rw [atPosition_serves hs hp]
  simp only [hg, State.ctx_hold]
  cases h : s.ctx p with
  | escalated session slot => exact absurd h (he session slot)
  | suspended session saved => exact absurd h (hn session saved)
  | _ => exact State.reply_hold _ _ _ _ hs.free

theorem exec_grant_malformed (hc : s.ctx p = .escalated session slot) (hn : slot.needed < grade) :
    exec (.grant ⟨.supervisor, g⟩ items) s = .next (s.send .supervisor g Kind.grant.code .malformed) := by
  dsimp only [exec, execGrant]
  rw [atPosition_serves hs hp]
  simp only [hg, State.ctx_hold, hc, hn, if_true]
  exact State.reply_hold _ _ _ _ hs.free

/-! ### The re-execution -/

variable (hc : s.ctx p = .escalated session slot) (hn : grade ≤ slot.needed)
include hc hn

/-- The saved request is taken anew at the granted grade, its position OPEN, and GRANT is answered DONE. -/
theorem exec_grant_next (hx : reexecute p session grade slot.request
    ((s.hold .supervisor .grant g).setCtx p (.opened session none)) = .next t) :
    exec (.grant ⟨.supervisor, g⟩ items) s = .next (t.answer .supervisor (.done .plain)).judge := by
  dsimp only [exec, execGrant]
  rw [atPosition_serves hs hp]
  simp only [hg, State.ctx_hold, hc, Nat.not_lt_of_le hn, if_false, hx, andThen]

/-- A re-execution that answers the saved request at once. -/
theorem exec_grant_reply {a : Answer} (hx : reexecute p session grade slot.request
    ((s.hold .supervisor .grant g).setCtx p (.opened session none)) =
      ((s.hold .supervisor .grant g).setCtx p (.opened session none)).reply (.position p) a) :
    exec (.grant ⟨.supervisor, g⟩ items) s = .next (((s.setCtx p (.opened session none)).answer (.position p) a).send
      .supervisor g Kind.grant.code (.done .plain)).judge := by
  have apart : Link.position p ≠ .supervisor := nofun
  have free : (((s.setCtx p (.opened session none)).answer (.position p) a).link .supervisor).outstanding = none :=
    (congrArg LinkState.outstanding (State.link_answer_other apart a)).trans hs.free
  rw [exec_grant_next hs hp hg hc hn hx, State.setCtx_hold, State.answer_hold_other apart,
    State.answer_hold _ _ _ _ _ free]

end

/-! ### A saved RATE -/

/-- The re-execution of a saved RATE. -/
theorem reexecute_rate {request : HeldRequest} (hk : request.kind = .rate) :
    reexecute p session grade request s = rateRequest p session none grade request.tag request.items s := by
  simp only [reexecute, hk]

section
variable {res : Option Reservation} {tag : Tag} (hh : handleOf items = some hd) (hf : s.Finds hd r)
include hh hf

/-- Checks 8 and 9 of R80 on an unmarked record: another owner, or a state that is neither DRAFT nor RATED. -/
theorem rateRequest_notOwner (hm : refusedMarked r = false) (hb : ∀ l, r.body ≠ .damaged l) (ho : r.owner ≠ p) :
    rateRequest p session res grade tag items s = s.reply (.position p) .notOwner := by
  rw [rateRequest, withRecord_found p items refusedMarked _ hd r hh hf hm hb, if_pos ho]

theorem rateRequest_wrongState (hm : refusedMarked r = false) (ho : r.owner = p)
    (hb : r.body.name ∈ [.printing, .labelled, .held]) :
    rateRequest p session res grade tag items s = s.reply (.position p) .wrongState := by
  have undamaged : ∀ l, r.body ≠ .damaged l := fun l hl => by simp [hl, RecordBody.name] at hb
  have closed : r.body.openEntries = none := by
    cases hx : r.body <;> simp_all [RecordBody.name, RecordBody.openEntries]
  rw [rateRequest, withRecord_found p items refusedMarked _ hd r hh hf hm undamaged, if_neg (not_not_intro ho)]
  simp only [closed]

end

/-- The answer at which the fresh checks of a RATE stop (R80, R86, R76). -/
def State.RefusesRate (s : State) (p : PositionNo) (hd : Handle) (a : Answer) : Prop :=
  (s.find hd = none ∧ a = .noRecord) ∨
    ∃ r, s.Finds hd r ∧
      ((r.busy = true ∨ r.queued = true) ∧ a = .recordBusy ∨
        (r.busy = false ∧ r.queued = false ∧
          ((∃ l, r.body = .damaged l) ∧ a = .damaged (.record hd) ∨
            ((∀ l, r.body ≠ .damaged l) ∧ r.owner ≠ p ∧ a = .notOwner) ∨
            (r.owner = p ∧
              (r.body.name ∈ [.printing, .labelled, .held] ∧ a = .wrongState ∨
                (r.body.name ∈ [.draft, .rated] ∧
                  (s.activeBank = none ∧ a = .noEdition ∨
                    (s.activeBank ≠ none ∧ s.draining = true ∧ a = .reset))))))))

theorem rateRequest_refused {res : Option Reservation} {tag : Tag} {a : Answer} (hh : handleOf items = some hd)
    (hx : s.RefusesRate p hd a) : rateRequest p session res grade tag items s = s.reply (.position p) a := by
  obtain ⟨hf, rfl⟩ | ⟨r, hf, ⟨marks, rfl⟩ | ⟨hbusy, hqueued, rest⟩⟩ := hx
  · exact withRecord_missing p items _ _ hh hf
  · exact withRecord_refused p items _ _ hh hf (by simpa [refusedMarked] using marks)
  have unmarked : refusedMarked r = false := by simp [refusedMarked, hbusy, hqueued]
  obtain ⟨⟨l, hl⟩, rfl⟩ | ⟨hb, ho, rfl⟩ | ⟨ho, ⟨hb, rfl⟩ | ⟨hb, rest⟩⟩ := rest
  · exact withRecord_damaged p items _ _ hh hf unmarked hl
  · exact rateRequest_notOwner hh hf unmarked hb ho
  · exact rateRequest_wrongState hh hf unmarked ho hb
  have entries : ∃ e, r.body.openEntries = some e := by
    cases hx : r.body <;> simp_all [RecordBody.name, RecordBody.openEntries]
  obtain ⟨e, he⟩ := entries
  obtain ⟨ha, rfl⟩ | ⟨ha, hdrain, rfl⟩ := rest
  · exact rateRequest_noEdition hh hf hbusy hqueued ho he ha
  · exact rateRequest_draining hh hf hbusy hqueued ho he ha hdrain

/-- The record a handle finds stays, whatever the links and contexts. -/
theorem State.Finds.reopened (hf : s.Finds hd r) :
    ((s.hold .supervisor .grant g).setCtx p (.opened session none)).Finds hd r := hf

/-- An entry may join before a request is held. -/
theorem State.join_hold (s : State) (l : Link) (k : Kind) (g : Tag) (x : QueueEntry) :
    (s.hold l k g).join x = (s.join x).hold l k g := by
  rw [State.join, State.join, ← State.markQueued_hold]
  cases l <;> rfl

/-- An entry that joins for a position reopened: the context written last stands. -/
theorem State.join_reopened (s : State) (l : Link) (k : Kind) (g : Tag) (x : QueueEntry) (c c' : Context) :
    (((s.hold l k g).setCtx p c).join x).setCtx p c' = ((s.join x).setCtx p c').hold l k g := by
  rw [State.join_setCtx, State.setCtx_setCtx, State.join_hold, State.setCtx_hold]

/-- A saved RATE of an unmarked DRAFT record joins the queue at the granted grade (R126). -/
theorem exec_grant_rate_joins (hs : s.Serves .grant .supervisor items) (hp : positionOf items = some p)
    (hg : gradeOf items = some grade) (hc : s.ctx p = .escalated session slot) (hn : grade ≤ slot.needed)
    (hk : slot.request.kind = .rate) (hh : handleOf slot.request.items = some hd) (hf : s.Finds hd r)
    (hbusy : r.busy = false) (hqueued : r.queued = false) (ho : r.owner = p) (hb : r.body = .draft e)
    (ha : s.activeBank ≠ none) (hdrain : s.draining = false) : exec (.grant ⟨.supervisor, g⟩ items) s =
      .next ((((State.putRecord { s with queue := s.queue ++ [⟨.rate, hd, .position p, grade⟩] } hd.slot
        { r with queued := true }).setCtx p
        (.working session false none ⟨.rate, slot.request.tag, slot.request.items, none⟩)).send .supervisor g
        Kind.grant.code (.done .plain)).judge) := by
  have free (c : Context) :
      (((s.join ⟨.rate, hd, .position p, grade⟩).setCtx p c).link .supervisor).outstanding = none := by
    simpa [State.link] using hs.free
  have unpinned : ¬ r.body.pin.isSome := by simp [hb, RecordBody.pin]
  have joined := rateRequest_joins (session := session) (res := none) (g := slot.request.tag) (eg := grade) hh
    (hf.reopened (g := g) (p := p) (session := session)) hbusy hqueued ho (by rw [hb]; rfl) ha hdrain
  rw [if_neg unpinned, State.join_reopened] at joined
  rw [exec_grant_next hs hp hg hc hn ((reexecute_rate hk).trans joined), State.judge_answer, State.judge_judge,
    State.answer_hold _ _ _ _ _ (free _), State.join_found ⟨.rate, hd, .position p, grade⟩ hf.1]

/-- Settles O16: the checks of GRANT, the re-execution and its DONE, and the fresh checks of a saved RATE with its two
ends. -/
theorem grantReexecutesTheRequest : Obligations.GrantReexecutesTheRequest := by
  unfold Obligations.GrantReexecutesTheRequest
  refine ⟨fun g items s p grade hs hp hg => ⟨fun _ _ => exec_grant_suspended hs hp hg, exec_grant_wrongState hs hp hg,
    fun _ _ => exec_grant_malformed hs hp hg⟩, fun g items s p grade session slot t hs hp hg hc hn hx => ?_,
    fun g items s p grade session slot hd a hs hp hg hc hn hk hh hx => ?_,
    fun g items s p grade session slot hd r e hs hp hg hc hn hk hh hf hbusy hqueued ho hb ha hdrain =>
      exec_grant_rate_joins hs hp hg hc hn hk hh hf hbusy hqueued ho hb ha hdrain⟩
  · refine exec_grant_next hs hp hg hc hn ?_
    rcases hx with ⟨hk, hx⟩ | ⟨hk, hx⟩ | ⟨hk, hx⟩ | ⟨hk, hx⟩ <;> simpa only [reexecute, hk] using hx
  · exact exec_grant_reply hs hp hg hc hn ((reexecute_rate hk).trans (rateRequest_refused hh hx))

end Sys2Proof.Machine
end

section
/-! Label numbers: the check character (R143) and LOAD BLOCK (R138 to R140): O41, O40. -/
namespace Sys2Proof.Machine

variable {s : State} {l : Link} {first count : Nat}

/-! ### The check character (R143) -/

/-- Settles O41: the digits of a serial are weighted 3, 7, 1 in turn, and a remainder by 11 is at most 10. -/
theorem checkCharacterOfASerial : Obligations.CheckCharacterOfASerial := by
  unfold Obligations.CheckCharacterOfASerial
  refine ⟨fun d1 d2 d3 d4 d5 d6 d7 d8 d9 h1 h2 h3 h4 h5 h6 h7 h8 h9 => ?_, fun service z serial time => ⟨rfl, ?_⟩⟩
  · rw [checkCharacter, serialDigits_eq (by simp [*]) rfl]
    simp only [checkWeights, List.zipWith_cons_cons, List.zipWith_nil_left, List.sum_cons, List.sum_nil]
    omega
  · exact Nat.le_of_lt_succ (Nat.mod_lt _ (by decide))

/-! ### What a range meets (R138, checks 5 to 7) -/

/-- A range keeps clear of a block where it ends before the block or begins after it. -/
theorem sharesSerial_eq_false {last : Nat} {b : Block} :
    sharesSerial first last b = false ↔ b.last < first ∨ last < b.first := by
  simp only [sharesSerial, Bool.and_eq_false_iff, decide_eq_false_iff_not, Nat.not_le]

theorem sharesSerial_of_mem {last n : Nat} {b : Block} (hn : first ≤ n ∧ n ≤ last) (hb : b.first ≤ n ∧ n ≤ b.last) :
    sharesSerial first last b = true := by
  simp only [sharesSerial, Bool.and_eq_true, decide_eq_true_eq]
  omega

theorem not_any_sharesSerial {last : Nat} {blocks : List Block} (h : ∀ b ∈ blocks, b.last < first ∨ last < b.first) :
    ¬ blocks.any (sharesSerial first last) := by
  simp only [List.any_eq_true, not_exists, not_and, Bool.not_eq_true]
  exact fun b hb => sharesSerial_eq_false.2 (h b hb)

/-- An entry of the range is carried where it failed earlier or its read passes. -/
theorem IndexEntry.carries_eq_true {last n : Nat} {e : IndexEntry} (hn : first ≤ n ∧ n ≤ last)
    (he : e.failed = true ∨ e.sound = true) : e.carries n first last = true := by
  simp only [IndexEntry.carries, Bool.and_eq_true, Bool.or_eq_true, decide_eq_true_eq]
  exact ⟨hn, he⟩

/-- An entry outside the range is not carried, nor is one whose read fails now. -/
theorem IndexEntry.carries_eq_false {last n : Nat} {e : IndexEntry}
    (h : (n < first ∨ last < n) ∨ (e.failed = false ∧ e.sound = false)) : e.carries n first last = false := by
  simp only [IndexEntry.carries, Bool.and_eq_false_iff, Bool.or_eq_false_iff, decide_eq_false_iff_not, Nat.not_le]
  exact h

theorem IndexEntry.fails_eq_false {e : IndexEntry} (h : e.failed = true ∨ e.sound = true) : e.fails = false := by
  rcases h with h | h <;> simp [IndexEntry.fails, h]

/-- With no serial of the range carried, the only entry whose read fails ends the reading. -/
theorem scanIndex_failing {last serial : Nat} {x : IndexEntry} {before after : List (Nat × IndexEntry)}
    (hf : x.failed = false) (hs : x.sound = false)
    (others : ∀ c ∈ before ++ after, (c.1 < first ∨ last < c.1) ∧ (c.2.failed = true ∨ c.2.sound = true)) :
    scanIndex first last (before ++ (serial, x) :: after) = .failing serial x := by
  have none_carried : (before ++ (serial, x) :: after).any (fun c => c.2.carries c.1 first last) = false := by
    simp only [List.any_eq_false, Bool.not_eq_true, List.mem_append, List.mem_cons]
    rintro c (hc | rfl | hc)
    · exact IndexEntry.carries_eq_false (.inl (others c (List.mem_append_left _ hc)).1)
    · exact IndexEntry.carries_eq_false (.inr ⟨hf, hs⟩)
    · exact IndexEntry.carries_eq_false (.inl (others c (List.mem_append_right _ hc)).1)
  have passed : before.find? (fun c => c.2.fails) = none := by
    simp only [List.find?_eq_none, Bool.not_eq_true]
    exact fun c hc => IndexEntry.fails_eq_false (others c (List.mem_append_left _ hc)).2
  have meets : x.fails = true := by simp [IndexEntry.fails, hf, hs]
  simp [scanIndex, none_carried, passed, meets]

/-- With no serial of the range carried and every read passing, the range is free. -/
theorem scanIndex_clear {last : Nat} {cells : List (Nat × IndexEntry)}
    (h : ∀ c ∈ cells, (c.1 < first ∨ last < c.1) ∧ (c.2.failed = true ∨ c.2.sound = true)) :
    scanIndex first last cells = .clear := by
  have cases := scanIndex_cases first last cells
  cases hx : scanIndex first last cells with
  | clear => rfl
  | carried =>
    rw [hx] at cases
    obtain ⟨c, hc, carried⟩ := cases
    rw [IndexEntry.carries_eq_false (.inl (h c hc).1)] at carried
    cases carried
  | failing n e =>
    rw [hx] at cases
    obtain ⟨mem, fails, -⟩ := cases
    rw [IndexEntry.fails_eq_false (h (n, e) mem).2] at fails
    cases fails

/-! ### The checks of LOAD BLOCK in their order (R138) -/

theorem loadBlock_beyond (h : Config.serialMax < first + count - 1) :
    loadBlock l first count s = s.reply l .malformed := by
  unfold loadBlock
  exact if_pos h

section
variable (hr : first + count - 1 ≤ Config.serialMax)
include hr

theorem loadBlock_full (h : Config.blockLimit ≤ s.pool.blocks.length) :
    loadBlock l first count s = s.reply l .limit := by
  unfold loadBlock
  exact (if_neg (Nat.not_lt.2 hr)).trans (if_pos h)

variable (hn : s.pool.blocks.length < Config.blockLimit)
include hn

theorem loadBlock_shares {b : Block} (hb : b ∈ s.pool.blocks) (h : sharesSerial first (first + count - 1) b = true) :
    loadBlock l first count s = s.reply l .overlap := by
  unfold loadBlock
  exact (if_neg (Nat.not_lt.2 hr)).trans ((if_neg (Nat.not_le.2 hn)).trans (if_pos (List.any_eq_true.2 ⟨b, hb, h⟩)))

theorem loadBlock_carried (h : scanIndex first (first + count - 1) s.table.index.cells = .carried) :
    loadBlock l first count s = s.reply l .overlap := by
  simp only [loadBlock, if_neg (Nat.not_lt.2 hr), if_neg (Nat.not_le.2 hn), h, ite_self]

variable (hb : ∀ b ∈ s.pool.blocks, b.last < first ∨ first + count - 1 < b.first)
include hb

theorem loadBlock_failing {serial : Nat} {x : IndexEntry}
    (h : scanIndex first (first + count - 1) s.table.index.cells = .failing serial x) :
    loadBlock l first count s =
      (s.failIndexEntry .supervisor serial x).1.finish l (.damaged (s.failIndexEntry .supervisor serial x).2) := by
  simp only [loadBlock, if_neg (Nat.not_lt.2 hr), if_neg (Nat.not_le.2 hn), if_neg (not_any_sharesSerial hb), h]

theorem loadBlock_clear (h : scanIndex first (first + count - 1) s.table.index.cells = .clear) :
    loadBlock l first count s =
      State.finish { s with pool := ⟨s.pool.blocks ++ [⟨first, first + count - 1, first⟩], s.pool.threshold⟩ } l
        (.done (.pool (s.pool.blocks.length + 1)
          (Pool.remaining ⟨s.pool.blocks ++ [⟨first, first + count - 1, first⟩], s.pool.threshold⟩))) := by
  simp only [loadBlock, if_neg (Nat.not_lt.2 hr), if_neg (Nat.not_le.2 hn), if_neg (not_any_sharesSerial hb), h,
    List.length_append, List.length_singleton]

end

/-- A request served carries the items that its link requires. -/
theorem State.Serves.accepted {k : Kind} {items : List Item} (hs : s.Serves k l items) :
    itemsAccepted k items = true := by
  obtain ⟨⟨-, -, -, accepted⟩, -⟩ := hs
  exact accepted

/-- An accepted LOAD BLOCK names at least one serial (R189). -/
theorem count_pos_of_accepted {items : List Item} (h : itemsAccepted .loadBlock items = true)
    (hc : countOf items = some count) : 1 ≤ count := by
  obtain ⟨i, hi, he⟩ := List.exists_of_findSome?_eq_some hc
  have range := inRange_of_accepted h (by decide) i hi
  cases i <;> simp only [reduceCtorEq, Option.some.injEq] at he
  subst he
  simp only [itemInRange, within, Bool.and_eq_true, decide_eq_true_eq] at range
  exact range.1

/-- A new block counts with every serial of its range. -/
theorem Pool.remaining_append {pool : Pool} (hc : 1 ≤ count) :
    Pool.remaining ⟨pool.blocks ++ [⟨first, first + count - 1, first⟩], pool.threshold⟩ = pool.remaining + count := by
  have own : first + count - 1 + 1 - first = count := by omega
  simp [Pool.remaining, own]

/-! ### LOAD BLOCK served -/

section
variable {g : Tag} {items : List Item} (hs : s.Serves .loadBlock .supervisor items)
  (hf : firstSerialOf items = some first) (hc : countOf items = some count)
include hs hf hc

theorem exec_loadBlock : exec (.loadBlock ⟨.supervisor, g⟩ items) s =
    loadBlock .supervisor first count (s.hold .supervisor .loadBlock g) := by
  dsimp only [exec, execLoadBlock]
  rw [haltedRequest_serves .loadBlock ⟨.supervisor, g⟩ items _ hs]
  simp only [hf, hc]

/-- A refusal answered at once changes nothing else. -/
theorem exec_loadBlock_reply {a : Answer} (h : loadBlock .supervisor first count (s.hold .supervisor .loadBlock g) =
    (s.hold .supervisor .loadBlock g).reply .supervisor a) :
    exec (.loadBlock ⟨.supervisor, g⟩ items) s = .next (s.send .supervisor g Kind.loadBlock.code a) := by
  rw [exec_loadBlock hs hf hc, h, State.reply_hold _ _ _ _ hs.free]

variable (hr : first + count - 1 ≤ Config.serialMax) (hn : s.pool.blocks.length < Config.blockLimit)
include hr hn

/-- A serial of the range that lies in a block, or that the index carries, is OVERLAP (R138, checks 5 and 6). -/
theorem exec_loadBlock_overlap {n : Nat} (hm : first ≤ n ∧ n ≤ first + count - 1)
    (h : (∃ b ∈ s.pool.blocks, b.first ≤ n ∧ n ≤ b.last) ∨
      ∃ x, s.table.index.get n = some x ∧ (x.failed = true ∨ x.sound = true)) :
    exec (.loadBlock ⟨.supervisor, g⟩ items) s = .next (s.send .supervisor g Kind.loadBlock.code .overlap) := by
  refine exec_loadBlock_reply hs hf hc ?_
  rcases h with ⟨b, hb, inside⟩ | ⟨x, hx, carried⟩
  · exact loadBlock_shares hr (by simpa using hn) (by simpa using hb) (sharesSerial_of_mem hm inside)
  · refine loadBlock_carried hr (by simpa using hn) ?_
    rw [State.hold_table]
    exact scanIndex_carried (mem_of_getCell hx) (IndexEntry.carries_eq_true hm carried)

variable (hb : ∀ b ∈ s.pool.blocks, b.last < first ∨ first + count - 1 < b.first)
include hb

/-- A failing read of the index, met before any carried serial, is answered DAMAGED (R138, check 7). -/
theorem exec_loadBlock_failing {serial : Nat} {x : IndexEntry}
    (h : scanIndex first (first + count - 1) s.table.index.cells = .failing serial x) :
    exec (.loadBlock ⟨.supervisor, g⟩ items) s =
      ((s.hold .supervisor .loadBlock g).failIndexEntry .supervisor serial x).1.finish .supervisor
        (.damaged ((s.hold .supervisor .loadBlock g).failIndexEntry .supervisor serial x).2) := by
  rw [exec_loadBlock hs hf hc]
  exact loadBlock_failing hr (by simpa using hn) (by simpa using hb) (by rw [State.hold_table, h])

/-- The record whose label carries the serial is damaged with it (R178). -/
theorem exec_loadBlock_carriedBy {serial slot : Nat} {x : IndexEntry} {r : Rec}
    (h : scanIndex first (first + count - 1) s.table.index.cells = .failing serial x)
    (hcar : s.carrier serial = some slot) (hrec : s.record slot = some r) : exec (.loadBlock ⟨.supervisor, g⟩ items) s =
      ((((s.hold .supervisor .loadBlock g).putIndex serial { x with failed := true }).damageRecord slot r
        (.indexEntry serial (some (s.handleAt slot)))).report (.indexEntry serial (some (s.handleAt slot)))
          .supervisor).finish .supervisor (.damaged (.indexEntry serial (some (s.handleAt slot)))) := by
  rw [exec_loadBlock_failing hs hf hc hr hn hb h, State.failIndexEntry_carried _ _ x
    ((State.carrier_hold serial).trans hcar) ((State.record_hold slot).trans hrec), State.handleAt_hold]

/-- Where neither a job nor an entry stands on that record. -/
theorem exec_loadBlock_carriedBy_idle {serial slot : Nat} {x : IndexEntry} {r : Rec}
    (h : scanIndex first (first + count - 1) s.table.index.cells = .failing serial x)
    (hcar : s.carrier serial = some slot) (hrec : s.record slot = some r)
    (hd : ∀ l, r.body ≠ .damaged l) (hu : s.unitOn (s.handleAt slot) = none)
    (hq : ∀ y ∈ s.queue, y.handle ≠ s.handleAt slot) : exec (.loadBlock ⟨.supervisor, g⟩ items) s =
      .next (((s.putIndex serial { x with failed := true }).damagedIdle slot r
        (.indexEntry serial (some (s.handleAt slot))) .supervisor).judge.send .supervisor g Kind.loadBlock.code
          (.damaged (.indexEntry serial (some (s.handleAt slot))))) := by
  have own : ((s.hold .supervisor .loadBlock g).putIndex serial { x with failed := true }).handleAt slot =
    s.handleAt slot := State.handleAt_hold slot
  obtain ⟨hu, hq⟩ := State.hold_idle (l := .supervisor) (k := .loadBlock) (g := g) hu hq
  rw [exec_loadBlock_carriedBy hs hf hc hr hn hb h hcar hrec,
    State.damageRecord_report _ _ hd (own.symm ▸ hu) (own.symm ▸ hq)]
  exact State.finish_beside (f := fun t => (t.putIndex serial { x with failed := true }).damagedIdle slot r _ _)
    (fun links => State.damagedIdle_withLinks (s.putIndex serial { x with failed := true }) links _ _ _ _) _ _ g _
    hs.free

/-- A record that is DAMAGED already stays as it is. -/
theorem exec_loadBlock_carriedBy_damaged {serial slot : Nat} {x : IndexEntry} {r : Rec} {label : Option Label}
    (h : scanIndex first (first + count - 1) s.table.index.cells = .failing serial x)
    (hcar : s.carrier serial = some slot) (hrec : s.record slot = some r)
    (hd : r.body = .damaged label) : exec (.loadBlock ⟨.supervisor, g⟩ items) s =
      .next ((((s.putIndex serial { x with failed := true }).report (.indexEntry serial (some (s.handleAt slot)))
        .supervisor).judge).send .supervisor g Kind.loadBlock.code
          (.damaged (.indexEntry serial (some (s.handleAt slot))))) := by
  rw [exec_loadBlock_carriedBy hs hf hc hr hn hb h hcar hrec, State.damageRecord_damaged _ _ _ _ label hd]
  exact State.finish_beside (f := fun t => (t.putIndex serial { x with failed := true }).report _ _)
    (fun links => State.report_withLinks (s.putIndex serial { x with failed := true }) links _ _) _ _ g _ hs.free

/-- An entry whose serial no label carries is kept, marked failed and reported alone. -/
theorem exec_loadBlock_alone {serial : Nat} {x : IndexEntry}
    (h : scanIndex first (first + count - 1) s.table.index.cells = .failing serial x) (hcar : s.carrier serial = none) :
    exec (.loadBlock ⟨.supervisor, g⟩ items) s =
      .next ((((s.putIndex serial { x with failed := true }).report (.indexEntry serial none) .supervisor).judge).send
        .supervisor g Kind.loadBlock.code (.damaged (.indexEntry serial none))) := by
  rw [exec_loadBlock_failing hs hf hc hr hn hb h,
    State.failIndexEntry_alone _ _ x ((State.carrier_hold serial).trans hcar)]
  exact State.finish_beside (f := fun t => (t.putIndex serial { x with failed := true }).report _ _)
    (fun links => State.report_withLinks (s.putIndex serial { x with failed := true }) links _ _) _ _ g _ hs.free

/-- With every read passing, the block goes to the tail (R140). -/
theorem exec_loadBlock_clear (h : scanIndex first (first + count - 1) s.table.index.cells = .clear) :
    exec (.loadBlock ⟨.supervisor, g⟩ items) s =
      .next ((State.judge { s with pool := ⟨s.pool.blocks ++ [⟨first, first + count - 1, first⟩],
        s.pool.threshold⟩ }).send .supervisor g Kind.loadBlock.code
        (.done (.pool (s.pool.blocks.length + 1) (s.pool.remaining + count)))) := by
  rw [exec_loadBlock hs hf hc, loadBlock_clear hr (by simpa using hn) (by simpa using hb) (by rw [State.hold_table, h]),
    Pool.remaining_append (count_pos_of_accepted hs.accepted hc), State.hold_pool]
  exact State.finish_beside
    (f := fun t => { t with pool := ⟨s.pool.blocks ++ [⟨first, first + count - 1, first⟩], s.pool.threshold⟩ })
    (fun _ => rfl) _ _ g _ hs.free

end

/-- Settles O40: the checks of LOAD BLOCK in their order; past them one lemma for each thing that the reading of the
index can find. -/
theorem loadBlockAppendsABlock : Obligations.LoadBlockAppendsABlock := by
  unfold Obligations.LoadBlockAppendsABlock
  refine fun g items s first count hs hf hc => ⟨fun beyond => ?_, fun hr full => ?_, fun hr hn ⟨n, low, high, h⟩ => ?_,
    fun hr hn hb before serial x after hcells failed sound others => ?_, fun hr hn hb passes => ?_⟩
  · exact exec_loadBlock_reply hs hf hc (loadBlock_beyond beyond)
  · exact exec_loadBlock_reply hs hf hc (loadBlock_full hr (by rwa [State.hold_pool]))
  · exact exec_loadBlock_overlap hs hf hc hr hn ⟨low, high⟩ h
  · have failing := hcells ▸ scanIndex_failing (serial := serial) failed sound others
    exact ⟨fun slot r hcar hrec hd hu hq => exec_loadBlock_carriedBy_idle hs hf hc hr hn hb failing hcar hrec hd hu hq,
      fun slot r label hcar hrec hd => exec_loadBlock_carriedBy_damaged hs hf hc hr hn hb failing hcar hrec hd,
      exec_loadBlock_alone hs hf hc hr hn hb failing⟩
  · exact exec_loadBlock_clear hs hf hc hr hn hb (scanIndex_clear passes)

end Sys2Proof.Machine
end

section
/-! SUPPORT. The law of the pool (R137, R139): what it says of the blocks and of the index, that a draw and a new block
keep it, and which of the shared operations give no serial an index entry. -/
namespace Sys2Proof.Machine

variable {s t u : State}

/-! ### The blocks -/

theorem Block.ok_iff {b : Block} : b.ok = true ↔ b.first ≤ b.next ∧ b.next ≤ b.last ∧ b.last ≤ Config.serialMax := by
  simp only [Block.ok, Bool.and_eq_true, decide_eq_true_eq, and_assoc]

theorem blocksApart_iff {l : List Block} :
    blocksApart l = true ↔ l.Pairwise fun b c => sharesSerial b.first b.last c = false := by
  induction l with
  | nil => simp [blocksApart]
  | cons b rest ih => simp [blocksApart, ih]

/-- At most 32 blocks, well formed and pairwise disjoint (R137, R139). -/
structure Pool.Lawful (p : Pool) : Prop where
  limit : p.blocks.length ≤ Config.blockLimit
  wellFormed : ∀ b ∈ p.blocks, b.first ≤ b.next ∧ b.next ≤ b.last ∧ b.last ≤ Config.serialMax
  apart : p.blocks.Pairwise fun b c => sharesSerial b.first b.last c = false

/-- No block still holds the serial. -/
def Pool.Lacks (p : Pool) (serial : Nat) : Prop := ∀ b ∈ p.blocks, serial < b.next ∨ b.last < serial

/-- The serials that have an entry in the label index. -/
def State.indexed (s : State) : List Nat := s.table.index.cells.map (·.1)

theorem State.poolLaw_iff : s.poolLaw = true ↔ s.pool.Lawful ∧ ∀ serial ∈ s.indexed, s.pool.Lacks serial := by
  have holds (b : Block) (serial : Nat) : b.holds serial = false ↔ serial < b.next ∨ b.last < serial := by
    simp only [Block.holds, Bool.and_eq_false_iff, decide_eq_false_iff_not, Nat.not_le]
  simp only [State.poolLaw, Bool.and_eq_true, decide_eq_true_eq, List.all_eq_true, Block.ok_iff, blocksApart_iff,
    Bool.not_eq_true', List.any_eq_false, Bool.not_eq_true, holds, State.indexed, List.forall_mem_map, Pool.Lacks]
  exact and_congr_left' ⟨fun ⟨⟨limit, ok⟩, apart⟩ => ⟨limit, ok, apart⟩,
    fun h => ⟨⟨h.limit, h.wellFormed⟩, h.apart⟩⟩

/-- What remains after a draw (R141) is lawful, lacks the serial drawn and whatever the pool lacked. -/
theorem Pool.Lawful.draw {p rest : Pool} {serial : Nat} (h : p.Lawful) (hd : p.draw = some (serial, rest)) :
    rest.Lawful ∧ rest.Lacks serial ∧ ∀ n, p.Lacks n → rest.Lacks n := by
  obtain ⟨limit, wellFormed, apart⟩ := h
  unfold Pool.draw at hd
  split at hd
  · cases hd
  · rename_i b blocks hb
    cases hd
    rw [hb] at limit wellFormed apart
    simp only [List.forall_mem_cons, List.pairwise_cons, List.length_cons, sharesSerial_eq_false]
      at limit wellFormed apart
    obtain ⟨⟨low, high, most⟩, others⟩ := wellFormed
    have lacksRest : ∀ c ∈ blocks, b.next < c.next ∨ c.last < b.next := fun c hc => by
      have := apart.1 c hc
      have := others c hc
      omega
    have lacked (n : Nat) (hn : p.Lacks n) : (n < b.next ∨ b.last < n) ∧ ∀ c ∈ blocks, n < c.next ∨ c.last < n := by
      simpa only [Pool.Lacks, hb, List.forall_mem_cons] using hn
    split
    · exact ⟨⟨Nat.le_of_succ_le limit, others, by simpa only [sharesSerial_eq_false] using apart.2⟩, lacksRest,
        fun n hn => (lacked n hn).2⟩
    · refine ⟨⟨limit, ?_, ?_⟩, ?_, fun n hn => ?_⟩
      · simp only [List.forall_mem_cons]
        exact ⟨⟨by omega, by omega, most⟩, others⟩
      · simpa only [List.pairwise_cons, sharesSerial_eq_false] using apart
      · simp only [Pool.Lacks, List.forall_mem_cons]
        exact ⟨by omega, lacksRest⟩
      · obtain ⟨own, other⟩ := lacked n hn
        simp only [Pool.Lacks, List.forall_mem_cons]
        exact ⟨by omega, other⟩

/-- A block of a range that no other block shares goes to the tail (R140). -/
theorem Pool.Lawful.append {p : Pool} {b : Block} (h : p.Lawful) (hn : p.blocks.length < Config.blockLimit)
    (hb : b.first ≤ b.next ∧ b.next ≤ b.last ∧ b.last ≤ Config.serialMax)
    (apart : ∀ c ∈ p.blocks, c.last < b.first ∨ b.last < c.first) : Pool.Lawful ⟨p.blocks ++ [b], p.threshold⟩ where
  limit := by simpa using hn
  wellFormed := by simpa only [List.forall_mem_append, List.forall_mem_singleton] using ⟨h.wellFormed, hb⟩
  apart := by
    simp only [List.pairwise_append, List.pairwise_singleton, List.forall_mem_singleton, true_and]
    exact ⟨h.apart, fun c hc => sharesSerial_eq_false.2 (apart c hc).symm⟩

/-! ### States that keep the law -/

/-- The law of the pool goes over from `s` to `t`. -/
def State.KeepsPool (s t : State) : Prop := s.poolLaw = true → t.poolLaw = true

theorem State.KeepsPool.refl (s : State) : s.KeepsPool s := id

theorem State.KeepsPool.trans (h : s.KeepsPool t) (k : t.KeepsPool u) : s.KeepsPool u := fun p => k (h p)

/-- The blocks stay and no serial is given an entry. -/
theorem State.KeepsPool.of_indexed (hi : t.indexed ⊆ s.indexed) (hb : t.pool.blocks = s.pool.blocks) :
    s.KeepsPool t := by
  intro h
  obtain ⟨⟨limit, wellFormed, apart⟩, lacks⟩ := State.poolLaw_iff.1 h
  refine State.poolLaw_iff.2 ⟨⟨hb ▸ limit, hb ▸ wellFormed, hb ▸ apart⟩, fun n hn b hm => ?_⟩
  exact lacks n (hi hn) b (hb ▸ hm)

/-- The blocks and the index stay. -/
theorem State.KeepsPool.frame (h : t.table.index = s.table.index ∧ t.pool.blocks = s.pool.blocks) : s.KeepsPool t := by
  obtain ⟨index, blocks⟩ := h
  exact .of_indexed (by simp only [State.indexed, index, List.Subset.refl]) blocks

/-! ### Operations that leave the index -/

@[simp] theorem State.putRecord_index (s : State) (n : Nat) (r : Rec) :
    (s.putRecord n r).table.index = s.table.index := rfl

@[simp] theorem State.markBusy_index (s : State) (n : Nat) (m : Bool) :
    (s.markBusy n m).table.index = s.table.index := by
  unfold State.markBusy
  split <;> simp

@[simp] theorem State.markQueued_index (s : State) (n : Nat) (m : Bool) :
    (s.markQueued n m).table.index = s.table.index := by
  unfold State.markQueued
  split <;> simp

@[simp] theorem State.readAt_index (s : State) (reader : Reader) (n : Nat) (r : Rec) :
    (s.readAt reader n r).1.table.index = s.table.index := by
  unfold State.readAt
  split <;> simp

@[simp] theorem State.lookupHandle_index (s : State) (reader : Reader) (h : Handle) :
    (s.lookupHandle reader h).1.table.index = s.table.index := by
  unfold State.lookupHandle
  split <;> simp

@[simp] theorem State.readEach_index (s : State) (reader : Reader) (slots : List Nat) :
    (readEach reader slots s).table.index = s.table.index := by
  induction slots generalizing s with
  | nil => rfl
  | cons n rest ih =>
    unfold readEach
    split <;> simp [ih]

@[simp] theorem State.readAll_index (s : State) (reader : Reader) :
    (s.readAll reader).table.index = s.table.index := by simp [State.readAll]

@[simp] theorem State.endUnread_index (s : State) (h : Handle) (subject : ReportSubject) :
    (s.endUnread h subject).table.index = s.table.index := by
  unfold State.endUnread
  split <;> simp

@[simp] theorem State.toDraft_index (s : State) (n : Nat) (r : Rec) (e : Entered) :
    (s.toDraft n r e).table.index = s.table.index := by simp [State.toDraft]

@[simp] theorem State.join_index (s : State) (e : QueueEntry) : (s.join e).table.index = s.table.index := by
  simp [State.join]

@[simp] theorem State.removeEntryOf_index (s : State) (r : Requester) :
    (s.removeEntryOf r).table.index = s.table.index := by
  unfold State.removeEntryOf
  split <;> simp

@[simp] theorem State.endJob_index (s : State) (u : UnitNo) (j : Job) :
    (s.endJob u j).table.index = s.table.index := by simp [State.endJob]

@[simp] theorem State.lapseEach_index (s : State) (slots : List Nat) :
    (lapseEach slots s).1.table.index = s.table.index := by
  induction slots generalizing s with
  | nil => rfl
  | cons n rest ih =>
    unfold lapseEach
    split
    · exact ih s
    · rename_i r _
      have read := s.readAt_index .graceExpiry n r
      split
      all_goals
        rename_i hr
        rw [hr] at read
      · split
        · exact ((ih _).trans (State.toDraft_index _ _ _ _)).trans read
        · exact (ih _).trans read
      · exact (ih _).trans read

@[simp] theorem State.expireGrace_index (s : State) (l : BankLetter) :
    (s.expireGrace l).table.index = s.table.index := by
  simp only [State.expireGrace]
  (repeat' split) <;> simp

@[simp] theorem State.takeSwitch_index (s : State) (l : BankLetter) :
    (s.takeSwitch l).table.index = s.table.index := by
  simp only [State.takeSwitch]
  (repeat' split) <;> simp

@[simp] theorem State.switchIfDue_index (s : State) : s.switchIfDue.table.index = s.table.index := by
  unfold State.switchIfDue
  split <;> simp

@[simp] theorem State.switchIfDue_pool (s : State) : s.switchIfDue.pool = s.pool := by
  unfold State.switchIfDue
  split <;> simp

/-! ### The soft reset and the end of the drain -/

@[simp] theorem State.softResetPosition_pool (s : State) (p : PositionNo) : (s.softResetPosition p).pool = s.pool := by
  unfold State.softResetPosition
  (repeat' split) <;> simp

@[simp] theorem State.softResetDispatch_pool (s : State) : s.softResetDispatch.pool = s.pool := by
  unfold State.softResetDispatch
  split <;> simp

@[simp] theorem State.endDrain_pool (s : State) : s.endDrain.pool = s.pool := by simp [State.endDrain]

/-- A fold keeps the law where each of its steps does. -/
theorem State.KeepsPool.foldl {α : Type} {f : State → α → State} (hf : ∀ (s : State) x, s.KeepsPool (f s x))
    (l : List α) (s : State) : s.KeepsPool (l.foldl f s) := by
  induction l generalizing s with
  | nil => exact .refl s
  | cons x rest ih => exact (hf s x).trans (ih _)

theorem State.KeepsPool.beginDrain (s : State) : s.KeepsPool s.beginDrain := by
  have positions : s.KeepsPool ((List.finRange 24).foldl State.softResetPosition s) :=
    .foldl (fun _ _ => .frame (by simp)) _ s
  have dispatch (v : State) : v.KeepsPool v.softResetDispatch := .frame (by simp)
  have unmarked (v : State) : v.KeepsPool (v.queue.foldl (fun t e => t.markQueued e.handle.slot false) v) :=
    .foldl (fun _ _ => .frame (by simp)) _ v
  have queue (v : State) : v.KeepsPool v.softResetQueue := (unmarked v).trans (.frame ⟨rfl, rfl⟩)
  have drained (v : State) : v.KeepsPool
      { v with grantState := .draining, bankA := v.bankA.unscheduled, bankB := v.bankB.unscheduled } :=
    .frame ⟨rfl, rfl⟩
  exact positions.trans ((dispatch _).trans ((queue _).trans (drained _)))

/-! ### Operations that take entries away or mark them -/

theorem State.KeepsPool.eraseIndex (s : State) (serial : Nat) : s.KeepsPool (s.eraseIndex serial) :=
  .of_indexed (List.map_subset _ (eraseCell_subset serial s.table.index.cells)) rfl

/-- An entry is rewritten. -/
theorem State.KeepsPool.putIndex {serial : Nat} (hs : serial ∈ s.indexed) (e : IndexEntry) :
    s.KeepsPool (s.putIndex serial e) := by
  refine .of_indexed (fun n hn => ?_) rfl
  obtain ⟨c, hc, rfl⟩ := List.mem_map.1 hn
  rcases mem_insertCell serial e s.table.index.cells c hc with rfl | old
  · exact hs
  · exact List.mem_map_of_mem old

theorem State.KeepsPool.failIndexEntry {serial : Nat} {e : IndexEntry} (he : (serial, e) ∈ s.table.index.cells)
    (reader : Reader) : s.KeepsPool (s.failIndexEntry reader serial e).1 := by
  have marked : s.KeepsPool (s.putIndex serial { e with failed := true }) := .putIndex (List.mem_map_of_mem he) _
  refine marked.trans (.frame ⟨?_, ?_⟩)
  · simp only [State.failIndexEntry]
    (repeat' split) <;> simp
  · simp

theorem State.KeepsPool.lookupSerial (s : State) (reader : Reader) (serial : Nat) :
    s.KeepsPool (s.lookupSerial reader serial).1 := by
  unfold State.lookupSerial
  split
  · exact .refl s
  · rename_i e he
    split
    · exact .refl s
    · split
      · split
        · exact .refl s
        · exact .frame (by simp)
      · exact .failIndexEntry (mem_of_getCell he) reader

theorem State.KeepsPool.lookupItems (s : State) (reader : Reader) (items : List Item) :
    s.KeepsPool (s.lookupItems reader items).1 := by
  unfold State.lookupItems
  split
  · exact .frame (by simp)
  · split
    · exact .lookupSerial s reader _
    · exact .refl s

theorem State.KeepsPool.retire (s : State) (n : Nat) (r : Rec) : s.KeepsPool (s.retire n r) := by
  cases hl : r.body.label with
  | none => exact .frame ⟨by rw [State.retire_index, hl]; rfl, by simp⟩
  | some l =>
    exact (State.KeepsPool.eraseIndex s l.serial).trans (.frame ⟨by rw [State.retire_index, hl]; rfl, by simp⟩)

theorem State.KeepsPool.unprint (s : State) (n : Nat) (r : Rec) (e : Entered) (q : Quote) (l : Label) :
    s.KeepsPool (s.unprint n r e q l) := by
  refine (State.KeepsPool.eraseIndex s l.serial).trans ?_
  unfold State.unprint
  dsimp only
  split <;> exact .frame (by simp)

/-- The hard reset empties the pool and the index (R198). -/
theorem State.KeepsPool.hardResetValues (s : State) (asserted : Bool) : s.KeepsPool (s.hardResetValues asserted) :=
  fun _ => rfl

end Sys2Proof.Machine
end

section
/-! SUPPORT. Every command keeps the law of the pool: the path of a request, then the commands of each chapter. -/
namespace Sys2Proof.Machine

/-- Wherever an outcome goes on, it has kept the law of the pool. -/
def State.KeepsPoolTo (s : State) (o : Outcome) : Prop := ∀ t, o = .next t → s.KeepsPool t

variable {s t : State}

theorem State.KeepsPoolTo.next (h : s.KeepsPool t) : s.KeepsPoolTo (.next t) := by
  rintro _ ⟨⟩
  exact h

/-- The blocks and the index stand as they did. -/
theorem State.KeepsPoolTo.frame (h : t.table.index = s.table.index ∧ t.pool.blocks = s.pool.blocks) :
    s.KeepsPoolTo (.next t) := .next (.frame h)

theorem State.KeepsPoolTo.reply (h : s.KeepsPool t) (l : Link) (a : Answer) : s.KeepsPoolTo (t.reply l a) :=
  .next (h.trans (.frame (by simp)))

theorem State.KeepsPoolTo.finish (h : s.KeepsPool t) (l : Link) (a : Answer) : s.KeepsPoolTo (t.finish l a) :=
  .next (h.trans (.frame (by simp)))

theorem State.KeepsPoolTo.judge (h : s.KeepsPool t) : s.KeepsPoolTo (.next t.judge) :=
  .next (h.trans (.frame (by simp)))

/-- What keeps the law may go first. -/
theorem State.KeepsPoolTo.after (h : s.KeepsPool t) {o : Outcome} (ho : t.KeepsPoolTo o) : s.KeepsPoolTo o :=
  fun v hv => h.trans (ho v hv)

/-- So may it follow. -/
theorem State.KeepsPoolTo.andThen {o : Outcome} {f : State → State} (ho : s.KeepsPoolTo o)
    (hf : ∀ t : State, t.KeepsPool (f t)) : s.KeepsPoolTo (andThen o f) := by
  intro t ht
  cases o with
  | next u =>
    cases ht
    exact (ho u rfl).trans (hf u)
  | fault r => cases ht
  | refused r => cases ht

/-! ### The path of a request (R187, R183, R117, R80) -/

/-- The link lets pass only what it accepts. -/
theorem accepted_of_linkRefusal {k : Kind} {l : Link} {ok : Bool} (h : linkRefusal s k l ok = none) : ok = true := by
  unfold linkRefusal at h
  split at h
  · cases h
  · split at h
    · cases h
    · split at h
      · assumption
      · cases h

/-- The body may use that the link accepted the items. -/
theorem request_keepsPool {k : Kind} {h : Header} {ok : Bool} {body : State → Outcome}
    (hb : ok = true → ∀ s : State, s.KeepsPoolTo (body s)) : s.KeepsPoolTo (request k h ok s body) := by
  unfold request
  split
  · exact .frame (by simp)
  · split
    · exact .frame (by simp)
    · rename_i taken
      exact .after (.frame (by simp)) (hb (accepted_of_linkRefusal taken) _)

theorem haltedRequest_keepsPool {k : Kind} {h : Header} {ok : Bool} {body : State → Outcome}
    (hb : ok = true → ∀ s : State, s.KeepsPoolTo (body s)) : s.KeepsPoolTo (haltedRequest k h ok s body) :=
  request_keepsPool fun accepted s => by
    split
    · exact .frame (by simp)
    · exact hb accepted s

theorem positionRequest_keepsPool {k : Kind} {h : Header} {ok : Bool}
    {body : PositionNo → Session → Option Reservation → State → Outcome}
    (hb : ∀ p session res (s : State), s.KeepsPoolTo (body p session res s)) :
    s.KeepsPoolTo (positionRequest k h ok s body) := by
  intro t ht
  rcases positionRequest_cases ht with rfl | ⟨a, rfl⟩ | ⟨l, a, rfl⟩ | ⟨p, session, res, -, -, hn⟩
  · exact .refl _
  · exact .frame (by simp)
  · exact .frame (by simp)
  · exact State.KeepsPoolTo.after (.frame (by simp)) (hb p session res _) t hn

theorem withRecord_keepsPool {p : PositionNo} {items : List Item} {refusing : Rec → Bool}
    {body : Handle → Rec → State → Outcome} (hb : ∀ h r, s.KeepsPoolTo (body h r s)) :
    s.KeepsPoolTo (withRecord p items s refusing body) := by
  intro t ht
  rcases withRecord_cases ht with ⟨a, rfl⟩ | ⟨h, a, rfl⟩ | ⟨h, r, -, -, -, -, hn⟩
  · exact .frame (by simp)
  · exact .frame (by simp)
  · exact hb h r t hn

theorem atPosition_keepsPool {k : Kind} {h : Header} {items : List Item} {body : PositionNo → State → Outcome}
    (hb : ∀ p (s : State), s.KeepsPoolTo (body p s)) :
    s.KeepsPoolTo (atPosition k h items s body) :=
  haltedRequest_keepsPool fun _ s => by
    split
    · exact .frame (by simp)
    · exact hb _ s

theorem bankRequest_keepsPool {k : Kind} {h : Header} {items : List Item} {body : BankLetter → State → Outcome}
    (hb : ∀ l (s : State), s.KeepsPoolTo (body l s)) :
    s.KeepsPoolTo (bankRequest k h items s body) :=
  haltedRequest_keepsPool fun _ s => by
    split
    · exact .frame (by simp)
    · split
      · exact hb _ s
      · exact .frame (by simp)

theorem labelledBySerial_keepsPool {l : Link} {serial : Nat} {refusing : Rec → Bool}
    {body : Nat → Rec → Entered → Quote → Label → Nat → Option ReweighPart → State → Outcome}
    (hb : ∀ n r e q lab adj rw (s : State), s.KeepsPoolTo (body n r e q lab adj rw s)) :
    s.KeepsPoolTo (labelledBySerial l serial refusing s body) := by
  have read : s.KeepsPool (s.lookupSerial .dispatch serial).1 := .lookupSerial s .dispatch serial
  unfold labelledBySerial
  split
  all_goals
    rename_i hl
    rw [hl] at read
    refine .after read ?_
  · exact .frame (by simp)
  · exact .frame (by simp)
  · split
    · exact .frame (by simp)
    · split
      · exact .frame (by simp)
      · exact .frame (by simp)
      · exact .frame (by simp)
      · exact hb _ _ _ _ _ _ _ _
      · exact .frame (by simp)
      · exact .frame (by simp)

theorem heldRecord_keepsPool {l : Link} {items : List Item}
    {body : Nat → Rec → Entered → Quote → Label → Nat → ReweighPart → State → Outcome}
    (hb : ∀ n r e q lab adj rw (s : State), s.KeepsPoolTo (body n r e q lab adj rw s)) :
    s.KeepsPoolTo (heldRecord l items s body) := by
  have read : s.KeepsPool (s.lookupItems .supervisor items).1 := .lookupItems s .supervisor items
  unfold heldRecord
  split
  all_goals
    rename_i hl
    rw [hl] at read
    refine .after read ?_
  · exact .frame (by simp)
  · exact .frame (by simp)
  · split
    · exact .frame (by simp)
    · split
      · exact .frame (by simp)
      · exact hb _ _ _ _ _ _ _ _
      · exact .frame (by simp)

/-! ### Label numbers (08) -/

/-- A new block shares no serial with another, and no entry of the index stands in its range (R139). -/
theorem State.KeepsPool.append {first last : Nat} (hr : first ≤ last) (hl : last ≤ Config.serialMax)
    (hn : s.pool.blocks.length < Config.blockLimit) (hb : ∀ b ∈ s.pool.blocks, b.last < first ∨ last < b.first)
    (hi : ∀ c ∈ s.table.index.cells, c.2.carries c.1 first last = false ∧ c.2.fails = false) :
    s.KeepsPool { s with pool := { s.pool with blocks := s.pool.blocks ++ [⟨first, last, first⟩] } } := by
  intro h
  obtain ⟨lawful, lacks⟩ := State.poolLaw_iff.1 h
  refine State.poolLaw_iff.2 ⟨lawful.append hn ⟨Nat.le_refl _, hr, hl⟩ hb, fun serial hs => ?_⟩
  obtain ⟨c, hc, rfl⟩ := List.mem_map.1 hs
  obtain ⟨carries, fails⟩ := hi c hc
  simp only [Pool.Lacks, List.forall_mem_append, List.forall_mem_singleton]
  refine ⟨lacks c.1 hs, ?_⟩
  by_contra inside
  rw [IndexEntry.carries_eq_true (by omega)] at carries
  · cases carries
  · simpa [IndexEntry.fails, or_iff_not_imp_left] using fails

theorem loadBlock_keepsPool (l : Link) {first count : Nat} (hc : 1 ≤ count) :
    s.KeepsPoolTo (loadBlock l first count s) := by
  have found := scanIndex_cases first (first + count - 1) s.table.index.cells
  unfold loadBlock
  dsimp only
  split
  · exact .frame (by simp)
  · rename_i range
    split
    · exact .frame (by simp)
    · rename_i room
      split
      · exact .frame (by simp)
      · rename_i apart
        cases hx : scanIndex first (first + count - 1) s.table.index.cells with
        | carried => exact .frame (by simp)
        | failing n e =>
          rw [hx] at found
          obtain ⟨mem, -, -⟩ := found
          exact .finish (.failIndexEntry mem .supervisor) _ _
        | clear =>
          rw [hx] at found
          refine .finish (.append (by omega) (Nat.le_of_not_lt range) (Nat.lt_of_not_le room) (fun b hb => ?_) found)
            _ _
          simp only [List.any_eq_true, not_exists, not_and, Bool.not_eq_true] at apart
          exact sharesSerial_eq_false.1 (apart b hb)

theorem execLoadBlock_keepsPool (h : Header) (items : List Item) : s.KeepsPoolTo (execLoadBlock h items s) :=
  haltedRequest_keepsPool fun accepted s => by
    split
    · rename_i hc
      exact loadBlock_keepsPool _ (count_pos_of_accepted accepted hc)
    · exact .frame (by simp)

/-! ### Acceptance (05) -/

/-- The serial drawn gets its entry as the pool gives it up (R91, R141). -/
theorem issueLabel_keepsPool {p : PositionNo} {hd : Handle} {r : Rec} {e : Entered} {q : Quote} {serial : Nat}
    {pool : Pool} (service : Service) (z : Zone) (hd' : s.pool.draw = some (serial, pool)) :
    s.KeepsPoolTo (issueLabel p hd r e q serial pool service z s) := by
  have drawn : s.KeepsPool (State.putIndex { s with pool := pool } serial ⟨hd.slot, false, true⟩) := by
    intro h
    obtain ⟨lawful, lacks⟩ := State.poolLaw_iff.1 h
    obtain ⟨rest, own, others⟩ := lawful.draw hd'
    refine State.poolLaw_iff.2 ⟨rest, fun n hn => ?_⟩
    obtain ⟨c, hc, rfl⟩ := List.mem_map.1 hn
    rcases mem_insertCell serial _ s.table.index.cells c hc with rfl | old
    · exact own
    · exact others c.1 (lacks c.1 (List.mem_map_of_mem old))
  exact .finish (drawn.trans (.frame (by simp))) _ _

theorem execNewParcel_keepsPool (h : Header) (items : List Item) : s.KeepsPoolTo (execNewParcel h items s) :=
  positionRequest_keepsPool fun p _ _ s => by
    dsimp only
    (repeat' split) <;> exact .frame (by simp)

theorem execSetAttributes_keepsPool (h : Header) (items : List Item) : s.KeepsPoolTo (execSetAttributes h items s) :=
  positionRequest_keepsPool fun p _ _ s => withRecord_keepsPool fun hd r => by
    (repeat' split) <;> exact .frame (by simp)

theorem rateRequest_keepsPool (p : PositionNo) (session : Session) (res : Option Reservation) (eg : Nat) (tag : Tag)
    (items : List Item) : s.KeepsPoolTo (rateRequest p session res eg tag items s) :=
  withRecord_keepsPool fun hd r => by
    dsimp only
    (repeat' split) <;> exact .frame (by simp)

theorem commitRequest_keepsPool (p : PositionNo) (session : Session) (eg : Nat) (tag : Tag) (items : List Item) :
    s.KeepsPoolTo (commitRequest p session eg tag items s) :=
  withRecord_keepsPool fun hd r => by
    split
    · exact .frame (by simp)
    · split
      · dsimp only
        split
        · split <;> exact .frame (by simp)
        · split
          · exact .frame (by simp)
          · split
            · exact .frame (by simp)
            · rename_i serial pool hdraw
              split
              · exact issueLabel_keepsPool _ _ hdraw
              · exact .frame (by simp)
              · split <;> exact .frame (by simp)
      · exact .frame (by simp)

theorem execPrinted_keepsPool (h : Header) (items : List Item) : s.KeepsPoolTo (execPrinted h items s) :=
  positionRequest_keepsPool fun p _ _ s => withRecord_keepsPool fun hd r => by
    (repeat' split) <;> exact .frame (by simp)

theorem execSpoilt_keepsPool (h : Header) (items : List Item) : s.KeepsPoolTo (execSpoilt h items s) :=
  positionRequest_keepsPool fun p _ _ s => withRecord_keepsPool fun hd r => by
    split
    · exact .frame (by simp)
    · split
      · split
        · exact .finish (.unprint s _ _ _ _ _) _ _
        · exact .frame (by simp)
      · exact .frame (by simp)

theorem execPrintDeadlineExpiry_keepsPool (n : Nat) : s.KeepsPoolTo (execPrintDeadlineExpiry n s) := by
  unfold execPrintDeadlineExpiry
  split
  · exact .frame (by simp)
  · split
    · exact .frame (by simp)
    · rename_i r _
      split
      · have read : s.KeepsPool (s.readAt .printDeadline n r).1 := .frame (by simp)
        split
        all_goals
          rename_i hr
          rw [hr] at read
        · split
          · exact .judge (read.trans (.unprint _ _ _ _ _ _))
          · exact .next read
        · exact .judge read
      · exact .frame (by simp)

/-! ### Shared records (06) -/

theorem execQuery_keepsPool (h : Header) (items : List Item) : s.KeepsPoolTo (execQuery h items s) :=
  positionRequest_keepsPool fun p session _ s => by
    have read : s.KeepsPool (s.lookupItems (.position p) items).1 := .lookupItems s (.position p) items
    split
    all_goals
      rename_i hl
      rw [hl] at read
      refine .after read ?_
    · exact .frame (by simp)
    · exact .frame (by simp)
    · dsimp only
      split <;> exact .frame (by simp)

theorem execQuerySupervisor_keepsPool (h : Header) (items : List Item) :
    s.KeepsPoolTo (execQuerySupervisor h items s) :=
  haltedRequest_keepsPool fun _ s => by
    have read : s.KeepsPool (s.lookupItems .supervisor items).1 := .lookupItems s .supervisor items
    split
    all_goals
      rename_i hl
      rw [hl] at read
      refine .after read ?_
    · exact .frame (by simp)
    · exact .frame (by simp)
    · exact .frame (by simp)

theorem amendRequest_keepsPool (p : PositionNo) (session : Session) (presented : Option Reservation) (eg : Nat)
    (tag : Tag) (items : List Item) : s.KeepsPoolTo (amendRequest p session presented eg tag items s) :=
  withRecord_keepsPool fun hd r => by
    dsimp only
    (repeat' split) <;> exact .frame (by simp)

theorem execTakeOver_keepsPool (h : Header) (items : List Item) : s.KeepsPoolTo (execTakeOver h items s) :=
  positionRequest_keepsPool fun p _ _ s => withRecord_keepsPool fun hd r => by
    dsimp only
    (repeat' split) <;> exact .frame (by simp)

theorem voidRequest_keepsPool (p : PositionNo) (session : Session) (presented : Option Reservation) (eg : Nat)
    (tag : Tag) (items : List Item) : s.KeepsPoolTo (voidRequest p session presented eg tag items s) :=
  withRecord_keepsPool fun hd r => by
    split
    · dsimp only
      split
      · exact .frame (by simp)
      · split
        · exact .frame (by simp)
        · exact .after (t := s.setCtx p (.opened session none)) (.frame (by simp)) (.finish (.retire _ _ _) _ _)
    · exact .frame (by simp)
    · split
      · exact .frame (by simp)
      · exact .finish (.retire s _ _) _ _

theorem execVoidSupervisor_keepsPool (h : Header) (items : List Item) : s.KeepsPoolTo (execVoidSupervisor h items s) :=
  haltedRequest_keepsPool fun _ s => by
    have read : s.KeepsPool (s.lookupItems .supervisor items).1 := .lookupItems s .supervisor items
    split
    all_goals
      rename_i hl
      rw [hl] at read
      refine .after read ?_
    · exact .frame (by simp)
    · exact .frame (by simp)
    · split
      · exact .frame (by simp)
      · exact .finish (.retire _ _ _) _ _

/-! ### The dispatch line (10) -/

theorem execReweigh_keepsPool (h : Header) (items : List Item) : s.KeepsPoolTo (execReweigh h items s) :=
  haltedRequest_keepsPool fun _ s => by
    split
    · split
      · exact .frame (by simp)
      · refine labelledBySerial_keepsPool fun n r e q lab adj _ s => ?_
        unfold reweighLabelled
        dsimp only
        (repeat' split) <;> exact .frame (by simp)
    · exact .frame (by simp)

theorem execHandover_keepsPool (h : Header) (items : List Item) : s.KeepsPoolTo (execHandover h items s) :=
  haltedRequest_keepsPool fun _ s => by
    split
    · exact .frame (by simp)
    · exact labelledBySerial_keepsPool fun n r _ _ _ _ _ s => .finish (.retire s n r) _ _

theorem execSettleAccept_keepsPool (h : Header) (items : List Item) : s.KeepsPoolTo (execSettleAccept h items s) :=
  haltedRequest_keepsPool fun _ _ => heldRecord_keepsPool fun _ _ _ _ _ _ _ _ => .frame (by simp)

theorem execSettleVoid_keepsPool (h : Header) (items : List Item) : s.KeepsPoolTo (execSettleVoid h items s) :=
  haltedRequest_keepsPool fun _ _ =>
    heldRecord_keepsPool fun n r _ _ _ _ _ s => .finish (.retire s n r) _ _

/-! ### Positions (07) -/

theorem execOpenPosition_keepsPool (h : Header) (items : List Item) : s.KeepsPoolTo (execOpenPosition h items s) :=
  atPosition_keepsPool fun p s => by (repeat' split) <;> exact .frame (by simp)

theorem execClosePosition_keepsPool (h : Header) (items : List Item) : s.KeepsPoolTo (execClosePosition h items s) :=
  atPosition_keepsPool fun p s => by
    dsimp only
    (repeat' split) <;> exact .frame (by simp)

theorem execResetPosition_keepsPool (h : Header) (items : List Item) : s.KeepsPoolTo (execResetPosition h items s) :=
  atPosition_keepsPool fun p s => by split <;> exact .frame (by simp)

theorem reexecute_keepsPool (p : PositionNo) (session : Session) (g : Nat) (request : HeldRequest) :
    s.KeepsPoolTo (reexecute p session g request s) := by
  unfold reexecute
  split
  · exact rateRequest_keepsPool _ _ _ _ _ _
  · exact commitRequest_keepsPool _ _ _ _ _
  · exact amendRequest_keepsPool _ _ _ _ _ _
  · exact voidRequest_keepsPool _ _ _ _ _ _

theorem execGrant_keepsPool (h : Header) (items : List Item) : s.KeepsPoolTo (execGrant h items s) :=
  atPosition_keepsPool fun p s => by
    split
    · exact .frame (by simp)
    · split
      · exact .frame (by simp)
      · split
        · exact .frame (by simp)
        · exact .andThen (.after (t := s.setCtx p _) (.frame (by simp)) (reexecute_keepsPool _ _ _ _)) fun _ =>
            .frame (by simp)
      · exact .frame (by simp)

theorem execDeny_keepsPool (h : Header) (items : List Item) : s.KeepsPoolTo (execDeny h items s) :=
  atPosition_keepsPool fun p s => by split <;> exact .frame (by simp)

theorem execCancel_keepsPool (h : Header) (items : List Item) : s.KeepsPoolTo (execCancel h items s) := by
  unfold execCancel cancelAt
  dsimp only
  (repeat' split) <;> exact .frame (by simp)

theorem execSuspend_keepsPool (h : Header) (items : List Item) : s.KeepsPoolTo (execSuspend h items s) :=
  atPosition_keepsPool fun p s => by split <;> exact .frame (by simp)

theorem execResume_keepsPool (h : Header) (items : List Item) : s.KeepsPoolTo (execResume h items s) :=
  atPosition_keepsPool fun p s => by split <;> exact .frame (by simp)

theorem execEscalationTimeout_keepsPool (p : PositionNo) : s.KeepsPoolTo (execEscalationTimeout p s) := by
  unfold execEscalationTimeout
  (repeat' split) <;> exact .frame (by simp)

end Sys2Proof.Machine
end

section
/-! The law of the pool (R137, R139), kept by jobs, the tariff and the hall as well: O55. -/
namespace Sys2Proof.Machine

variable {s : State}

/-! ### Jobs (04) -/

theorem grantEntry_keepsPool (e : QueueEntry) (u : UnitNo) (l : BankLetter) (edition : Nat) (values : JobValues)
    (r : Rec) (s : State) : s.KeepsPool (grantEntry e u l edition values r s) := by
  unfold grantEntry
  extract_lets queued started r' marked
  have read : s.KeepsPool (marked.readAt (.unit u) e.handle.slot r').1 := .frame (by simp [marked, started, queued])
  split
  all_goals
    rename_i hr
    rw [hr] at read
    exact read.trans (.frame (by simp))

theorem execGrantOfJob_keepsPool : s.KeepsPoolTo (execGrantOfJob s) := by
  have dropped (e : QueueEntry) (a : Answer) : s.KeepsPool (dropEntry e a s) := .frame (by simp [dropEntry])
  unfold execGrantOfJob
  split
  · exact .frame (by simp)
  · split
    · split
      · exact .frame (by simp)
      · split
        · exact .next (dropped _ _)
        · split
          · exact .next (dropped _ _)
          · exact .next (grantEntry_keepsPool _ _ _ _ _ _ s)
    · exact .frame (by simp)

theorem State.finishJob_keepsPool (s : State) (u : UnitNo) (j : Job) (a : Answer) : s.KeepsPoolTo (s.finishJob u j a) :=
  (.frame (by simp))

/-- A completion keeps the law where the application of its result does. -/
theorem completion_keepsPool {u : UnitNo} {kind : JobKind → Bool} {apply : Job → Rec → JobResult → State → Outcome}
    (ha : ∀ j r result (s : State), s.KeepsPoolTo (apply j r result s)) :
    s.KeepsPoolTo (completion u kind s apply) := by
  unfold completion
  split
  · exact .frame (by simp)
  · split
    · exact .frame (by simp)
    · rename_i j _
      split
      · exact .frame (by simp)
      · have run : s.KeepsPool (s.runJob u j).1 := .frame (by simp)
        split <;> rename_i hrun <;> rw [hrun] at run
        · exact .judge run
        · rename_i v _
          refine .after run ?_
          split
          · exact State.finishJob_keepsPool _ _ _ _
          · rename_i r _
            have read : v.KeepsPool (v.readAt (.unit u) j.entry.handle.slot r).1 := .frame (by simp)
            split <;> rename_i hread <;> rw [hread] at read
            · exact .after read (ha _ _ _ _)
            · exact .after read (.frame (by simp))
            · exact .judge read

theorem positionFault_keepsPool (u : UnitNo) (j : Job) (f : FaultReport) (s : State) :
    s.KeepsPoolTo (positionFault u j f s) := by
  unfold positionFault State.finishJob
  (repeat' split) <;> exact .frame (by simp)

theorem execRateJobCompletion_keepsPool (u : UnitNo) : s.KeepsPoolTo (execRateJobCompletion u s) :=
  completion_keepsPool fun j r result s => by
    split
    · unfold storeQuote
      dsimp only
      split <;> exact .frame (by simp)
    · exact positionFault_keepsPool _ _ _ _
    · exact State.finishJob_keepsPool _ _ _ _

theorem execRateOptionCompletion_keepsPool (u : UnitNo) : s.KeepsPoolTo (execRateOptionCompletion u s) :=
  completion_keepsPool fun j r result s => by
    split
    · exact .frame (by simp [addOption])
    · exact positionFault_keepsPool _ _ _ _
    · exact State.finishJob_keepsPool _ _ _ _

theorem execRerateReweighCompletion_keepsPool (u : UnitNo) : s.KeepsPoolTo (execRerateReweighCompletion u s) :=
  completion_keepsPool fun j r result s => by
    unfold State.finishJob
    (repeat' split) <;> exact .frame (by simp)

theorem execDiscardedJobCompletion_keepsPool (u : UnitNo) : s.KeepsPoolTo (execDiscardedJobCompletion u s) := by
  unfold execDiscardedJobCompletion
  split
  · exact .frame (by simp)
  · split
    · exact .frame (by simp)
    · rename_i j _
      split
      · exact .frame (by simp)
      · have run : s.KeepsPool (s.runJob u j).1 := .frame (by simp)
        split
        all_goals
          rename_i hrun
          rw [hrun] at run
          exact .after run (.frame (by simp))

theorem execJobReadFailsCheck_keepsPool (u : UnitNo) (e : BankEntry) : s.KeepsPoolTo (execJobReadFailsCheck u e s) := by
  unfold execJobReadFailsCheck
  (repeat' split) <;> exact .frame (by simp)

/-! ### Tariff (09) -/

@[simp] theorem State.patchSlot_pool (s : State) (p : Patch) : (s.patchSlot p).1.pool = s.pool := by
  unfold State.patchSlot
  dsimp only
  (repeat' split) <;> simp

@[simp] theorem State.applyPatch_pool (s : State) (p : Patch) : (s.applyPatch p).pool = s.pool := by
  simp [State.applyPatch]

theorem execBankClear_keepsPool (h : Header) (items : List Item) : s.KeepsPoolTo (execBankClear h items s) :=
  bankRequest_keepsPool fun l s => .frame (by simp)

theorem execUnschedule_keepsPool (h : Header) (items : List Item) : s.KeepsPoolTo (execUnschedule h items s) :=
  bankRequest_keepsPool fun l s => .frame (by simp)

theorem execBankWrite_keepsPool (h : Header) (items : List Item) : s.KeepsPoolTo (execBankWrite h items s) :=
  bankRequest_keepsPool fun l s => by split <;> exact .frame (by simp)

theorem execBankCopy_keepsPool (h : Header) (items : List Item) : s.KeepsPoolTo (execBankCopy h items s) :=
  bankRequest_keepsPool fun l s => by (repeat' split) <;> exact .frame (by simp)

theorem execBankVerify_keepsPool (h : Header) (items : List Item) : s.KeepsPoolTo (execBankVerify h items s) :=
  bankRequest_keepsPool fun l s => by
    unfold verifyBank
    (repeat' split) <;> exact .frame (by simp)

theorem execScheduleSwitch_keepsPool (h : Header) (items : List Item) : s.KeepsPoolTo (execScheduleSwitch h items s) :=
  bankRequest_keepsPool fun l s => by
    unfold scheduleSwitch
    dsimp only
    (repeat' split) <;> exact .frame (by simp)

theorem patchRequest_keepsPool (change : PatchChange) (h : Header) (items : List Item) (s : State) :
    s.KeepsPoolTo (patchRequest change h items s) := by
  unfold patchRequest
  (repeat' split) <;> exact .frame (by simp)

theorem execPatchApplied_keepsPool : s.KeepsPoolTo (execPatchApplied s) := by
  unfold execPatchApplied
  (repeat' split) <;> exact .frame (by simp)

theorem execSwitch_keepsPool : s.KeepsPoolTo (execSwitch s) := by
  unfold execSwitch
  (repeat' split) <;> exact .frame (by simp)

theorem execGraceExpiry_keepsPool (l : BankLetter) : s.KeepsPoolTo (execGraceExpiry l s) := by
  unfold execGraceExpiry
  (repeat' split) <;> exact .frame (by simp)

/-! ### The hall (12) -/

theorem execSetTime_keepsPool (h : Header) (items : List Item) : s.KeepsPoolTo (execSetTime h items s) :=
  haltedRequest_keepsPool fun _ s => by split <;> exact .frame (by simp)

/-- The threshold is no part of the law. -/
theorem execSetTimers_keepsPool (h : Header) (items : List Item) : s.KeepsPoolTo (execSetTimers h items s) :=
  haltedRequest_keepsPool fun _ s => .frame (by simp)

theorem execSetEnables_keepsPool (h : Header) (items : List Item) : s.KeepsPoolTo (execSetEnables h items s) :=
  haltedRequest_keepsPool fun _ s => by split <;> exact .frame (by simp)

theorem execAcknowledge_keepsPool (h : Header) (items : List Item) : s.KeepsPoolTo (execAcknowledge h items s) :=
  haltedRequest_keepsPool fun _ s => by split <;> exact .frame (by simp)

theorem execStatus_keepsPool (h : Header) (items : List Item) : s.KeepsPoolTo (execStatus h items s) :=
  request_keepsPool fun _ s => by split <;> exact .frame (by simp)

theorem execSoftReset_keepsPool (h : Header) (items : List Item) : s.KeepsPoolTo (execSoftReset h items s) :=
  haltedRequest_keepsPool fun _ s => by
    dsimp only
    split
    · exact .next ((State.KeepsPool.beginDrain s).trans (.frame (by simp)))
    · exact .judge (.beginDrain s)

theorem execDrainEnd_keepsPool : s.KeepsPoolTo (execDrainEnd s) := by
  unfold execDrainEnd
  (repeat' split) <;> exact .frame (by simp)

theorem execHallTimeTick_keepsPool : s.KeepsPoolTo (execHallTimeTick s) := by
  unfold execHallTimeTick State.countDown
  (repeat' split) <;> exact .frame (by simp)

theorem execResetRelease_keepsPool : s.KeepsPoolTo (execResetRelease s) := by
  unfold execResetRelease
  split
  · exact .next (.hardResetValues s false)
  · exact .frame (by simp)

theorem execUnknownRequest_keepsPool (h : Header) (kind : Byte) : s.KeepsPoolTo (execUnknownRequest h kind s) := by
  unfold execUnknownRequest
  split <;> exact .frame (by simp)

/-! ### The step -/

/-- Every command keeps the law of the pool. -/
theorem exec_keepsPool (i : Instr) : s.KeepsPoolTo (exec i s) := by
  cases i with
  | newParcel h items => exact execNewParcel_keepsPool h items
  | setAttributes h items => exact execSetAttributes_keepsPool h items
  | rate h items => exact positionRequest_keepsPool fun _ _ _ _ => rateRequest_keepsPool _ _ _ _ _ _
  | commit h items => exact positionRequest_keepsPool fun _ _ _ _ => commitRequest_keepsPool _ _ _ _ _
  | printed h items => exact execPrinted_keepsPool h items
  | spoilt h items => exact execSpoilt_keepsPool h items
  | query h items => exact execQuery_keepsPool h items
  | amendAddOption h items => exact positionRequest_keepsPool fun _ _ _ _ => amendRequest_keepsPool _ _ _ _ _ _
  | takeOver h items => exact execTakeOver_keepsPool h items
  | void h items => exact positionRequest_keepsPool fun _ _ _ _ => voidRequest_keepsPool _ _ _ _ _ _
  | cancel h items => exact execCancel_keepsPool h items
  | reweigh h items => exact execReweigh_keepsPool h items
  | handover h items => exact execHandover_keepsPool h items
  | setTime h items => exact execSetTime_keepsPool h items
  | setTimers h items => exact execSetTimers_keepsPool h items
  | setEnables h items => exact execSetEnables_keepsPool h items
  | acknowledge h items => exact execAcknowledge_keepsPool h items
  | status h items => exact execStatus_keepsPool h items
  | openPosition h items => exact execOpenPosition_keepsPool h items
  | closePosition h items => exact execClosePosition_keepsPool h items
  | resetPosition h items => exact execResetPosition_keepsPool h items
  | suspend h items => exact execSuspend_keepsPool h items
  | resume h items => exact execResume_keepsPool h items
  | grant h items => exact execGrant_keepsPool h items
  | deny h items => exact execDeny_keepsPool h items
  | loadBlock h items => exact execLoadBlock_keepsPool h items
  | bankClear h items => exact execBankClear_keepsPool h items
  | bankWrite h items => exact execBankWrite_keepsPool h items
  | bankCopy h items => exact execBankCopy_keepsPool h items
  | bankVerify h items => exact execBankVerify_keepsPool h items
  | scheduleSwitch h items => exact execScheduleSwitch_keepsPool h items
  | unschedule h items => exact execUnschedule_keepsPool h items
  | patchWithdraw h items => exact haltedRequest_keepsPool fun _ => patchRequest_keepsPool _ _ _
  | patchRestore h items => exact haltedRequest_keepsPool fun _ => patchRequest_keepsPool _ _ _
  | patchRegrade h items => exact haltedRequest_keepsPool fun _ => patchRequest_keepsPool _ _ _
  | patchApplied => exact execPatchApplied_keepsPool
  | settleAccept h items => exact execSettleAccept_keepsPool h items
  | settleVoid h items => exact execSettleVoid_keepsPool h items
  | querySupervisor h items => exact execQuerySupervisor_keepsPool h items
  | voidSupervisor h items => exact execVoidSupervisor_keepsPool h items
  | softReset h items => exact execSoftReset_keepsPool h items
  | drainEnd => exact execDrainEnd_keepsPool
  | frameDiscarded link bytes => exact .next (.refl s)
  | unknownRequest h kind => exact execUnknownRequest_keepsPool h kind
  | hardReset => exact .next (.hardResetValues s true)
  | resetRelease => exact execResetRelease_keepsPool
  | hallTimeTick => exact execHallTimeTick_keepsPool
  | printDeadlineExpiry n => exact execPrintDeadlineExpiry_keepsPool n
  | escalationTimeout p => exact execEscalationTimeout_keepsPool p
  | graceExpiry l => exact execGraceExpiry_keepsPool l
  | switch => exact execSwitch_keepsPool
  | grantOfJob => exact execGrantOfJob_keepsPool
  | rateJobCompletion u => exact execRateJobCompletion_keepsPool u
  | rateOptionCompletion u => exact execRateOptionCompletion_keepsPool u
  | rerateReweighCompletion u => exact execRerateReweighCompletion_keepsPool u
  | discardedJobCompletion u => exact execDiscardedJobCompletion_keepsPool u
  | jobReadFailsCheck u e => exact execJobReadFailsCheck_keepsPool u e

/-- Settles O55: a COMMIT gives a serial its entry as it draws it, LOAD BLOCK takes a range that no block shares and no
entry stands in, and no other command adds a serial to a block or to the index. -/
theorem poolLawIsKept : Obligations.PoolLawIsKept := by
  unfold Obligations.PoolLawIsKept
  intro s t law hs
  unfold step at hs
  split at hs
  · cases hs
    exact law
  · rename_i c rest _
    exact exec_keepsPool (s := { s with pending := rest }) c t hs law

end Sys2Proof.Machine
end

section
/-! SUPPORT. The pinners of a bank counted (R155), and the banks that a release, a switch or a request of chapter 09
leaves. -/
namespace Sys2Proof.Machine

variable {s t : State}

/-! ### The pinners of a bank -/

/-- How often a record or a unit that pins `p` counts among the pinners of a bank. -/
def pinCount (p : Option BankLetter) (l : BankLetter) : Nat := (p == some l).toNat

@[simp] theorem pinCount_none (l : BankLetter) : pinCount none l = 0 := rfl

/-- What the record in a slot pins. -/
def State.pinAt (s : State) (n : Nat) : Option BankLetter := (s.record n).bind fun r => r.body.pin

theorem State.pinAt_of_record {n : Nat} {r : Rec} (h : s.record n = some r) : s.pinAt n = r.body.pin := by
  rw [State.pinAt, h]
  rfl

/-- What a unit pins: the bank its job runs on. -/
def State.runsOn (s : State) (u : UnitNo) : Option BankLetter := (s.unit u).map Job.bank

theorem State.runsOn_of_unit {u : UnitNo} {j : Job} (h : s.unit u = some j) : s.runsOn u = some j.bank := by
  rw [State.runsOn, h]
  rfl

theorem State.runsOn_congr (h : t.units = s.units) (u : UnitNo) : t.runsOn u = s.runsOn u := by
  rw [State.runsOn, State.unit, h]
  rfl

/-- The units counted one by one. -/
theorem State.countP_units (s : State) (l : BankLetter) :
    (s.units.toList.countP fun u => u.any fun j => j.bank == l) =
      (List.finRange 4).countP fun u => s.runsOn u == some l := by
  have listed : s.units.toList = (List.finRange 4).map s.unit := by
    refine List.ext_getElem (by simp) fun i h _ => ?_
    have := s.unit_eq_getElem ⟨i, by simpa using h⟩
    rw [List.getElem?_eq_getElem h, Option.some.injEq] at this
    simpa using this
  rw [listed, List.countP_map]
  refine List.countP_congr fun u _ => ?_
  simp only [Function.comp, State.runsOn]
  cases s.unit u <;> simp

/-- The pinners are counted from what the listed records and the units pin. -/
theorem State.pinners_congr (hr : t.table.records = s.table.records) (hu : ∀ u, t.runsOn u = s.runsOn u)
    (l : BankLetter) : t.pinners l = s.pinners l := by
  simp only [State.pinners, State.countP_units, hr, hu]

theorem State.putRecord_rising (h : s.table.Rising) (n : Nat) (r : Rec) : (s.putRecord n r).table.Rising :=
  ⟨risingKeys_insertCell n r _ h.1, h.2⟩

/-- A record written counts in place of the one the slot held. -/
theorem State.putRecord_pinners (h : s.table.Rising) (n : Nat) (r : Rec) (l : BankLetter) :
    (s.putRecord n r).pinners l + pinCount (s.pinAt n) l = s.pinners l + pinCount r.body.pin l := by
  have counted := countP_insertCell (fun c => c.2.body.pin == some l) n r _ h.1
  have held : ((getCell n s.table.records.cells).elim 0 fun w => (w.body.pin == some l).toNat) =
      pinCount (s.pinAt n) l := by
    rw [State.pinAt, State.record, Table.get]
    cases getCell n s.table.records.cells <;> rfl
  rw [held] at counted
  simp only [State.pinners, State.putRecord, Table.insert, pinCount] at counted ⊢
  omega

/-- A record written with the pin of the one the slot held. -/
theorem State.putRecord_pinners_same (h : s.table.Rising) {n : Nat} {r : Rec} (hp : r.body.pin = s.pinAt n)
    (l : BankLetter) : (s.putRecord n r).pinners l = s.pinners l := by
  have := State.putRecord_pinners h n r l
  rw [hp] at this
  omega

/-- A cell unlisted no longer counts. -/
theorem countP_eraseCell {α : Type} (p : Nat × α → Bool) {k : Nat} {w : α} {l : List (Nat × α)}
    (h : getCell k l = some w) : (eraseCell k l).countP p + (p (k, w)).toNat = l.countP p := by
  induction l with
  | nil => cases h
  | cons c rest ih =>
    obtain ⟨j, v⟩ := c
    simp only [getCell] at h
    simp only [eraseCell]
    split at h
    · rename_i hj
      subst hj
      cases h
      rw [if_pos rfl, List.countP_cons]
      cases p (j, w) <;> rfl
    · rename_i hj
      rw [if_neg hj, List.countP_cons, List.countP_cons]
      have := ih h
      omega

/-- A record that is retired no longer counts. -/
theorem State.erase_pinners {n : Nat} {r : Rec} (hr : s.record n = some r)
    (ht : t.table.records = s.table.records.erase n) (hu : t.units = s.units) (l : BankLetter) :
    t.pinners l + pinCount r.body.pin l = s.pinners l := by
  have counted := countP_eraseCell (fun c => c.2.body.pin == some l) hr
  simp only [State.pinners, ht, hu, Table.erase, pinCount] at counted ⊢
  omega

/-- A unit's new job counts in place of the one it ran. -/
theorem State.setUnit_pinners (s : State) (u : UnitNo) (j : Option Job) (l : BankLetter) :
    (s.setUnit u j).pinners l + pinCount (s.runsOn u) l = s.pinners l + pinCount (j.map Job.bank) l := by
  have count (j : Option Job) :
      (if (j.any fun j => j.bank == l) = true then 1 else 0) = pinCount (j.map Job.bank) l := by
    cases j with
    | none => rfl
    | some j => cases hb : j.bank == l <;> simp [pinCount, hb]
  have lt : u.val < s.units.toList.length := by simp
  have here : s.units.toList[u.val] = s.unit u :=
    Option.some.inj ((List.getElem?_eq_getElem lt).symm.trans (s.unit_eq_getElem u))
  have counted := List.countP_set (p := fun u : Option Job => u.any fun j => j.bank == l) (a := j) lt
  have le : pinCount (s.runsOn u) l ≤ s.units.toList.countP fun u => u.any fun j => j.bank == l := by
    rw [State.runsOn, ← count]
    split
    · exact List.countP_pos_iff.2 ⟨s.unit u, here ▸ List.getElem_mem lt, ‹_›⟩
    · exact Nat.zero_le _
  rw [here, count, count] at counted
  simp only [State.pinners, State.setUnit, Vector.toList_set, State.runsOn] at le counted ⊢
  omega

end Sys2Proof.Machine
end

section
/-! SUPPORT. What a step leaves of the banks: the laws of the tariff (R154), of the editions (R151) and of the pins
(R155) go over from a state to the next. -/
namespace Sys2Proof.Machine

variable {s t u : State}

/-! ### One bank -/

/-- A bank that gains neither an edition number nor the office of the ACTIVE bank. -/
structure Bank.Stays (b b' : Bank) : Prop where
  edition : b'.state.edition = b.state.edition ∨ b'.state.edition = none
  active : b'.state.isActive = true → b.state.isActive = true
  pinned : b.retiringPinned = true → b'.retiringPinned = true
  carries : b.state.carriesPins = true → b'.state.carriesPins = true ∨ b'.pins = 0

theorem Bank.Stays.refl (b : Bank) : b.Stays b := ⟨.inl rfl, id, id, .inl⟩

/-- The state and the pin count stay. -/
theorem Bank.Stays.alike {b b' : Bank} (hs : b'.state = b.state) (hp : b'.pins = b.pins) : b.Stays b' := by
  refine ⟨.inl (by rw [hs]), by rw [hs]; exact id, ?_, by rw [hs]; exact .inl⟩
  rw [Bank.retiringPinned, Bank.retiringPinned, hs, hp]
  exact id

/-- A pin more keeps the state. -/
theorem Bank.Stays.takePin (b : Bank) : b.Stays { b with pins := b.pins + 1 } := by
  refine ⟨.inl rfl, id, fun h => ?_, .inl⟩
  unfold Bank.retiringPinned at h ⊢
  split <;> simp_all

/-- A bank that may not carry pins comes to a state that may not either. -/
theorem Bank.Stays.unpinned {b b' : Bank} (hb : b.state.carriesPins = false) (hb' : b'.state.carriesPins = false)
    (he : b'.state.edition = b.state.edition ∨ b'.state.edition = none) : b.Stays b' := by
  refine ⟨he, fun h => ?_, fun _ => ?_, fun h => by rw [hb] at h; cases h⟩
  · cases hs : b'.state <;> rw [hs] at h hb' <;> cases h
    cases hb'
  · unfold Bank.retiringPinned
    split
    · rename_i hs
      rw [hs] at hb'
      cases hb'
    · rfl

/-! ### The release of a pin -/

theorem State.releasePin_stays (s : State) (l m : BankLetter) : (s.bank m).Stays ((s.releasePin l).bank m) := by
  by_cases h : l = m
  · subst h
    have written (b : Bank) (c : Cause) : ((s.setBank l b).raise c).bank l = b := by cases l <;> rfl
    unfold State.releasePin
    dsimp only
    split
    · rename_i hs
      split
      · rw [written]
        exact ⟨.inl (by rw [hs]; rfl), nofun, fun _ => rfl, fun _ => .inr rfl⟩
      · rename_i hp
        rw [State.bank_setBank]
        refine ⟨.inl rfl, id, fun _ => ?_, .inl⟩
        simp only [Bank.retiringPinned, hs, decide_eq_true_eq]
        omega
    · rename_i hs
      rw [State.bank_setBank]
      refine ⟨.inl rfl, id, fun _ => ?_, .inl⟩
      unfold Bank.retiringPinned
      split
      · exact absurd ‹_› (hs _ _)
      · rfl
  · rw [State.releasePin_bank_other _ h]
    exact .refl _

/-- The pin of a record or a unit, if it has one, is released. -/
def State.released (s : State) : Option BankLetter → State
  | some l => s.releasePin l
  | none => s

theorem State.releaseBodyPin_eq (s : State) (b : RecordBody) : s.releaseBodyPin b = s.released b.pin := by
  unfold State.releaseBodyPin
  split <;> rename_i h <;> rw [h] <;> rfl

theorem State.released_stays (s : State) (p : Option BankLetter) (l : BankLetter) :
    (s.bank l).Stays ((s.released p).bank l) := by
  cases p with
  | none => exact .refl _
  | some m => exact s.releasePin_stays m l

theorem State.released_pins (s : State) (p : Option BankLetter) (l : BankLetter) :
    ((s.released p).bank l).pins = (s.bank l).pins - pinCount p l := by
  cases p with
  | none => rfl
  | some m =>
    by_cases h : m = l
    · subst h
      simp [State.released, State.releasePin_pins, pinCount]
    · simp [State.released, State.releasePin_bank_other _ h, pinCount, beq_eq_false_iff_ne.2 h]

theorem State.released_congr (h : ∀ l, t.bank l = s.bank l) (p : Option BankLetter) (l : BankLetter) :
    (t.released p).bank l = (s.released p).bank l := by
  cases p with
  | none => exact h l
  | some m => exact State.releasePin_bank_congr (h .a) (h .b) m l

/-! ### The laws -/

theorem State.pinnedBy_iff {l : BankLetter} : s.pinnedBy l = true ↔
    (s.bank l).pins = s.pinners l ∧ ((s.bank l).pins = 0 ∨ (s.bank l).state.carriesPins = true) := by
  simp only [State.pinnedBy, Bool.and_eq_true, Bool.or_eq_true, beq_iff_eq]

theorem State.pinLaw_iff : s.pinLaw = true ↔ ∀ l, s.pinnedBy l = true := by
  rw [State.pinLaw, Bool.and_eq_true]
  exact ⟨fun h l => match l with | .a => h.1 | .b => h.2, fun h => ⟨h .a, h .b⟩⟩

theorem State.tariffLaw_iff : s.tariffLaw = true ↔
    ¬ (s.bankA.state.isActive = true ∧ s.bankB.state.isActive = true) ∧ ∀ l, (s.bank l).retiringPinned = true := by
  simp only [State.tariffLaw, Bool.and_eq_true, Bool.not_eq_true', Bool.and_eq_false_iff, and_assoc]
  refine and_congr ?_ ⟨fun h l => match l with | .a => h.1 | .b => h.2, fun h => ⟨h .a, h .b⟩⟩
  cases s.bankA.state.isActive <;> cases s.bankB.state.isActive <;> decide

theorem State.editionsApart_iff : s.editionsApart = true ↔
    ∀ n, s.bankA.state.edition = some n → s.bankB.state.edition ≠ some n := by
  unfold State.editionsApart
  cases s.bankA.state.edition with
  | none => simp
  | some n => simp

/-- The three laws go over from `s` to `t`; that of the pins where the records' keys rise. -/
structure State.KeepsTariff (s t : State) : Prop where
  tariff : s.tariffLaw = true → t.tariffLaw = true
  editions : s.editionsApart = true → t.editionsApart = true
  rising : s.table.Rising → t.table.Rising
  pins : s.table.Rising → s.pinLaw = true → t.pinLaw = true

namespace State.KeepsTariff

theorem refl (s : State) : s.KeepsTariff s := ⟨id, id, id, fun _ => id⟩

theorem trans (h : s.KeepsTariff t) (k : t.KeepsTariff u) : s.KeepsTariff u :=
  ⟨fun e => k.tariff (h.tariff e), fun e => k.editions (h.editions e), fun r => k.rising (h.rising r),
    fun r e => k.pins (h.rising r) (h.pins r e)⟩

/-- Banks that stay keep the first two laws. -/
theorem of_stays (banks : ∀ l, (s.bank l).Stays (t.bank l)) (rising : s.table.Rising → t.table.Rising)
    (pins : s.table.Rising → ∀ l, s.pinnedBy l = true →
      (t.bank l).pins = t.pinners l ∧ ((t.bank l).pins = 0 ∨ (s.bank l).state.carriesPins = true)) :
    s.KeepsTariff t where
  tariff h := by
    obtain ⟨one, pinned⟩ := State.tariffLaw_iff.1 h
    exact State.tariffLaw_iff.2 ⟨fun both => one ⟨(banks .a).active both.1, (banks .b).active both.2⟩,
      fun l => (banks l).pinned (pinned l)⟩
  editions h := by
    refine State.editionsApart_iff.2 fun n ha hb => ?_
    have kept {l : BankLetter} (e : (t.bank l).state.edition = some n) : (s.bank l).state.edition = some n := by
      rcases (banks l).edition with same | gone
      · rw [← same, e]
      · rw [gone] at e
        cases e
    exact State.editionsApart_iff.1 h n (kept (l := .a) ha) (kept (l := .b) hb)
  rising := rising
  pins hr h := by
    refine State.pinLaw_iff.2 fun l => State.pinnedBy_iff.2 ?_
    obtain ⟨count, carries⟩ := pins hr l (State.pinLaw_iff.1 h l)
    refine ⟨count, carries.elim .inl fun c => ?_⟩
    exact ((banks l).carries c).symm

/-- A pinner goes, or none, and its pin is released (R41). -/
theorem release (p : Option BankLetter) (rising : s.table.Rising → t.table.Rising)
    (banks : ∀ l, t.bank l = (s.released p).bank l)
    (count : s.table.Rising → ∀ l, t.pinners l + pinCount p l = s.pinners l) : s.KeepsTariff t := by
  refine of_stays (fun l => banks l ▸ s.released_stays p l) rising fun hr l h => ?_
  obtain ⟨pins, carries⟩ := State.pinnedBy_iff.1 h
  rw [banks, State.released_pins, pins, ← count hr l]
  refine ⟨by omega, carries.imp (fun zero => ?_) id⟩
  rw [pins, ← count hr l] at zero
  omega

/-- What the three laws look at stands as it did. -/
theorem frame (h : t.table = s.table ∧ t.units = s.units ∧ t.bankA = s.bankA ∧ t.bankB = s.bankB) :
    s.KeepsTariff t := by
  obtain ⟨table, units, bankA, bankB⟩ := h
  refine release none (by rw [table]; exact id) (fun l => ?_) fun _ l => ?_
  · cases l
    · exact bankA
    · exact bankB
  · exact State.pinners_congr (by rw [table]) (State.runsOn_congr units) l

/-- A pin is taken, on a bank that is ACTIVE or has a pinner (R41). -/
theorem take {l : BankLetter} (hl : s.table.Rising → (s.bank l).state.carriesPins = true ∨ 0 < s.pinners l)
    (rising : s.table.Rising → t.table.Rising) (banks : ∀ m, t.bank m = (s.takePin l).bank m)
    (count : s.table.Rising → ∀ m, t.pinners m = s.pinners m + pinCount (some l) m) : s.KeepsTariff t := by
  have same : t.bank l = { s.bank l with pins := (s.bank l).pins + 1 } := by
    rw [banks, State.takePin, State.bank_setBank]
  have other {m : BankLetter} (h : l ≠ m) : t.bank m = s.bank m := by
    rw [banks, State.takePin, State.bank_setBank_other _ _ _ _ h]
  refine of_stays (fun m => ?_) rising fun hr m h => ?_
  · by_cases hm : l = m
    · subst hm
      rw [same]
      exact .takePin _
    · rw [other hm]
      exact .refl _
  · obtain ⟨pins, carries⟩ := State.pinnedBy_iff.1 h
    rw [count hr m]
    by_cases hm : l = m
    · subst hm
      rw [same]
      refine ⟨by simp [pinCount, pins], .inr ((hl hr).elim id fun pos => carries.resolve_left ?_)⟩
      omega
    · rw [other hm]
      exact ⟨by simp [pinCount, hm, pins], carries⟩

/-- A bank is replaced. -/
theorem setBank {l : BankLetter} {b : Bank} (stays : (s.bank l).Stays b)
    (pins : b.pins = (s.bank l).pins ∨ (s.bank l).state.carriesPins = false ∧ b.pins = 0) :
    s.KeepsTariff (s.setBank l b) := by
  have count (m : BankLetter) : (s.setBank l b).pinners m = s.pinners m := by cases l <;> rfl
  refine of_stays (fun m => ?_) (by cases l <;> exact id) fun _ m h => ?_
  · by_cases hm : l = m
    · subst hm
      rwa [State.bank_setBank]
    · rw [State.bank_setBank_other _ _ _ _ hm]
      exact .refl _
  · obtain ⟨law, carries⟩ := State.pinnedBy_iff.1 h
    rw [count]
    by_cases hm : l = m
    · subst hm
      rw [State.bank_setBank]
      rcases pins with same | ⟨free, zero⟩
      · rw [same]
        exact ⟨law, carries⟩
      · rw [zero, ← law]
        have none_left := carries.resolve_right (by rw [free]; decide)
        exact ⟨none_left.symm, .inl rfl⟩
    · rw [State.bank_setBank_other _ _ _ _ hm]
      exact ⟨law, carries⟩

/-- A bank is replaced by one with its state and its pins. -/
theorem setAlike {l : BankLetter} {b : Bank} (hs : b.state = (s.bank l).state) (hp : b.pins = (s.bank l).pins) :
    s.KeepsTariff (s.setBank l b) := setBank (.alike hs hp) (.inl hp)

/-- A record is written with the pin of the one the slot held. -/
theorem rewrite {n : Nat} {r : Rec} (hp : r.body.pin = s.pinAt n) : s.KeepsTariff (s.putRecord n r) :=
  release none (fun h => State.putRecord_rising h n r) (fun l => by cases l <;> rfl)
    fun h l => State.putRecord_pinners_same h hp l

theorem answer (s : State) (l : Link) (a : Answer) : s.KeepsTariff (s.answer l a) := frame (by simp)

theorem setCtx (s : State) (p : PositionNo) (c : Context) : s.KeepsTariff (s.setCtx p c) := frame (by simp)

theorem judge (s : State) : s.KeepsTariff s.judge := frame (by simp)

theorem raise (s : State) (c : Cause) : s.KeepsTariff (s.raise c) := frame (by simp)

theorem report (s : State) (x : ReportSubject) (r : Reader) : s.KeepsTariff (s.report x r) := frame (by simp)

theorem answerRequester (s : State) (q : Requester) (a : Answer) : s.KeepsTariff (s.answerRequester q a) :=
  frame (by simp)

/-- A fold keeps the laws where each of its steps does. -/
theorem foldl {α : Type} {f : State → α → State} (hf : ∀ (s : State) x, s.KeepsTariff (f s x)) (l : List α)
    (s : State) : s.KeepsTariff (l.foldl f s) := by
  induction l generalizing s with
  | nil => exact refl s
  | cons x rest ih => exact (hf s x).trans (ih _)

end State.KeepsTariff

end Sys2Proof.Machine
end

section
/-! SUPPORT. The shared operations keep the laws of the tariff, of the editions and of the pins. -/
namespace Sys2Proof.Machine

variable {s t u : State}

theorem State.bank_congr (ha : t.bankA = s.bankA) (hb : t.bankB = s.bankB) (l : BankLetter) : t.bank l = s.bank l :=
  match l with
  | .a => ha
  | .b => hb

/-- What a chain of edits of the record table keeps. -/
theorem State.Edits.rising (h : s.Edits t) : s.table.Rising → t.table.Rising := by
  unfold State.Edits at h
  generalize s.table = first at h ⊢
  induction h using Relation.ReflTransGen.head_induction_on with
  | refl => exact id
  | head e _ ih => exact fun r => ih (e.rising r)

/-- A RETIRING bank whose grace has expired (R157); a bank in any other state stays. -/
def Bank.expired (b : Bank) : Bank :=
  match b.state with
  | .retiring ed _ => { b with state := .retiring ed .expired }
  | _ => b

/-- The grace expiry: the quotes lapse, the grace of the bank is over, the cause is raised if a quote has lapsed. -/
theorem State.expireGrace_eq (s : State) (l : BankLetter) : s.expireGrace l =
    let lapsed := lapseEach (ratedOn l s.table.records.cells) s
    let ended := lapsed.1.setBank l (lapsed.1.bank l).expired
    if lapsed.2 then ended.raise .quotesLapsed else ended := by
  unfold State.expireGrace Bank.expired
  generalize lapseEach (ratedOn l s.table.records.cells) s = lapsed
  dsimp only
  cases (lapsed.1.bank l).state <;> simp only [State.setBank_bank]

@[simp] theorem State.softResetPosition_bankA (s : State) (p : PositionNo) :
    (s.softResetPosition p).bankA = s.bankA := by
  unfold State.softResetPosition
  (repeat' split) <;> simp

@[simp] theorem State.softResetPosition_bankB (s : State) (p : PositionNo) :
    (s.softResetPosition p).bankB = s.bankB := by
  unfold State.softResetPosition
  (repeat' split) <;> simp

@[simp] theorem State.softResetDispatch_bankA (s : State) : s.softResetDispatch.bankA = s.bankA := by
  unfold State.softResetDispatch
  split <;> simp

@[simp] theorem State.softResetDispatch_bankB (s : State) : s.softResetDispatch.bankB = s.bankB := by
  unfold State.softResetDispatch
  split <;> simp

namespace State.KeepsTariff

/-! ### Marks and the queue -/

theorem markBusy (s : State) (n : Nat) (m : Bool) : s.KeepsTariff (s.markBusy n m) := by
  unfold State.markBusy
  split
  · rename_i r hr
    exact rewrite (State.pinAt_of_record hr).symm
  · exact refl s

theorem markQueued (s : State) (n : Nat) (m : Bool) : s.KeepsTariff (s.markQueued n m) := by
  unfold State.markQueued
  split
  · rename_i r hr
    exact rewrite (State.pinAt_of_record hr).symm
  · exact refl s

theorem join (s : State) (e : QueueEntry) : s.KeepsTariff (s.join e) :=
  trans (t := { s with queue := s.queue ++ [e] }) (frame ⟨rfl, rfl, rfl, rfl⟩) (markQueued _ _ _)

theorem removeEntryOf (s : State) (r : Requester) : s.KeepsTariff (s.removeEntryOf r) := by
  unfold State.removeEntryOf
  split
  · exact refl s
  · exact trans (t := { s with queue := s.queue.filter fun x => x.requester != r }) (frame ⟨rfl, rfl, rfl, rfl⟩)
      (markQueued _ _ _)

theorem dropEntryOn (s : State) (h : Handle) (a : Answer) : s.KeepsTariff (s.dropEntryOn h a) := frame (by simp)

/-! ### The end of a job (R72, R74) -/

/-- A unit becomes IDLE and the pin of its job is released. -/
theorem endUnit {v : UnitNo} {l : BankLetter} (hv : s.runsOn v = some l) (table : t.table = s.table)
    (units : t.units = (s.setUnit v none).units) (banks : ∀ m, t.bank m = (s.releasePin l).bank m) :
    s.KeepsTariff t := by
  refine release (some l) (by rw [table]; exact id) banks fun _ m => ?_
  have ended := s.setUnit_pinners v none m
  rw [hv] at ended
  rw [State.pinners_congr (s := s.setUnit v none) (by rw [table]; rfl) (State.runsOn_congr units)]
  exact ended

theorem endJobOn (s : State) (h : Handle) (a : Answer) : s.KeepsTariff (s.endJobOn h a) := by
  cases hv : s.unitOn h with
  | none =>
    rw [State.endJobOn_none _ _ _ hv]
    exact refl s
  | some v =>
    obtain ⟨j, hj, -⟩ := State.unitOn_some hv
    have ended : s.KeepsTariff (s.jobEnded v j) :=
      endUnit (State.runsOn_of_unit hj) (by simp [State.jobEnded]) (by simp [State.jobEnded])
        (State.releasePin_bank_congr (s := s) (t := s.setUnit v none) rfl rfl j.bank)
    rw [State.endJobOn_some a hv hj]
    split
    · exact ended
    · exact ended.trans (answerRequester _ _ _)

theorem endUnread (s : State) (h : Handle) (subject : ReportSubject) : s.KeepsTariff (s.endUnread h subject) := by
  unfold State.endUnread
  split
  · exact refl s
  · exact (endJobOn s h _).trans (markBusy _ _ _)

theorem endJob {v : UnitNo} {j : Job} (hv : s.runsOn v = some j.bank) : s.KeepsTariff (s.endJob v j) := by
  have ended : s.KeepsTariff ((s.releasePin j.bank).setUnit v none) :=
    endUnit hv (by simp) (by simp) fun m => by cases m <;> rfl
  have swapped : s.endJob v j = ((s.releasePin j.bank).setUnit v none).markBusy j.entry.handle.slot false := by
    simp only [State.endJob, State.markBusy, State.record, State.setUnit_table]
    split <;> rfl
  rw [swapped]
  exact ended.trans (markBusy _ _ _)

/-! ### Damage and reads (R17, R177) -/

/-- A record that pinned a bank or none is written without a pin, its own released. -/
theorem unpin {n : Nat} {r r' : Rec} (hr : s.record n = some r) (hp : r'.body.pin = none) :
    s.KeepsTariff ((s.putRecord n r').releaseBodyPin r.body) := by
  rw [State.releaseBodyPin_eq]
  have table : ((s.putRecord n r').released r.body.pin).table = (s.putRecord n r').table := by
    cases r.body.pin with
    | none => rfl
    | some l => exact State.releasePin_table _ l
  have units : ((s.putRecord n r').released r.body.pin).units = (s.putRecord n r').units := by
    cases r.body.pin with
    | none => rfl
    | some l => exact State.releasePin_units _ l
  refine release r.body.pin (fun h => by rw [table]; exact State.putRecord_rising h n r')
    (State.released_congr (fun l => by cases l <;> rfl) _) fun h l => ?_
  have written := State.putRecord_pinners h n r' l
  rw [hp, State.pinAt_of_record hr] at written
  rw [State.pinners_congr (by rw [table]) (State.runsOn_congr units)]
  exact written

theorem damageRecord {n : Nat} {r : Rec} (hr : s.record n = some r) (subject : ReportSubject) :
    s.KeepsTariff (s.damageRecord n r subject) := by
  by_cases hd : ∃ l, r.body = .damaged l
  · obtain ⟨l, hl⟩ := hd
    rw [s.damageRecord_damaged n r subject l hl]
    exact refl s
  · rw [State.damageRecord_eq fun l hl => hd ⟨l, hl⟩]
    exact (unpin hr rfl).trans ((endJobOn _ _ _).trans (dropEntryOn _ _ _))

theorem readAt {n : Nat} {r : Rec} (hr : s.record n = some r) (reader : Reader) :
    s.KeepsTariff (s.readAt reader n r).1 := by
  cases hs : r.sound
  · rw [s.readAt_failing reader n r hs]
    exact (damageRecord hr _).trans (report _ _ _)
  · rw [s.readAt_sound reader n r hs]
    exact refl s

theorem lookupHandle (s : State) (reader : Reader) (h : Handle) : s.KeepsTariff (s.lookupHandle reader h).1 := by
  unfold State.lookupHandle
  split
  · exact refl s
  · rename_i r hf
    exact readAt (State.record_of_find hf) reader

/-- An index entry is written. -/
theorem putIndex (s : State) (serial : Nat) (e : IndexEntry) : s.KeepsTariff (s.putIndex serial e) :=
  release none (fun h => ⟨h.1, risingKeys_insertCell _ _ _ h.2⟩) (fun l => by cases l <;> rfl) fun _ _ => rfl

/-- An index entry goes. -/
theorem eraseIndex (s : State) (serial : Nat) : s.KeepsTariff (s.eraseIndex serial) :=
  release none (fun h => ⟨h.1, risingKeys_eraseCell _ _ h.2⟩) (fun l => by cases l <;> rfl) fun _ _ => rfl

theorem failIndexEntry (s : State) (reader : Reader) (serial : Nat) (e : IndexEntry) :
    s.KeepsTariff (s.failIndexEntry reader serial e).1 := by
  have first := putIndex s serial { e with failed := true }
  simp only [State.failIndexEntry]
  split
  · exact first.trans (report _ _ _)
  · split
    · exact first.trans (report _ _ _)
    · rename_i r hr
      exact first.trans ((damageRecord hr _).trans (report _ _ _))

theorem lookupSerial (s : State) (reader : Reader) (serial : Nat) :
    s.KeepsTariff (s.lookupSerial reader serial).1 := by
  unfold State.lookupSerial
  split
  · exact refl s
  · split
    · exact refl s
    · split
      · split
        · exact refl s
        · rename_i r hr
          exact readAt hr reader
      · exact failIndexEntry s reader serial _

theorem lookupItems (s : State) (reader : Reader) (items : List Item) :
    s.KeepsTariff (s.lookupItems reader items).1 := by
  unfold State.lookupItems
  split
  · exact lookupHandle s reader _
  · split
    · exact lookupSerial s reader _
    · exact refl s

theorem readEach (reader : Reader) (l : List Nat) (s : State) : s.KeepsTariff (readEach reader l s) := by
  induction l generalizing s with
  | nil => exact refl s
  | cons n rest ih =>
    unfold Machine.readEach
    split
    · exact ih s
    · rename_i r hr
      exact (readAt hr reader).trans (ih _)

theorem readAll (s : State) (reader : Reader) : s.KeepsTariff (s.readAll reader) := readEach reader _ s

/-! ### Retirement, the return to DRAFT, the end of print -/

theorem retire {n : Nat} {r : Rec} (hr : s.record n = some r) : s.KeepsTariff (s.retire n r) := by
  have units : (s.retire n r).units = s.units := by simp
  refine release r.body.pin (State.retire_edits hr).rising (fun l => ?_) fun _ l => ?_
  · rw [State.retire_bank, State.releaseBodyPin_eq]
  · exact State.erase_pinners hr (by rw [State.retire_table]) units l

theorem toDraft {n : Nat} {r : Rec} (hr : s.record n = some r) (e : Entered) : s.KeepsTariff (s.toDraft n r e) :=
  unpin hr rfl

theorem unprint {n : Nat} {r : Rec} {q : Quote} (hr : s.record n = some r) (hb : r.body.pin = some q.bank)
    (e : Entered) (l : Label) : s.KeepsTariff (s.unprint n r e q l) := by
  have here : (s.eraseIndex l.serial).record n = some r := hr
  refine (eraseIndex s l.serial).trans ?_
  unfold State.unprint
  dsimp only
  split
  · exact toDraft here e
  · exact rewrite (hb.symm.trans (State.pinAt_of_record here).symm)

/-! ### The grace expiry and the switch (R157, R154) -/

theorem lapseEach (l : List Nat) (s : State) : s.KeepsTariff (lapseEach l s).1 := by
  induction l generalizing s with
  | nil => exact refl s
  | cons n rest ih =>
    unfold Machine.lapseEach
    split
    · exact ih s
    · rename_i r hr
      have read : s.KeepsTariff (s.readAt .graceExpiry n r).1 := readAt hr _
      split
      · rename_i t m q hf
        obtain ⟨rfl, rfl, rfl, -⟩ := State.readAt_found hf
        split
        · exact (toDraft hr _).trans (ih _)
        · exact ih _
      · rename_i t found hf
        rw [hf] at read
        exact read.trans (ih _)

theorem expired_stays (b : Bank) : b.Stays b.expired ∧ b.expired.pins = b.pins := by
  unfold Bank.expired
  split
  · rename_i hs
    refine ⟨⟨.inl (by rw [hs]; rfl), nofun, fun h => ?_, fun _ => .inl rfl⟩, rfl⟩
    simpa only [Bank.retiringPinned, hs] using h
  · exact ⟨.refl b, rfl⟩

theorem expireGrace (s : State) (l : BankLetter) : s.KeepsTariff (s.expireGrace l) := by
  have lapsed := lapseEach (ratedOn l s.table.records.cells) s
  have ended (v : State) : v.KeepsTariff (v.setBank l (v.bank l).expired) :=
    setBank (expired_stays _).1 (.inl (expired_stays _).2)
  rw [State.expireGrace_eq]
  dsimp only
  split
  · exact lapsed.trans ((ended _).trans (raise _ _))
  · exact lapsed.trans (ended _)

/-- The bank that is ACTIVE at a switch leaves office, with the pins it has (R154). -/
theorem retireOutgoing_bank (s : State) (l : BankLetter) (grace : Nat) :
    (s.bank l).Stays ((s.retireOutgoing l grace).bank l) ∧
      ((s.retireOutgoing l grace).bank l).state.isActive = false ∧
      ((s.retireOutgoing l grace).bank l).pins = (s.bank l).pins := by
  unfold State.retireOutgoing
  dsimp only
  split
  · rename_i ed hs
    split
    · rename_i hp
      rw [State.bank_setBank]
      exact ⟨⟨.inl (by rw [hs]; rfl), nofun, fun _ => by simpa [Bank.retiringPinned] using hp, fun _ => .inl rfl⟩,
        rfl, rfl⟩
    · rename_i hp
      rw [State.bank_setBank]
      exact ⟨⟨.inl (by rw [hs]; rfl), nofun, fun _ => rfl, fun _ => .inr (by simpa using hp)⟩, rfl, rfl⟩
  · rename_i hs
    refine ⟨.refl _, ?_, rfl⟩
    cases hb : (s.bank l).state with
    | active ed => exact absurd hb (hs ed)
    | _ => rfl

theorem retireOutgoing_bank_other (s : State) (l : BankLetter) (grace : Nat) :
    (s.retireOutgoing (otherBank l) grace).bank l = s.bank l := by
  have other : otherBank l ≠ l := (otherBank_ne l).symm
  unfold State.retireOutgoing
  dsimp only
  split
  · split <;> exact State.bank_setBank_other _ _ _ _ other
  · rfl

/-- A statement about both banks. -/
theorem forall_bank {p : BankLetter → Prop} (l : BankLetter) : (∀ m, p m) ↔ p l ∧ p (otherBank l) := by
  refine ⟨fun h => ⟨h _, h _⟩, fun h m => ?_⟩
  cases l <;> cases m <;> first | exact h.1 | exact h.2

/-- One bank comes to a state of its own, with the pins it had; the other stays. -/
theorem oneBank {l : BankLetter} (table : t.table = s.table) (units : t.units = s.units)
    (edition : ∀ n, (t.bank l).state.edition = some n →
      (s.bank l).state.edition = some n ∨ (s.bank (otherBank l)).state.edition ≠ some n)
    (lone : (t.bank l).state.isActive = true → (t.bank (otherBank l)).state.isActive = false)
    (pinned : (t.bank l).retiringPinned = true)
    (carries : (s.bank l).state.carriesPins = true → (t.bank l).state.carriesPins = true)
    (stays : (s.bank (otherBank l)).Stays (t.bank (otherBank l)))
    (pins : ∀ m, (t.bank m).pins = (s.bank m).pins) : s.KeepsTariff t := by
  have count (m : BankLetter) : t.pinners m = s.pinners m :=
    State.pinners_congr (by rw [table]) (State.runsOn_congr units) m
  refine ⟨fun h => ?_, fun h => ?_, by rw [table]; exact id, fun _ h => ?_⟩
  · obtain ⟨-, pinnedAll⟩ := State.tariffLaw_iff.1 h
    refine State.tariffLaw_iff.2 ⟨fun ⟨a, b⟩ => ?_, (forall_bank l).2 ⟨pinned, stays.pinned (pinnedAll _)⟩⟩
    cases l with
    | a => exact Bool.false_ne_true ((lone a).symm.trans b)
    | b => exact Bool.false_ne_true ((lone b).symm.trans a)
  · have apart (n : Nat) (own : (t.bank l).state.edition = some n)
        (other : (t.bank (otherBank l)).state.edition = some n) :
        (s.bank l).state.edition = some n ∧ (s.bank (otherBank l)).state.edition = some n := by
      rcases stays.edition with same | gone
      · rw [same] at other
        exact ⟨(edition n own).resolve_right fun differ => differ other, other⟩
      · rw [gone] at other
        cases other
    rw [State.editionsApart_iff] at h ⊢
    intro n a b
    cases l with
    | a => exact h n (apart n a b).1 (apart n a b).2
    | b => exact h n (apart n b a).2 (apart n b a).1
  · refine State.pinLaw_iff.2 fun m => State.pinnedBy_iff.2 ?_
    obtain ⟨law, held⟩ := State.pinnedBy_iff.1 (State.pinLaw_iff.1 h m)
    rw [count, pins]
    refine ⟨law, held.elim .inl fun c => ?_⟩
    have both : ∀ m, (s.bank m).state.carriesPins = true →
        (s.bank m).pins = 0 ∨ (t.bank m).state.carriesPins = true :=
      (forall_bank l).2 ⟨fun c => .inr (carries c), fun c => pins _ ▸ (stays.carries c).symm⟩
    exact both m c

/-- The SCHEDULED bank takes office and the outgoing bank leaves it (R154). -/
theorem takeOffice {l : BankLetter} {ed effective grace : Nat} (hs : (s.bank l).state = .scheduled ed effective grace) :
    s.KeepsTariff ((s.setBank l { s.bank l with state := .active ed }).retireOutgoing (otherBank l) grace) := by
  have before := State.bank_setBank_other s l _ { s.bank l with state := .active ed } (otherBank_ne l)
  obtain ⟨stays, idle, pins⟩ :=
    retireOutgoing_bank (s.setBank l { s.bank l with state := .active ed }) (otherBank l) grace
  rw [before] at stays pins
  refine oneBank (l := l) (by simp) (by simp) (fun n => ?_) (fun _ => idle) ?_ (fun _ => ?_) stays
    ((forall_bank l).2 ⟨?_, pins⟩)
  all_goals rw [retireOutgoing_bank_other, State.bank_setBank]
  · rw [hs]
    exact .inl
  · rfl
  · rfl

theorem takeSwitch (s : State) (l : BankLetter) : s.KeepsTariff (s.takeSwitch l) := by
  unfold State.takeSwitch
  split
  · rename_i ed effective grace hs
    have office := (takeOffice hs).trans (raise _ .switchTaken)
    dsimp only
    split
    · exact office.trans (expireGrace _ _)
    · exact office
  · exact refl s

theorem switchIfDue (s : State) : s.KeepsTariff s.switchIfDue := by
  unfold State.switchIfDue
  split
  · exact takeSwitch s _
  · exact refl s

/-! ### The reads of running jobs -/

theorem jobsReadOn (s : State) (l : BankLetter) (e : BankEntry) (own : Option UnitNo) :
    s.KeepsTariff (s.jobsReadOn l e own) := by
  refine release none (by simp) (s.jobsReadOn_bank l e own) fun _ m =>
    State.pinners_congr (by simp) (fun u => ?_) m
  obtain ⟨seen, hu⟩ := s.jobsReadOn_unit l e own u
  rw [State.runsOn, hu, Option.map_map]
  rfl

theorem failBankEntry (s : State) (l : BankLetter) (e : BankEntry) (reader : Reader) (own : Option UnitNo) :
    s.KeepsTariff (s.failBankEntry l e reader own) := by
  refine (jobsReadOn s l e own).trans (trans (setAlike ?_ ?_) (report _ _ _))
  · exact (Bank.damage_frame _ e).1
  · exact (Bank.damage_frame _ e).2.1

/-! ### The soft reset and the second (R197, R192) -/

theorem unscheduled (b : Bank) : b.Stays b.unscheduled ∧ b.unscheduled.pins = b.pins := by
  unfold Bank.unscheduled
  split
  · rename_i hs
    exact ⟨.unpinned (by rw [hs]; rfl) rfl (.inl (by rw [hs]; rfl)), rfl⟩
  · exact ⟨.refl b, rfl⟩

theorem beginDrain (s : State) : s.KeepsTariff s.beginDrain := by
  have positions : s.KeepsTariff ((List.finRange 24).foldl State.softResetPosition s) :=
    foldl (fun v p => frame (by simp)) _ s
  have dispatch (v : State) : v.KeepsTariff v.softResetDispatch := frame (by simp)
  have unmarked (v : State) : v.KeepsTariff (v.queue.foldl (fun t e => t.markQueued e.handle.slot false) v) :=
    foldl (fun v _ => markQueued v _ _) _ v
  have queue (v : State) : v.KeepsTariff v.softResetQueue := (unmarked v).trans (frame ⟨rfl, rfl, rfl, rfl⟩)
  have drained (v : State) : v.KeepsTariff
      { v with grantState := .draining, bankA := v.bankA.unscheduled, bankB := v.bankB.unscheduled } := by
    have a : v.KeepsTariff (v.setBank .a v.bankA.unscheduled) :=
      setBank (unscheduled v.bankA).1 (.inl (unscheduled v.bankA).2)
    have b (w : State) : w.KeepsTariff (w.setBank .b w.bankB.unscheduled) :=
      setBank (unscheduled w.bankB).1 (.inl (unscheduled w.bankB).2)
    exact a.trans ((b _).trans (frame ⟨rfl, rfl, rfl, rfl⟩))
  exact positions.trans ((dispatch _).trans ((queue _).trans (drained _)))

theorem endDrain (s : State) : s.KeepsTariff s.endDrain := frame (by simp [State.endDrain])

theorem tick_stays (b : Bank) : b.Stays b.tick ∧ b.tick.pins = b.pins := by
  unfold Bank.tick
  split
  · rename_i hs
    refine ⟨⟨.inl (by rw [hs]; rfl), nofun, fun h => ?_, fun _ => .inl rfl⟩, rfl⟩
    simpa only [Bank.retiringPinned, hs] using h
  · exact ⟨.refl b, rfl⟩

/-- A second leaves what a record pins. -/
theorem tick_pin (r : Rec) : r.tick.body.pin = r.body.pin := by
  unfold Rec.tick
  split
  · rename_i hb
    rw [hb]
    rfl
  · rfl

theorem tickRecords (s : State) : s.KeepsTariff
    { s with table := { s.table with records := s.table.records.mapValues Rec.tick } } := by
  refine release none (fun h => ⟨risingKeys_map _ _ h.1, h.2⟩) (fun l => by cases l <;> rfl) fun _ l => ?_
  simp only [State.pinners, Table.mapValues, List.countP_map, Function.comp_def, tick_pin, pinCount_none, Nat.add_zero]

theorem countDown (s : State) : s.KeepsTariff s.countDown := by
  unfold State.countDown
  split
  · exact refl s
  · have a (v : State) : v.KeepsTariff (v.setBank .a v.bankA.tick) :=
      setBank (tick_stays v.bankA).1 (.inl (tick_stays v.bankA).2)
    have b (v : State) : v.KeepsTariff (v.setBank .b v.bankB.tick) :=
      setBank (tick_stays v.bankB).1 (.inl (tick_stays v.bankB).2)
    exact (tickRecords s).trans ((a _).trans ((b _).trans (frame ⟨rfl, rfl, rfl, rfl⟩)))

/-- A hard reset empties the records, the units and the banks (R198). -/
theorem hardResetValues (s : State) (asserted : Bool) : s.KeepsTariff (s.hardResetValues asserted) :=
  ⟨fun _ => rfl, fun _ => rfl, fun _ => ⟨rfl, rfl⟩, fun _ _ => rfl⟩

end State.KeepsTariff

end Sys2Proof.Machine
end

section
/-! SUPPORT. Every command keeps the laws of the tariff, of the editions and of the pins: the path of a request, then
the commands on records and positions. -/
namespace Sys2Proof.Machine

/-- Wherever an outcome goes on, it has kept the three laws. -/
def State.KeepsTariffTo (s : State) (o : Outcome) : Prop := ∀ t, o = .next t → s.KeepsTariff t

variable {s t : State}

namespace State.KeepsTariffTo

theorem next (h : s.KeepsTariff t) : s.KeepsTariffTo (.next t) := by
  rintro _ ⟨⟩
  exact h

/-- What the laws look at stands as it did. -/
theorem frame (h : t.table = s.table ∧ t.units = s.units ∧ t.bankA = s.bankA ∧ t.bankB = s.bankB) :
    s.KeepsTariffTo (.next t) := next (.frame h)

theorem idle (s : State) : s.KeepsTariffTo (.next s) := next (.refl s)

theorem reply (h : s.KeepsTariff t) (l : Link) (a : Answer) : s.KeepsTariffTo (t.reply l a) :=
  next (h.trans (.answer t l a))

theorem finish (h : s.KeepsTariff t) (l : Link) (a : Answer) : s.KeepsTariffTo (t.finish l a) :=
  next (h.trans (.trans (.answer t l a) (.judge _)))

theorem judge (h : s.KeepsTariff t) : s.KeepsTariffTo (.next t.judge) := next (h.trans (.judge t))

/-- What keeps the laws may go first. -/
theorem after (h : s.KeepsTariff t) {o : Outcome} (ho : t.KeepsTariffTo o) : s.KeepsTariffTo o :=
  fun v hv => h.trans (ho v hv)

/-- So may it follow. -/
theorem andThen {o : Outcome} {f : State → State} (ho : s.KeepsTariffTo o) (hf : ∀ t : State, t.KeepsTariff (f t)) :
    s.KeepsTariffTo (andThen o f) := by
  intro t ht
  cases o with
  | next u =>
    cases ht
    exact (ho u rfl).trans (hf u)
  | fault r => cases ht
  | refused r => cases ht

end State.KeepsTariffTo

/-! ### The path of a request (R187, R183, R117, R80) -/

theorem request_keepsTariff {k : Kind} {h : Header} {ok : Bool} {body : State → Outcome}
    (hb : ∀ s : State, s.KeepsTariffTo (body s)) : s.KeepsTariffTo (request k h ok s body) := by
  intro t ht
  rcases request_cases ht with rfl | ⟨a, rfl⟩ | hn
  · exact .refl _
  · exact .frame (by simp)
  · exact State.KeepsTariffTo.after (.frame (by simp)) (hb _) t hn

theorem haltedRequest_keepsTariff {k : Kind} {h : Header} {ok : Bool} {body : State → Outcome}
    (hb : ∀ s : State, s.KeepsTariffTo (body s)) : s.KeepsTariffTo (haltedRequest k h ok s body) :=
  request_keepsTariff fun s => by
    split
    · exact .reply (.refl s) _ _
    · exact hb s

theorem positionRequest_keepsTariff {k : Kind} {h : Header} {ok : Bool}
    {body : PositionNo → Session → Option Reservation → State → Outcome}
    (hb : ∀ p session res (s : State), s.KeepsTariffTo (body p session res s)) :
    s.KeepsTariffTo (positionRequest k h ok s body) := by
  intro t ht
  rcases positionRequest_cases ht with rfl | ⟨a, rfl⟩ | ⟨l, a, rfl⟩ | ⟨p, session, res, -, -, hn⟩
  · exact .refl _
  · exact .frame (by simp)
  · exact .frame (by simp)
  · exact State.KeepsTariffTo.after (.frame (by simp)) (hb p session res _) t hn

theorem withRecord_keepsTariff {p : PositionNo} {items : List Item} {refusing : Rec → Bool}
    {body : Handle → Rec → State → Outcome}
    (hb : ∀ h r, s.record h.slot = some r → r.sound = true → s.KeepsTariffTo (body h r s)) :
    s.KeepsTariffTo (withRecord p items s refusing body) := by
  intro t ht
  rcases withRecord_cases ht with ⟨a, rfl⟩ | ⟨h, a, rfl⟩ | ⟨h, r, -, hf, -, -, hn⟩
  · exact .answer s _ a
  · exact (State.KeepsTariff.lookupHandle s _ h).trans (.trans (.answer _ _ a) (.judge _))
  · exact hb h r (State.record_of_find hf.1) hf.2 t hn

theorem atPosition_keepsTariff {k : Kind} {h : Header} {items : List Item} {body : PositionNo → State → Outcome}
    (hb : ∀ p (s : State), s.KeepsTariffTo (body p s)) : s.KeepsTariffTo (atPosition k h items s body) :=
  haltedRequest_keepsTariff fun s => by
    split
    · exact .reply (.refl s) _ _
    · exact hb _ s

theorem labelledBySerial_keepsTariff {l : Link} {serial : Nat} {refusing : Rec → Bool}
    {body : Nat → Rec → Entered → Quote → Label → Nat → Option ReweighPart → State → Outcome}
    (hb : ∀ n r e q lab adj rw (s : State), s.record n = some r → r.body = .labelled e q lab adj rw →
      s.KeepsTariffTo (body n r e q lab adj rw s)) : s.KeepsTariffTo (labelledBySerial l serial refusing s body) := by
  have read := State.KeepsTariff.lookupSerial s .dispatch serial
  unfold labelledBySerial
  split
  all_goals
    rename_i hl
    rw [hl] at read
    refine .after read ?_
  · exact .reply (.refl _) _ _
  · exact .finish (.refl _) _ _
  · obtain ⟨rfl, hr, -⟩ := State.lookupSerial_found hl
    split
    · exact .reply (.refl _) _ _
    · split
      · exact .reply (.refl _) _ _
      · exact .reply (.refl _) _ _
      · exact .reply (.refl _) _ _
      · exact hb _ _ _ _ _ _ _ _ hr ‹_›
      · exact .reply (.refl _) _ _
      · exact .reply (.refl _) _ _

theorem heldRecord_keepsTariff {l : Link} {items : List Item}
    {body : Nat → Rec → Entered → Quote → Label → Nat → ReweighPart → State → Outcome}
    (hb : ∀ n r e q lab adj rw reason (s : State), s.record n = some r → r.body = .held e q lab adj rw reason →
      s.KeepsTariffTo (body n r e q lab adj rw s)) : s.KeepsTariffTo (heldRecord l items s body) := by
  have read := State.KeepsTariff.lookupItems s .supervisor items
  unfold heldRecord
  split
  all_goals
    rename_i hl
    rw [hl] at read
    refine .after read ?_
  · exact .reply (.refl _) _ _
  · exact .finish (.refl _) _ _
  · obtain ⟨rfl, hr, -⟩ := State.lookupItems_found hl
    split
    · exact .reply (.refl _) _ _
    · split
      · exact .reply (.refl _) _ _
      · exact hb _ _ _ _ _ _ _ _ _ hr ‹_›
      · exact .reply (.refl _) _ _

/-! ### Acceptance (05) -/

/-- A record is written that pins what the record found in the slot pins. -/
theorem State.KeepsTariff.change {n : Nat} {r r' : Rec} (hr : s.record n = some r) (hp : r'.body.pin = r.body.pin) :
    s.KeepsTariff (s.putRecord n r') := .rewrite (hp.trans (State.pinAt_of_record hr).symm)

theorem execNewParcel_keepsTariff (h : Header) (items : List Item) : s.KeepsTariffTo (execNewParcel h items s) :=
  positionRequest_keepsTariff fun p _ _ s => by
    have read := State.KeepsTariff.readAll s (.position p)
    dsimp only
    split
    · exact .finish read _ _
    · split
      · exact .finish read _ _
      · rename_i n hn
        refine .finish (read.trans (.rewrite ?_)) _ _
        rw [State.pinAt, State.record, Table.get_of_lowestFree _ hn]
        rfl

theorem execSetAttributes_keepsTariff (h : Header) (items : List Item) :
    s.KeepsTariffTo (execSetAttributes h items s) :=
  positionRequest_keepsTariff fun p _ _ s => withRecord_keepsTariff fun hd r hr _ => by
    split
    · exact .reply (.refl s) _ _
    · split
      · exact .reply (.refl s) _ _
      · split
        · exact .reply (.refl s) _ _
        · split
          · exact .reply (.refl s) _ _
          · split
            · exact .reply (.refl s) _ _
            · exact .finish (.toDraft hr _) _ _

theorem rateRequest_keepsTariff (p : PositionNo) (session : Session) (res : Option Reservation) (eg : Nat) (tag : Tag)
    (items : List Item) : s.KeepsTariffTo (rateRequest p session res eg tag items s) :=
  withRecord_keepsTariff fun hd r hr _ => by
    split
    · exact .reply (.refl s) _ _
    · split
      · exact .reply (.refl s) _ _
      · rename_i e _
        split
        · exact .reply (.refl s) _ _
        · split
          · exact .reply (.refl s) _ _
          · dsimp only
            refine .judge (.trans ?_ (.trans (.join _ _) (.setCtx _ _ _)))
            split
            · exact .toDraft hr e
            · exact .refl s

theorem commitRequest_keepsTariff (p : PositionNo) (session : Session) (eg : Nat) (tag : Tag) (items : List Item) :
    s.KeepsTariffTo (commitRequest p session eg tag items s) :=
  withRecord_keepsTariff fun hd r hr _ => by
    split
    · exact .reply (.refl s) _ _
    · split
      · rename_i e q hb
        dsimp only
        split
        · split
          · rename_i entry _
            have failed := State.KeepsTariff.failBankEntry s q.bank entry (.position p) none
            exact .finish (failed.trans (.toDraft (by simpa [State.record] using hr) e)) _ _
          · exact .finish (.toDraft hr e) _ _
        · split
          · exact .frame (by simp)
          · split
            · exact .reply (.refl s) _ _
            · rename_i serial pool _
              split
              · rename_i z _
                have drawn : s.KeepsTariff { s with pool := pool } := .frame ⟨rfl, rfl, rfl, rfl⟩
                refine .finish (drawn.trans (.trans (.putIndex _ serial ⟨hd.slot, false, true⟩) ?_)) _ _
                exact .change hr (by rw [hb]; rfl)
              · exact .finish (.failBankEntry s _ _ _ _) _ _
              · split
                · exact .reply (.refl s) _ _
                · exact .reply (.refl s) _ _
      · exact .reply (.refl s) _ _

theorem execPrinted_keepsTariff (h : Header) (items : List Item) : s.KeepsTariffTo (execPrinted h items s) :=
  positionRequest_keepsTariff fun p _ _ s => withRecord_keepsTariff fun hd r hr _ => by
    split
    · exact .reply (.refl s) _ _
    · split
      · rename_i e q l d hb
        split
        · have unpinned := State.KeepsTariff.unpin (r' := r.change (.labelled e q l 0 none)) hr rfl
          rw [State.releaseBodyPin_eq, show r.body.pin = some q.bank by rw [hb]; rfl] at unpinned
          exact .finish unpinned _ _
        · exact .reply (.refl s) _ _
      · exact .reply (.refl s) _ _

theorem execSpoilt_keepsTariff (h : Header) (items : List Item) : s.KeepsTariffTo (execSpoilt h items s) :=
  positionRequest_keepsTariff fun p _ _ s => withRecord_keepsTariff fun hd r hr _ => by
    split
    · exact .reply (.refl s) _ _
    · split
      · rename_i hb
        split
        · exact .finish (.unprint hr (by rw [hb]; rfl) _ _) _ _
        · exact .reply (.refl s) _ _
      · exact .reply (.refl s) _ _

theorem execPrintDeadlineExpiry_keepsTariff (n : Nat) : s.KeepsTariffTo (execPrintDeadlineExpiry n s) := by
  unfold execPrintDeadlineExpiry
  split
  · exact .idle s
  · split
    · exact .idle s
    · rename_i r hr
      split
      · have read := State.KeepsTariff.readAt hr .printDeadline
        split
        · rename_i u m q hf
          obtain ⟨rfl, rfl, rfl, -⟩ := State.readAt_found hf
          split
          · rename_i hb
            exact .judge (.unprint hr (by rw [hb]; rfl) _ _)
          · exact .idle _
        · rename_i hf
          rw [hf] at read
          exact .judge read
      · exact .idle s

/-! ### Shared records (06) -/

theorem execQuery_keepsTariff (h : Header) (items : List Item) : s.KeepsTariffTo (execQuery h items s) :=
  positionRequest_keepsTariff fun p session _ s => by
    have read := State.KeepsTariff.lookupItems s (.position p) items
    split <;> rename_i hl <;> rw [hl] at read
    · exact .reply read _ _
    · exact .finish read _ _
    · dsimp only
      split
      · exact .reply (read.trans (.setCtx _ _ _)) _ _
      · exact .reply read _ _

theorem execQuerySupervisor_keepsTariff (h : Header) (items : List Item) :
    s.KeepsTariffTo (execQuerySupervisor h items s) :=
  haltedRequest_keepsTariff fun s => by
    have read := State.KeepsTariff.lookupItems s .supervisor items
    split <;> rename_i hl <;> rw [hl] at read
    · exact .reply read _ _
    · exact .finish read _ _
    · exact .reply read _ _

theorem amendRequest_keepsTariff (p : PositionNo) (session : Session) (presented : Option Reservation) (eg : Nat)
    (tag : Tag) (items : List Item) : s.KeepsTariffTo (amendRequest p session presented eg tag items s) :=
  withRecord_keepsTariff fun hd r _ _ => by
    have lost := State.KeepsTariff.setCtx s p (.opened session none)
    dsimp only
    split
    · exact .reply lost _ _
    · split
      · split
        · exact .reply lost _ _
        · split
          · exact .reply lost _ _
          · split
            · exact .reply lost _ _
            · split
              · exact .frame (by simp)
              · split
                · exact .reply lost _ _
                · exact .judge (lost.trans (.trans (.join _ _) (.setCtx _ _ _)))
      · exact .reply lost _ _

theorem execTakeOver_keepsTariff (h : Header) (items : List Item) : s.KeepsTariffTo (execTakeOver h items s) :=
  positionRequest_keepsTariff fun p session res s => withRecord_keepsTariff fun hd r hr sound => by
    have lost := State.KeepsTariff.setCtx s p (.opened session none)
    dsimp only
    split
    · exact .reply lost _ _
    · split
      · exact .reply lost _ _
      · split
        · exact .reply lost _ _
        · have read := lost.trans (.readAll _ (.position p))
          split
          · exact .finish read _ _
          · have here := State.readAll_record_sound (s.setCtx p (.opened session none)) (.position p) sound hr
            exact .finish (read.trans (.change (r' := { r.change r.body with owner := p }) here rfl)) _ _

theorem voidRequest_keepsTariff (p : PositionNo) (session : Session) (presented : Option Reservation) (eg : Nat)
    (tag : Tag) (items : List Item) : s.KeepsTariffTo (voidRequest p session presented eg tag items s) :=
  withRecord_keepsTariff fun hd r hr _ => by
    split
    · have lost := State.KeepsTariff.setCtx s p (.opened session none)
      dsimp only
      split
      · exact .reply lost _ _
      · split
        · exact .frame (by simp)
        · exact .finish (lost.trans (.retire hr)) _ _
    · exact .reply (.refl s) _ _
    · split
      · exact .reply (.refl s) _ _
      · exact .finish (.retire hr) _ _

theorem execVoidSupervisor_keepsTariff (h : Header) (items : List Item) :
    s.KeepsTariffTo (execVoidSupervisor h items s) :=
  haltedRequest_keepsTariff fun s => by
    have read := State.KeepsTariff.lookupItems s .supervisor items
    split <;> rename_i hl <;> rw [hl] at read
    · exact .reply read _ _
    · exact .finish read _ _
    · obtain ⟨rfl, hr, -⟩ := State.lookupItems_found hl
      split
      · exact .reply read _ _
      · exact .finish (.retire hr) _ _

/-! ### The dispatch line (10) -/

theorem reweighLabelled_keepsTariff {l : Link} {serial mass : Nat} {sides : Sides} {bank : BankLetter} {n : Nat}
    {r : Rec} {e : Entered} {q : Quote} {lab : Label} {adj : Nat} (hr : s.record n = some r) (hp : r.body.pin = none) :
    s.KeepsTariffTo (reweighLabelled l serial mass sides bank n r e q lab adj s) := by
  unfold reweighLabelled
  dsimp only
  split
  · refine .finish (.change hr ?_) _ _
    exact hp.symm
  · split
    · exact .reply (.refl s) _ _
    · exact .judge (.trans (t := { s with pendingReweigh := some _ }) (.frame ⟨rfl, rfl, rfl, rfl⟩) (.join _ _))

theorem execReweigh_keepsTariff (h : Header) (items : List Item) : s.KeepsTariffTo (execReweigh h items s) :=
  haltedRequest_keepsTariff fun s => by
    split
    · split
      · exact .reply (.refl s) _ _
      · exact labelledBySerial_keepsTariff fun _ _ _ _ _ _ _ _ hr hb =>
          reweighLabelled_keepsTariff hr (by rw [hb]; rfl)
    · exact .reply (.refl s) _ _

theorem execHandover_keepsTariff (h : Header) (items : List Item) : s.KeepsTariffTo (execHandover h items s) :=
  haltedRequest_keepsTariff fun s => by
    split
    · exact .reply (.refl s) _ _
    · exact labelledBySerial_keepsTariff fun _ _ _ _ _ _ _ _ hr _ => .finish (.retire hr) _ _

theorem execSettleAccept_keepsTariff (h : Header) (items : List Item) : s.KeepsTariffTo (execSettleAccept h items s) :=
  haltedRequest_keepsTariff fun _ => heldRecord_keepsTariff fun _ _ _ _ _ _ _ _ _ hr hb =>
    .finish (.change hr (by rw [hb]; rfl)) _ _

theorem execSettleVoid_keepsTariff (h : Header) (items : List Item) : s.KeepsTariffTo (execSettleVoid h items s) :=
  haltedRequest_keepsTariff fun _ => heldRecord_keepsTariff fun _ _ _ _ _ _ _ _ _ hr _ => .finish (.retire hr) _ _

/-! ### Label numbers and positions (08, 07) -/

theorem execLoadBlock_keepsTariff (h : Header) (items : List Item) : s.KeepsTariffTo (execLoadBlock h items s) :=
  haltedRequest_keepsTariff fun s => by
    split
    · unfold loadBlock
      dsimp only
      split
      · exact .reply (.refl s) _ _
      · split
        · exact .reply (.refl s) _ _
        · split
          · exact .reply (.refl s) _ _
          · split
            · exact .reply (.refl s) _ _
            · exact .finish (.failIndexEntry s _ _ _) _ _
            · exact .frame (by simp)
    · exact .reply (.refl s) _ _

theorem execClosePosition_keepsTariff (h : Header) (items : List Item) :
    s.KeepsTariffTo (execClosePosition h items s) :=
  atPosition_keepsTariff fun p s => by
    split
    · exact .reply (.refl s) _ _
    · have read := State.KeepsTariff.readAll s .supervisor
      dsimp only
      split
      · exact .finish read _ _
      · exact .finish (read.trans (.setCtx _ _ _)) _ _
    · exact .reply (.refl s) _ _

/-- A job that is discarded runs on (R73). -/
theorem State.KeepsTariff.discardJobOf (s : State) (r : Requester) : s.KeepsTariff (s.discardJobOf r) := by
  unfold State.discardJobOf
  split
  · exact .refl s
  · rename_i v _
    refine .release none (by simp) (fun l => by cases l <;> simp [State.released, State.bank]) fun _ l => ?_
    refine State.pinners_congr (by simp) (fun w => ?_) l
    by_cases h : v = w
    · subst h
      rw [State.runsOn, State.unit_setUnit, Option.map_map]
      rfl
    · rw [State.runsOn, State.unit_setUnit_other _ _ _ _ h]
      rfl

theorem execResetPosition_keepsTariff (h : Header) (items : List Item) :
    s.KeepsTariffTo (execResetPosition h items s) :=
  atPosition_keepsTariff fun p s => by
    split
    · exact .reply (.refl s) _ _
    · have gone := (State.KeepsTariff.removeEntryOf s (.position p)).trans (.discardJobOf _ (.position p))
      exact .finish (gone.trans (.trans (.answer _ _ _) (.setCtx _ _ _))) _ _

theorem reexecute_keepsTariff (p : PositionNo) (session : Session) (g : Nat) (request : HeldRequest) :
    s.KeepsTariffTo (reexecute p session g request s) := by
  unfold reexecute
  split
  · exact rateRequest_keepsTariff _ _ _ _ _ _
  · exact commitRequest_keepsTariff _ _ _ _ _
  · exact amendRequest_keepsTariff _ _ _ _ _ _
  · exact voidRequest_keepsTariff _ _ _ _ _ _

theorem execGrant_keepsTariff (h : Header) (items : List Item) : s.KeepsTariffTo (execGrant h items s) :=
  atPosition_keepsTariff fun p s => by
    split
    · exact .reply (.refl s) _ _
    · split
      · exact .reply (.refl s) _ _
      · split
        · exact .reply (.refl s) _ _
        · exact .andThen (.after (.setCtx s p _) (reexecute_keepsTariff _ _ _ _))
            fun t => .trans (.answer t _ _) (.judge _)
      · exact .reply (.refl s) _ _

theorem cancelAt_keepsTariff (h : Header) (p : PositionNo) : s.KeepsTariffTo (cancelAt h p s) := by
  unfold cancelAt
  dsimp only
  split
  · exact .frame (by simp)
  · exact .frame (by simp)
  · exact .frame (by simp)
  · exact .frame (by simp)
  · split
    · exact .frame (by simp)
    · exact .next ((State.KeepsTariff.removeEntryOf s (.position p)).trans (.frame (by simp)))

theorem execCancel_keepsTariff (h : Header) (items : List Item) : s.KeepsTariffTo (execCancel h items s) := by
  unfold execCancel
  split
  · exact .idle s
  · split
    · exact .frame (by simp)
    · split
      · exact .frame (by simp)
      · split
        · exact cancelAt_keepsTariff h _
        · exact .frame (by simp)

theorem execOpenPosition_keepsTariff (h : Header) (items : List Item) : s.KeepsTariffTo (execOpenPosition h items s) :=
  atPosition_keepsTariff fun p s => by (repeat' split) <;> exact .frame (by simp)

theorem execDeny_keepsTariff (h : Header) (items : List Item) : s.KeepsTariffTo (execDeny h items s) :=
  atPosition_keepsTariff fun p s => by (repeat' split) <;> exact .frame (by simp)

theorem execSuspend_keepsTariff (h : Header) (items : List Item) : s.KeepsTariffTo (execSuspend h items s) :=
  atPosition_keepsTariff fun p s => by (repeat' split) <;> exact .frame (by simp)

theorem execResume_keepsTariff (h : Header) (items : List Item) : s.KeepsTariffTo (execResume h items s) :=
  atPosition_keepsTariff fun p s => by (repeat' split) <;> exact .frame (by simp)

theorem execEscalationTimeout_keepsTariff (p : PositionNo) : s.KeepsTariffTo (execEscalationTimeout p s) := by
  unfold execEscalationTimeout
  (repeat' split) <;> exact .frame (by simp)

end Sys2Proof.Machine
end

section
/-! SUPPORT. Every command keeps the laws of the tariff, of the editions and of the pins: jobs, the tariff, the hall,
and the step. -/
namespace Sys2Proof.Machine

variable {s t : State}

/-! ### Jobs (04) -/

theorem dropEntry_keepsTariff (e : QueueEntry) (a : Answer) (s : State) : s.KeepsTariff (dropEntry e a s) :=
  (State.KeepsTariff.removeEntryOf s e.requester).trans (.trans (.answerRequester _ _ _) (.judge _))

/-- A unit that is IDLE gets a job on a bank in office, its record is marked and the bank takes a pin (R71). -/
theorem State.KeepsTariff.startJob {v : UnitNo} {j : Job} {n : Nat} {r r' : Rec} (hv : s.unit v = none)
    (hl : (s.bank j.bank).state.carriesPins = true) (hr : s.record n = some r) (hp : r'.body.pin = r.body.pin) :
    s.KeepsTariff (((s.setUnit v (some j)).putRecord n r').takePin j.bank) := by
  have rising (h : s.table.Rising) : ((s.setUnit v (some j)).putRecord n r').table.Rising :=
    State.putRecord_rising h n r'
  refine .take (fun _ => .inl hl) (fun h => ?_) (fun m => by cases hb : j.bank <;> cases m <;> rfl) fun h m => ?_
  · rw [State.takePin_table]
    exact rising h
  · have same := State.putRecord_pinners_same (s := s.setUnit v (some j)) (r := r') h
      (hp.trans (State.pinAt_of_record (s := s.setUnit v (some j)) hr).symm) m
    have ran := s.setUnit_pinners v (some j) m
    rw [State.runsOn, hv] at ran
    rw [State.pinners_congr (s := (s.setUnit v (some j)).putRecord n r') (by rw [State.takePin_table])
      (State.runsOn_congr (State.takePin_units _ _)), same]
    exact ran

theorem grantEntry_keepsTariff {e : QueueEntry} {v : UnitNo} {l : BankLetter} {r : Rec} (edition : Nat)
    (values : JobValues) (hv : s.unit v = none) (hl : (s.bank l).state.carriesPins = true)
    (hf : s.find e.handle = some r) : s.KeepsTariff (grantEntry e v l edition values r s) := by
  have queued : s.KeepsTariff { s with queue := s.queue.filter fun x => x.requester != e.requester } :=
    .frame ⟨rfl, rfl, rfl, rfl⟩
  have bank : (State.bank { s with queue := s.queue.filter fun x => x.requester != e.requester } l) = s.bank l := by
    cases l <;> rfl
  have granted : s.KeepsTariff (s.granted e v l edition values r) :=
    queued.trans (.startJob hv (by rw [bank]; exact hl) (State.record_of_find hf) rfl)
  cases hr : r.sound with
  | true =>
    rw [grantEntry_sound s edition values hr]
    exact granted.trans (.judge _)
  | false =>
    rw [grantEntry_failing s edition values hf hr]
    have damaged := granted.trans (.damageRecord (s.granted_record edition values) (.record e.handle))
    exact damaged.trans (.trans (.report _ _ _) (.trans (.endUnread _ _ _) (.judge _)))

/-- The bank an entry is granted against is ACTIVE. -/
theorem State.carriesPins_of_activeBank {l : BankLetter} (h : s.activeBank = some l) :
    (s.bank l).state.carriesPins = true := by
  have active {b : BankState} (h : b.isActive = true) : b.carriesPins = true := by cases b <;> first | rfl | cases h
  unfold State.activeBank at h
  split at h
  · cases h
    exact active ‹_›
  · split at h
    · cases h
      exact active ‹_›
    · cases h

theorem execGrantOfJob_keepsTariff : s.KeepsTariffTo (execGrantOfJob s) := by
  unfold execGrantOfJob
  split
  · exact .idle s
  · split
    · rename_i v e hv _
      split
      · exact .idle s
      · rename_i l hl
        split
        · exact .next (dropEntry_keepsTariff _ _ s)
        · rename_i r hf
          split
          · exact .next (dropEntry_keepsTariff _ _ s)
          · exact .next (grantEntry_keepsTariff _ _ (State.unit_of_idleUnit hv) (State.carriesPins_of_activeBank hl) hf)
    · exact .idle s

/-! ### The end of a procedure (R47, R65, R72) -/

/-- A quote names the bank it was rated on (R59). -/
theorem rateParcelAt_bank {view : Nat → Bank} {letter : BankLetter} {edition eg : Nat} {v : ParcelValues} {q : Quote}
    (h : rateParcelAt view letter edition v eg = .ok q) : q.bank = letter := by
  unfold rateParcelAt at h
  obtain ⟨p, -, h⟩ := bind_eq_ok_iff.1 h
  obtain ⟨sel, -, h⟩ := bind_eq_ok_iff.1 h
  obtain ⟨f, -, h⟩ := bind_eq_ok_iff.1 h
  dsimp only at h
  split at h
  · obtain ⟨_, stop, -⟩ := bind_eq_ok_iff.1 h
    cases stop
  · split at h
    · cases h
    · obtain ⟨z, -, h⟩ := bind_eq_ok_iff.1 h
      obtain ⟨band, -, h⟩ := bind_eq_ok_iff.1 h
      obtain ⟨listed, -, h⟩ := bind_eq_ok_iff.1 h
      obtain ⟨added, -, h⟩ := bind_eq_ok_iff.1 h
      obtain ⟨total, -, h⟩ := bind_eq_ok_iff.1 h
      cases h
      rfl

/-- The quote of a job's procedure names the job's bank. -/
theorem Job.procedure_quote_bank {j : Job} {b : Bank} {q : Quote} (h : j.procedure b = .ok (.quote q)) :
    q.bank = j.bank := by
  unfold Job.procedure Job.procedureAt at h
  split at h
  · cases hx : rateParcelAt (j.view b) j.bank j.edition _ j.entry.eg with
    | error stop =>
      rw [hx] at h
      cases h
    | ok q' =>
      rw [hx] at h
      cases h
      exact rateParcelAt_bank hx
  · cases hx : rateAddedOptionAt (j.view b) _ j.entry.eg <;> rw [hx] at h <;> cases h

/-- What the end of a procedure leaves of its unit: the job runs on, on the same bank (R65). -/
theorem State.runsOn_runJob {v : UnitNo} {j : Job} (hv : s.unit v = some j) :
    (s.runJob v j).1.runsOn v = some j.bank := by
  have here := State.runsOn_of_unit hv
  unfold State.runJob
  split
  · exact here
  · split
    · exact here
    · exact here
    · rename_i e f _
      exact State.runsOn_of_unit (j := { j with found := some f }) (s.jobReadFails_unit e f)

/-- The quote a procedure hands on names the job's bank. -/
theorem runJob_quote_bank {v : UnitNo} {j : Job} {q : Quote} (h : s.runJob v j = (t, some (.quote q))) :
    q.bank = j.bank := by
  unfold State.runJob at h
  split at h
  · cases h
  · split at h
    · rename_i hp
      cases h
      exact Job.procedure_quote_bank hp
    · cases h
    · obtain ⟨-, handed⟩ := Prod.mk.inj h
      split at handed <;> cases handed

theorem State.KeepsTariff.jobReadFails {v : UnitNo} {j : Job} (hv : s.unit v = some j) (e : BankEntry)
    (f : FaultReport) : s.KeepsTariff (s.jobReadFails v j e f) := by
  have failed := State.KeepsTariff.failBankEntry s j.bank e (.unit v) (some v)
  refine failed.trans (.release none (by simp) (fun l => by cases l <;> rfl) fun _ l => ?_)
  have own : (s.failBankEntry j.bank e (.unit v) (some v)).unit v = some j := by
    rw [State.failBankEntry_unit]
    exact jobsReadOn_keeps s j.bank e (some v) hv (.inr (.inl rfl))
  have ran := (s.failBankEntry j.bank e (.unit v) (some v)).setUnit_pinners v (some { j with found := some f }) l
  rw [State.runsOn, own] at ran
  exact Nat.add_right_cancel ran

theorem State.KeepsTariff.runJob {v : UnitNo} {j : Job} (hv : s.unit v = some j) :
    s.KeepsTariff (s.runJob v j).1 := by
  unfold State.runJob
  split
  · exact .refl s
  · split
    · exact .refl s
    · exact .refl s
    · exact .jobReadFails hv _ _

section
variable {v : UnitNo} {j : Job}

theorem finishJob_keepsTariff (hv : s.runsOn v = some j.bank) (a : Answer) : s.KeepsTariffTo (s.finishJob v j a) :=
  .judge (.trans (.endJob hv) (.answerRequester _ _ a))

theorem positionFault_keepsTariff (hv : s.runsOn v = some j.bank) (f : FaultReport) :
    s.KeepsTariffTo (positionFault v j f s) := by
  unfold positionFault
  split
  · exact finishJob_keepsTariff hv _
  · split
    · split
      · exact finishJob_keepsTariff hv _
      · split
        · exact finishJob_keepsTariff hv _
        · exact .judge (.trans (.endJob hv) (.frame (by simp)))
    · exact finishJob_keepsTariff hv _

/-- A record that pinned none is written with a quote of a bank that has a pinner, and the bank takes a pin (R12). -/
theorem State.KeepsTariff.pinRecord {n : Nat} {r r' : Rec} {l : BankLetter} (hr : s.record n = some r)
    (hn : r.body.pin = none) (hp : r'.body.pin = some l) (hv : s.runsOn v = some l) :
    s.KeepsTariff ((s.putRecord n r').takePin l) := by
  have busy : 0 < s.pinners l := by
    have := s.setUnit_pinners v none l
    rw [hv] at this
    simp [pinCount] at this
    omega
  refine .take (fun _ => .inr busy) (fun h => ?_) (fun m => by cases l <;> cases m <;> rfl) fun h m => ?_
  · rw [State.takePin_table]
    exact State.putRecord_rising h n r'
  · have written := State.putRecord_pinners h n r' m
    rw [State.pinAt_of_record hr, hn, hp] at written
    rw [State.pinners_congr (by rw [State.takePin_table]) (State.runsOn_congr (State.takePin_units _ l))]
    exact written

theorem storeQuote_keepsTariff {r : Rec} {e : Entered} {q : Quote} (hr : s.record j.entry.handle.slot = some r)
    (hb : r.body = .draft e) (hv : s.runsOn v = some j.bank) (hq : q.bank = j.bank) :
    s.KeepsTariff (storeQuote v j r e q s) := by
  have unpinned : r.body.pin = none := by rw [hb]; rfl
  unfold storeQuote
  dsimp only
  split
  · have put : s.KeepsTariff (s.putRecord j.entry.handle.slot (r.change (.draft e))) := .change hr unpinned.symm
    refine put.trans (.trans (.endJob ?_) (.trans (.raise _ _) (.trans (.answerRequester _ _ _) (.judge _))))
    exact hv
  · have put : s.KeepsTariff ((s.putRecord j.entry.handle.slot (r.change (.rated e q))).takePin q.bank) :=
      .pinRecord hr unpinned rfl (by rw [hv, hq])
    refine put.trans (.trans (.endJob ?_) (.trans (.answerRequester _ _ _) (.judge _)))
    rw [State.runsOn_congr (s := s) (by simp)]
    exact hv

theorem addOption_keepsTariff {r : Rec} {e : Entered} {q : Quote} {l : Label} {adj : Nat} {rw : Option ReweighPart}
    (line : Option Line) (hr : s.record j.entry.handle.slot = some r) (hb : r.body = .labelled e q l adj rw)
    (hv : s.runsOn v = some j.bank) : s.KeepsTariff (addOption v j r e q l adj rw line s) := by
  unfold addOption
  extract_lets code amount e' q' r'
  have put : s.KeepsTariff (s.putRecord j.entry.handle.slot r') := .change hr (by rw [hb]; rfl)
  refine put.trans (.trans (.endJob ?_) (.trans (.answerRequester _ _ _) (.judge _)))
  exact hv

end

/-- A completion hands on what its job's procedure has left, to an application that keeps the laws. -/
theorem completion_keepsTariff {v : UnitNo} {kind : JobKind → Bool}
    {apply : Job → Rec → JobResult → State → Outcome}
    (ha : ∀ j r result (s : State), s.runsOn v = some j.bank → s.record j.entry.handle.slot = some r →
      (∀ q, result = .quote q → q.bank = j.bank) → s.KeepsTariffTo (apply j r result s)) :
    s.KeepsTariffTo (completion v kind s apply) := by
  unfold completion
  split
  · exact .idle s
  · split
    · exact .idle s
    · rename_i j hv
      split
      · exact .idle s
      · have run := State.KeepsTariff.runJob hv
        have runs := State.runsOn_runJob hv
        split <;> rename_i hrun <;> rw [hrun] at run runs
        · exact .judge run
        · split
          · exact .after run (finishJob_keepsTariff runs _)
          · rename_i r hf
            have hr := State.record_of_find hf
            have read := run.trans (.readAt hr (.unit v))
            split <;> rename_i hread
            · obtain ⟨rfl, rfl, rfl, -⟩ := State.readAt_found hread
              refine .after run (ha j _ _ _ runs hr fun q hq => ?_)
              subst hq
              exact runJob_quote_bank hrun
            · rw [hread] at read
              exact .judge (read.trans (.endUnread _ _ _))
            · rw [hread] at read
              exact .judge read

theorem execRateJobCompletion_keepsTariff (v : UnitNo) : s.KeepsTariffTo (execRateJobCompletion v s) :=
  completion_keepsTariff fun j r result s hv hr hq => by
    split
    · exact .next (storeQuote_keepsTariff hr ‹_› hv (hq _ rfl))
    · exact positionFault_keepsTariff hv _
    · exact finishJob_keepsTariff hv _

theorem execRateOptionCompletion_keepsTariff (v : UnitNo) : s.KeepsTariffTo (execRateOptionCompletion v s) :=
  completion_keepsTariff fun j r result s hv hr _ => by
    split
    · exact .next (addOption_keepsTariff _ hr ‹_› hv)
    · exact positionFault_keepsTariff hv _
    · exact finishJob_keepsTariff hv _

/-- A re-rating leaves a record that pins none (R170). -/
theorem reweighVerdict_pin {pr : PendingReweigh} {r r' : Rec} {e : Entered} {q : Quote} {l : Label} {adj : Nat}
    {result : JobResult} {a : Answer} (h : reweighVerdict pr r e q l adj result = some (r', a)) :
    r'.body.pin = none := by
  unfold reweighVerdict at h
  split at h
  · split at h
    all_goals
      cases h
      rfl
  · cases h
    rfl
  · cases h

theorem execRerateReweighCompletion_keepsTariff (v : UnitNo) : s.KeepsTariffTo (execRerateReweighCompletion v s) :=
  completion_keepsTariff fun j r result s hv hr _ => by
    split
    · rename_i hb
      split
      · rename_i hw
        refine .after (.change hr ?_) (finishJob_keepsTariff ?_ _)
        · rw [reweighVerdict_pin hw, hb]
          rfl
        · exact hv
      · exact finishJob_keepsTariff hv _
    · exact finishJob_keepsTariff hv _

theorem execDiscardedJobCompletion_keepsTariff (v : UnitNo) : s.KeepsTariffTo (execDiscardedJobCompletion v s) := by
  unfold execDiscardedJobCompletion
  split
  · exact .idle s
  · split
    · exact .idle s
    · rename_i j hv
      split
      · exact .idle s
      · have run := State.KeepsTariff.runJob hv
        have runs := State.runsOn_runJob hv
        split <;> rename_i hrun <;> rw [hrun] at run runs
        · exact .judge run
        · exact .judge (run.trans (.endJob runs))

theorem execJobReadFailsCheck_keepsTariff (v : UnitNo) (e : BankEntry) :
    s.KeepsTariffTo (execJobReadFailsCheck v e s) := by
  unfold execJobReadFailsCheck
  split
  · exact .idle s
  · split
    · exact .idle s
    · rename_i hv
      split
      · exact .idle s
      · split
        · split
          · exact .judge (.jobReadFails hv _ _)
          · exact .idle s
        · exact .idle s

/-! ### The requests on a bank (R147 to R153) -/

/-- A request other than PATCH is taken in states that carry no pins (R147). -/
theorem BankState.carriesPins_of_takenIn {k : Kind} (hk : k ≠ .patch) {b : BankState} (h : takenIn k b.name = true) :
    b.carriesPins = false := by
  have active : takenIn k .active = false := by revert hk; cases k <;> decide
  have retiring : takenIn k .retiring = false := by revert hk; cases k <;> decide
  cases b with
  | active n => exact absurd (active.symm.trans h) Bool.false_ne_true
  | retiring n g => exact absurd (retiring.symm.trans h) Bool.false_ne_true
  | _ => rfl

/-- The body gets a bank in a state in which its request is taken (R147). -/
theorem bankRequest_keepsTariff {k : Kind} {h : Header} {items : List Item} {body : BankLetter → State → Outcome}
    (hb : ∀ l (s : State), takenIn k (s.bank l).state.name = true → s.KeepsTariffTo (body l s)) :
    s.KeepsTariffTo (bankRequest k h items s body) :=
  haltedRequest_keepsTariff fun s => by
    split
    · exact .reply (.refl s) _ _
    · split
      · exact hb _ s ‹_›
      · exact .reply (.refl s) _ _

theorem execBankClear_keepsTariff (h : Header) (items : List Item) : s.KeepsTariffTo (execBankClear h items s) :=
  bankRequest_keepsTariff fun l s ht => by
    have free := BankState.carriesPins_of_takenIn (by decide) ht
    exact .finish (.setBank (.unpinned free rfl (.inr rfl)) (.inr ⟨free, rfl⟩)) _ _

theorem execBankWrite_keepsTariff (h : Header) (items : List Item) : s.KeepsTariffTo (execBankWrite h items s) :=
  bankRequest_keepsTariff fun l s ht => by
    have free := BankState.carriesPins_of_takenIn (by decide) ht
    split
    · exact .reply (.refl s) _ _
    · rename_i w _
      refine .finish (.setBank (.unpinned free rfl (.inr rfl)) (.inl ?_)) _ _
      cases w with
      | limit t n => cases t <;> rfl
      | slot sel c present =>
        simp only [Bank.takeWrite, Bank.write, Bank.putSlot]
        split <;> rfl
      | _ => rfl

theorem execBankCopy_keepsTariff (h : Header) (items : List Item) : s.KeepsTariffTo (execBankCopy h items s) :=
  bankRequest_keepsTariff fun l s ht => by
    have free := BankState.carriesPins_of_takenIn (by decide) ht
    split
    · exact .reply (.refl s) _ _
    · split
      · exact .finish (.failBankEntry s _ _ _ _) _ _
      · exact .finish (.setBank (.unpinned free rfl (.inr rfl)) (.inr ⟨free, rfl⟩)) _ _

/-- A bank of another edition number than the other's is VERIFIED (R151). -/
theorem State.KeepsTariff.verify {l : BankLetter} {number : Nat}
    (free : (s.bank l).state.carriesPins = false) (apart : (s.bank (otherBank l)).state.edition ≠ some number) :
    s.KeepsTariff (s.setBank l { s.bank l with state := .verified number }) := by
  have other := State.bank_setBank_other s l _ { s.bank l with state := .verified number } (otherBank_ne l)
  refine oneBank (l := l) (by simp) (by simp) (fun n => ?_) ?_ ?_ (fun c => ?_) (other ▸ .refl _)
    ((forall_bank l).2 ⟨?_, by rw [other]⟩)
  · rw [State.bank_setBank]
    rintro ⟨⟩
    exact .inr apart
  · rw [State.bank_setBank]
    exact nofun
  · rw [State.bank_setBank]
    rfl
  · exact absurd (free.symm.trans c) Bool.false_ne_true
  · rw [State.bank_setBank]

theorem execBankVerify_keepsTariff (h : Header) (items : List Item) : s.KeepsTariffTo (execBankVerify h items s) :=
  bankRequest_keepsTariff fun l s ht => by
    have free := BankState.carriesPins_of_takenIn (by decide) ht
    split
    · exact .reply (.refl s) _ _
    · unfold verifyBank
      split
      · exact .reply (.refl s) _ _
      · rename_i apart
        split
        · exact .reply (.refl s) _ _
        · exact .finish (.failBankEntry s _ _ _ _) _ _
        · exact .reply (.refl s) _ _
        · exact .finish (.verify free apart) _ _

theorem execScheduleSwitch_keepsTariff (h : Header) (items : List Item) :
    s.KeepsTariffTo (execScheduleSwitch h items s) :=
  bankRequest_keepsTariff fun l s ht => by
    have free := BankState.carriesPins_of_takenIn (by decide) ht
    split
    · rename_i effective grace _ _
      unfold scheduleSwitch
      split
      · exact .reply (.refl s) _ _
      · have verified : ∃ n, (s.bank l).state = .verified n := by
          cases hb : (s.bank l).state <;> rw [hb] at ht <;> first | exact ⟨_, rfl⟩ | cases ht
        obtain ⟨n, hn⟩ := verified
        have scheduled : s.KeepsTariff (s.setBank l { s.bank l with
            state := .scheduled ((s.bank l).state.edition.getD 0) effective grace }) :=
          .setBank (.unpinned free rfl (.inl (by rw [hn]; rfl))) (.inl rfl)
        dsimp only
        refine .finish (scheduled.trans ?_) _ _
        split
        · exact .takeSwitch _ l
        · exact .refl _
    · exact .reply (.refl s) _ _

theorem execUnschedule_keepsTariff (h : Header) (items : List Item) : s.KeepsTariffTo (execUnschedule h items s) :=
  bankRequest_keepsTariff fun _ _ _ =>
    .finish (.setBank (State.KeepsTariff.unscheduled _).1 (.inl (State.KeepsTariff.unscheduled _).2)) _ _

/-! ### The switch, the grace expiry, the patches (R154, R157, R160) -/

theorem execSwitch_keepsTariff : s.KeepsTariffTo (execSwitch s) := by
  unfold execSwitch
  split
  · exact .idle s
  · split
    · exact .judge (.takeSwitch s _)
    · exact .idle s

theorem execGraceExpiry_keepsTariff (l : BankLetter) : s.KeepsTariffTo (execGraceExpiry l s) := by
  unfold execGraceExpiry
  split
  · exact .idle s
  · split
    · exact .judge (.expireGrace s l)
    · exact .idle s

theorem Bank.putSlot_state_pins (b : Bank) (sel : Selector) (c : SlotCell) :
    (b.putSlot sel c).state = b.state ∧ (b.putSlot sel c).pins = b.pins := by
  unfold Bank.putSlot
  split <;> exact ⟨rfl, rfl⟩

theorem State.KeepsTariff.patchSlot (s : State) (p : Patch) : s.KeepsTariff (s.patchSlot p).1 := by
  have put (sel : Selector) (c : SlotCell) : s.KeepsTariff (s.setBank p.bank ((s.bank p.bank).putSlot sel c)) :=
    .setAlike (Bank.putSlot_state_pins _ _ _).1 (Bank.putSlot_state_pins _ _ _).2
  unfold State.patchSlot
  dsimp only
  split
  · exact .refl s
  · split
    · split
      · exact .refl s
      · exact put _ _
      · exact .refl s
    · split
      · exact .failBankEntry s _ _ _ _
      · split
        · exact .refl s
        · exact put _ _

theorem State.KeepsTariff.applyPatch (s : State) (p : Patch) : s.KeepsTariff (s.applyPatch p) :=
  (patchSlot s p).trans (.frame (by simp [State.applyPatch]))

theorem patchRequest_keepsTariff (change : PatchChange) (h : Header) (items : List Item) :
    s.KeepsTariffTo (patchRequest change h items s) := by
  have waits (p : Patch) : s.KeepsTariff { s with grantState := .patchWait p } := .frame ⟨rfl, rfl, rfl, rfl⟩
  unfold patchRequest
  split
  · split
    · exact .reply (.refl s) _ _
    · split
      · exact .reply (.refl s) _ _
      · split
        · exact .reply (.refl s) _ _
        · split
          · exact .next ((waits _).trans (.applyPatch _ _))
          · exact .next (waits _)
  · exact .reply (.refl s) _ _

theorem execPatchApplied_keepsTariff : s.KeepsTariffTo (execPatchApplied s) := by
  unfold execPatchApplied
  split
  · exact .idle s
  · split
    · split
      · exact .next (.applyPatch s _)
      · exact .idle s
    · exact .idle s

/-! ### The hall (12) -/

theorem execSetTime_keepsTariff (h : Header) (items : List Item) : s.KeepsTariffTo (execSetTime h items s) :=
  haltedRequest_keepsTariff fun s => by
    split
    · exact .reply (.refl s) _ _
    · rename_i time _
      have timed : s.KeepsTariff { s with hallTime := time } := .frame ⟨rfl, rfl, rfl, rfl⟩
      exact .finish (timed.trans (.switchIfDue _)) _ _

theorem execSetTimers_keepsTariff (h : Header) (items : List Item) : s.KeepsTariffTo (execSetTimers h items s) :=
  haltedRequest_keepsTariff fun s => .frame (by simp)

theorem execSetEnables_keepsTariff (h : Header) (items : List Item) : s.KeepsTariffTo (execSetEnables h items s) :=
  haltedRequest_keepsTariff fun s => by split <;> exact .frame (by simp)

theorem execAcknowledge_keepsTariff (h : Header) (items : List Item) : s.KeepsTariffTo (execAcknowledge h items s) :=
  haltedRequest_keepsTariff fun s => by split <;> exact .frame (by simp)

theorem execStatus_keepsTariff (h : Header) (items : List Item) : s.KeepsTariffTo (execStatus h items s) :=
  request_keepsTariff fun s => by split <;> exact .reply (.refl s) _ _

theorem execHallTimeTick_keepsTariff : s.KeepsTariffTo (execHallTimeTick s) := by
  unfold execHallTimeTick
  split
  · exact .idle s
  · exact .next (.trans (t := { s with hallTime := min Config.hallTimeMax (s.hallTime + 1) })
      (.frame ⟨rfl, rfl, rfl, rfl⟩) (.countDown _))

theorem execSoftReset_keepsTariff (h : Header) (items : List Item) : s.KeepsTariffTo (execSoftReset h items s) :=
  haltedRequest_keepsTariff fun s => by
    have begun := State.KeepsTariff.beginDrain s
    dsimp only
    split
    · exact .next (begun.trans (.endDrain _))
    · exact .judge begun

theorem execDrainEnd_keepsTariff : s.KeepsTariffTo (execDrainEnd s) := by
  unfold execDrainEnd
  split
  · exact .idle s
  · split
    · exact .next (.endDrain s)
    · exact .idle s

theorem execResetRelease_keepsTariff : s.KeepsTariffTo (execResetRelease s) := by
  unfold execResetRelease
  split
  · exact .next (.hardResetValues s false)
  · exact .idle s

theorem execUnknownRequest_keepsTariff (h : Header) (kind : Byte) : s.KeepsTariffTo (execUnknownRequest h kind s) := by
  unfold execUnknownRequest
  split
  · exact .idle s
  · exact .frame (by simp)

end Sys2Proof.Machine
end

section
/-! The laws of the tariff, of the pins and of the editions at every step (R154, R155, R39, R151): O54, O58. -/
namespace Sys2Proof.Machine

variable {s t : State}

/-- Every command keeps the three laws. -/
theorem exec_keepsTariff (i : Instr) : s.KeepsTariffTo (exec i s) := by
  cases i with
  | newParcel h items => exact execNewParcel_keepsTariff h items
  | setAttributes h items => exact execSetAttributes_keepsTariff h items
  | rate h items => exact positionRequest_keepsTariff fun _ _ _ _ => rateRequest_keepsTariff _ _ _ _ _ _
  | commit h items => exact positionRequest_keepsTariff fun _ _ _ _ => commitRequest_keepsTariff _ _ _ _ _
  | printed h items => exact execPrinted_keepsTariff h items
  | spoilt h items => exact execSpoilt_keepsTariff h items
  | query h items => exact execQuery_keepsTariff h items
  | amendAddOption h items => exact positionRequest_keepsTariff fun _ _ _ _ => amendRequest_keepsTariff _ _ _ _ _ _
  | takeOver h items => exact execTakeOver_keepsTariff h items
  | void h items => exact positionRequest_keepsTariff fun _ _ _ _ => voidRequest_keepsTariff _ _ _ _ _ _
  | cancel h items => exact execCancel_keepsTariff h items
  | reweigh h items => exact execReweigh_keepsTariff h items
  | handover h items => exact execHandover_keepsTariff h items
  | setTime h items => exact execSetTime_keepsTariff h items
  | setTimers h items => exact execSetTimers_keepsTariff h items
  | setEnables h items => exact execSetEnables_keepsTariff h items
  | acknowledge h items => exact execAcknowledge_keepsTariff h items
  | status h items => exact execStatus_keepsTariff h items
  | openPosition h items => exact execOpenPosition_keepsTariff h items
  | closePosition h items => exact execClosePosition_keepsTariff h items
  | resetPosition h items => exact execResetPosition_keepsTariff h items
  | suspend h items => exact execSuspend_keepsTariff h items
  | resume h items => exact execResume_keepsTariff h items
  | grant h items => exact execGrant_keepsTariff h items
  | deny h items => exact execDeny_keepsTariff h items
  | loadBlock h items => exact execLoadBlock_keepsTariff h items
  | bankClear h items => exact execBankClear_keepsTariff h items
  | bankWrite h items => exact execBankWrite_keepsTariff h items
  | bankCopy h items => exact execBankCopy_keepsTariff h items
  | bankVerify h items => exact execBankVerify_keepsTariff h items
  | scheduleSwitch h items => exact execScheduleSwitch_keepsTariff h items
  | unschedule h items => exact execUnschedule_keepsTariff h items
  | patchWithdraw h items => exact haltedRequest_keepsTariff fun _ => patchRequest_keepsTariff _ _ _
  | patchRestore h items => exact haltedRequest_keepsTariff fun _ => patchRequest_keepsTariff _ _ _
  | patchRegrade h items => exact haltedRequest_keepsTariff fun _ => patchRequest_keepsTariff _ _ _
  | patchApplied => exact execPatchApplied_keepsTariff
  | settleAccept h items => exact execSettleAccept_keepsTariff h items
  | settleVoid h items => exact execSettleVoid_keepsTariff h items
  | querySupervisor h items => exact execQuerySupervisor_keepsTariff h items
  | voidSupervisor h items => exact execVoidSupervisor_keepsTariff h items
  | softReset h items => exact execSoftReset_keepsTariff h items
  | drainEnd => exact execDrainEnd_keepsTariff
  | frameDiscarded link bytes => exact .idle s
  | unknownRequest h kind => exact execUnknownRequest_keepsTariff h kind
  | hardReset => exact .next (.hardResetValues s true)
  | resetRelease => exact execResetRelease_keepsTariff
  | hallTimeTick => exact execHallTimeTick_keepsTariff
  | printDeadlineExpiry n => exact execPrintDeadlineExpiry_keepsTariff n
  | escalationTimeout p => exact execEscalationTimeout_keepsTariff p
  | graceExpiry l => exact execGraceExpiry_keepsTariff l
  | switch => exact execSwitch_keepsTariff
  | grantOfJob => exact execGrantOfJob_keepsTariff
  | rateJobCompletion u => exact execRateJobCompletion_keepsTariff u
  | rateOptionCompletion u => exact execRateOptionCompletion_keepsTariff u
  | rerateReweighCompletion u => exact execRerateReweighCompletion_keepsTariff u
  | discardedJobCompletion u => exact execDiscardedJobCompletion_keepsTariff u
  | jobReadFailsCheck u e => exact execJobReadFailsCheck_keepsTariff u e

/-- Every step keeps the three laws. -/
theorem step_keepsTariff (h : step s = .next t) : s.KeepsTariff t := by
  unfold step at h
  split at h
  · cases h
    exact .refl s
  · rename_i c rest _
    have taken : s.KeepsTariff { s with pending := rest } := .frame ⟨rfl, rfl, rfl, rfl⟩
    exact taken.trans (exec_keepsTariff c t h)

/-- Settles O54: every operation on a bank is one under which it stays, or is the switch, which takes the outgoing bank
out of office. -/
theorem tariffLawIsKept : Obligations.TariffLawIsKept := by
  unfold Obligations.TariffLawIsKept
  exact fun s t h hs => (step_keepsTariff hs).tariff h

/-- A bank state that may carry pins is ACTIVE or RETIRING. -/
theorem BankState.name_of_carriesPins {b : BankState} (h : b.carriesPins = true) :
    b.name ∈ [BankStateName.active, .retiring] := by
  cases b with
  | active n => exact List.mem_cons_self
  | retiring n g => exact List.mem_cons_of_mem _ List.mem_cons_self
  | _ => cases h

/-- A bank that a listed record pins is ACTIVE or RETIRING. -/
theorem State.carriesPins_of_record (h : s.pinLaw = true) {c : Nat × Rec} {l : BankLetter}
    (hc : c ∈ s.table.records.cells) (hp : c.2.body.pin = some l) : (s.bank l).state.carriesPins = true := by
  obtain ⟨pins, carries⟩ := State.pinnedBy_iff.1 (State.pinLaw_iff.1 h l)
  refine carries.resolve_left fun zero => ?_
  have counted : 0 < s.table.records.cells.countP fun c => c.2.body.pin == some l :=
    List.countP_pos_iff.2 ⟨c, hc, by simp [hp]⟩
  rw [zero, State.pinners] at pins
  omega

/-- Settles O58: a record or unit that comes to pin a bank takes a pin of it and one that ceases to releases one, on a
bank that is ACTIVE or has a pinner; and only BANK VERIFY gives a bank an edition number. -/
theorem bankLawsAreKept : Obligations.BankLawsAreKept := by
  unfold Obligations.BankLawsAreKept
  refine ⟨fun s t hc hp hs => (step_keepsTariff hs).pins (State.canonical_rising hc) hp, fun s l hp => ⟨?_, ?_⟩,
    fun s t h hs => (step_keepsTariff hs).editions h⟩
  · exact fun c hc hl => BankState.name_of_carriesPins (State.carriesPins_of_record hp hc hl)
  · rintro u j hu rfl
    exact BankState.name_of_carriesPins (State.carriesPins_of_unit hp hu)

end Sys2Proof.Machine
end

section
/-! The state at reset (R198): O4. -/
namespace Sys2Proof.Machine

/-- Settles O4: the laws evaluated at the state of reset. -/
theorem resetStateMeetsLaws : Obligations.ResetStateMeetsLaws := by
  unfold Obligations.ResetStateMeetsLaws
  refine ⟨rfl, rfl, rfl, rfl, rfl, rfl, rfl, rfl, rfl, rfl, rfl, rfl⟩

end Sys2Proof.Machine
end

section
/-! The requests on a bank (R147) in the states that take them and in the others: O42. -/
namespace Sys2Proof.Machine

variable {s : State} {k : Kind} {g : Tag} {items : List Item} {l : BankLetter}

/-- In a state that takes its request the bank is handed on (R147). -/
theorem bankRequest_taken (hs : s.Serves k .supervisor items) (hl : bankOf items = some l)
    (ht : takenIn k (s.bank l).state.name = true) (body : BankLetter → State → Outcome) :
    bankRequest k ⟨.supervisor, g⟩ items s body = body l (s.hold .supervisor k g) := by
  unfold bankRequest
  rw [haltedRequest_serves k ⟨.supervisor, g⟩ items _ hs]
  simp only [hl, State.bank_hold, ht, if_true]

/-- In any other it is answered BANK STATE (R147). -/
theorem bankRequest_refused (hs : s.Serves k .supervisor items) (hl : bankOf items = some l)
    (ht : takenIn k (s.bank l).state.name = false) (body : BankLetter → State → Outcome) :
    bankRequest k ⟨.supervisor, g⟩ items s body =
      .next (s.send .supervisor g k.code (.bankState l (s.bank l).state.name)) := by
  unfold bankRequest
  rw [haltedRequest_serves k ⟨.supervisor, g⟩ items _ hs]
  simp only [hl, State.bank_hold, ht, Bool.false_eq_true, if_false]
  exact State.reply_hold _ _ _ _ hs.free

/-- Settles O42: each of the requests checks the state of the bank it names before anything else. -/
theorem bankRequestsNeedTheirState : Obligations.BankRequestsNeedTheirState := by
  unfold Obligations.BankRequestsNeedTheirState
  intro k g items s l hk hs hl clear write verify schedule unschedule
  simp only [List.mem_cons, List.not_mem_nil, or_false] at hk
  rcases hk with rfl | rfl | rfl | rfl | rfl | rfl
  · show execBankClear ⟨.supervisor, g⟩ items s = _
    exact bankRequest_refused hs hl (by simpa [takenIn, and_assoc] using clear (.inl rfl)) _
  · show execBankWrite ⟨.supervisor, g⟩ items s = _
    exact bankRequest_refused hs hl (by simpa [takenIn, and_assoc] using write rfl) _
  · show execBankCopy ⟨.supervisor, g⟩ items s = _
    exact bankRequest_refused hs hl (by simpa [takenIn, and_assoc] using clear (.inr rfl)) _
  · show execBankVerify ⟨.supervisor, g⟩ items s = _
    exact bankRequest_refused hs hl (beq_eq_false_iff_ne.2 (verify rfl)) _
  · show execScheduleSwitch ⟨.supervisor, g⟩ items s = _
    exact bankRequest_refused hs hl (beq_eq_false_iff_ne.2 (schedule rfl)) _
  · show execUnschedule ⟨.supervisor, g⟩ items s = _
    exact bankRequest_refused hs hl (beq_eq_false_iff_ne.2 (unschedule rfl)) _

end Sys2Proof.Machine
end

section
/-! SCHEDULE SWITCH and UNSCHEDULE (R153): O45. -/
namespace Sys2Proof.Machine

variable {s t : State} {k : Kind} {g : Tag} {items : List Item} {l : BankLetter}

/-! ### A switch leaves the bank that takes office ACTIVE -/

/-- A bank that is ACTIVE stays so, whatever its pins become. -/
def State.StaysActive (s t : State) (l : BankLetter) : Prop :=
  (s.bank l).state.isActive = true → (t.bank l).state.isActive = true

theorem State.StaysActive.frame (ha : t.bankA = s.bankA) (hb : t.bankB = s.bankB) : s.StaysActive t l := by
  unfold State.StaysActive
  rw [State.bank_congr ha hb]
  exact id

theorem State.StaysActive.trans {u : State} (h : s.StaysActive t l) (k : t.StaysActive u l) : s.StaysActive u l :=
  fun a => k (h a)

theorem State.StaysActive.releasePin (s : State) (m : BankLetter) : s.StaysActive (s.releasePin m) l := by
  intro h
  by_cases hm : m = l
  · subst hm
    unfold State.releasePin
    dsimp only
    split
    · rename_i hs
      rw [hs] at h
      cases h
    · rw [State.bank_setBank]
      exact h
  · rwa [State.releasePin_bank_other _ hm]

theorem State.StaysActive.releaseBodyPin (s : State) (b : RecordBody) : s.StaysActive (s.releaseBodyPin b) l := by
  unfold State.releaseBodyPin
  split
  · exact .releasePin s _
  · exact .frame rfl rfl

theorem State.StaysActive.endJobOn (s : State) (h : Handle) (a : Answer) : s.StaysActive (s.endJobOn h a) l := by
  cases hu : s.unitOn h with
  | none =>
    rw [State.endJobOn_none _ _ _ hu]
    exact .frame rfl rfl
  | some u =>
    obtain ⟨j, hj, -⟩ := State.unitOn_some hu
    have ended : s.StaysActive (s.jobEnded u j) l :=
      .trans (t := s.setUnit u none) (.frame rfl rfl) (.releasePin _ _)
    rw [State.endJobOn_some a hu hj]
    split
    · exact ended
    · exact ended.trans (.frame (by simp) (by simp))

theorem State.StaysActive.readAt (s : State) (reader : Reader) (n : Nat) (r : Rec) :
    s.StaysActive (s.readAt reader n r).1 l := by
  cases hs : r.sound
  · rw [s.readAt_failing reader n r hs]
    refine .trans ?_ (.frame (State.report_bankA _ _ _) (State.report_bankB _ _ _))
    by_cases hd : ∃ l, r.body = .damaged l
    · obtain ⟨m, hm⟩ := hd
      rw [s.damageRecord_damaged n r _ m hm]
      exact .frame rfl rfl
    · rw [State.damageRecord_eq fun m hm => hd ⟨m, hm⟩]
      have damaging : s.StaysActive (s.damaging n r) l :=
        .trans (t := s.putRecord n r.damage) (.frame rfl rfl) (.releaseBodyPin _ _)
      have ended := damaging.trans (.endJobOn _ (s.handleAt n) (.damaged (.record (s.handleAt n))))
      exact ended.trans (.frame (State.dropEntryOn_bankA _ _ _) (State.dropEntryOn_bankB _ _ _))
  · rw [s.readAt_sound reader n r hs]
    exact .frame rfl rfl

theorem State.StaysActive.lapseEach (ns : List Nat) (s : State) : s.StaysActive (lapseEach ns s).1 l := by
  induction ns generalizing s with
  | nil => exact .frame rfl rfl
  | cons n rest ih =>
    unfold Machine.lapseEach
    split
    · exact ih s
    · rename_i r _
      have read : s.StaysActive (s.readAt .graceExpiry n r).1 l := .readAt s _ n r
      have lapsed (u : State) (q : Rec) (e : Entered) : u.StaysActive (u.toDraft n q e) l :=
        .trans (t := u.putRecord n (q.change (.draft e))) (.frame rfl rfl) (.releaseBodyPin _ _)
      split
      all_goals
        rename_i hr
        rw [hr] at read
      · split
        · exact read.trans ((lapsed _ _ _).trans (ih _))
        · exact read.trans (ih _)
      · exact read.trans (ih _)

/-- After a switch the bank that was SCHEDULED is ACTIVE (R154). -/
theorem State.takeSwitch_active {edition effective grace : Nat}
    (hs : (s.bank l).state = .scheduled edition effective grace) :
    ((s.takeSwitch l).bank l).state.isActive = true := by
  have office : ((s.setBank l { s.bank l with state := .active edition }).bank l).state.isActive = true := by
    rw [State.bank_setBank]
    rfl
  rw [← State.KeepsTariff.retireOutgoing_bank_other _ l grace] at office
  have raised (u : State) (c : Cause) : (u.raise c).bank l = u.bank l := State.bank_congr rfl rfl l
  have expired (u : State) (m : BankLetter) (hm : m ≠ l) (a : (u.bank l).state.isActive = true) :
      ((u.expireGrace m).bank l).state.isActive = true := by
    have lapsed := State.StaysActive.lapseEach (l := l) (ratedOn m u.table.records.cells) u a
    rw [State.expireGrace_eq]
    dsimp only
    split
    · rwa [raised, State.bank_setBank_other _ _ _ _ hm]
    · rwa [State.bank_setBank_other _ _ _ _ hm]
  unfold State.takeSwitch
  rw [hs]
  dsimp only
  split
  · exact expired _ _ (otherBank_ne l).symm (by rwa [raised])
  · rwa [raised]

theorem BankState.name_of_isActive {b : BankState} (h : b.isActive = true) : b.name = .active := by
  cases b with
  | active n => rfl
  | _ => cases h

theorem BankState.isScheduled_iff {b : BankState} : b.isScheduled = true ↔ b.name = .scheduled := by
  cases b <;> simp [BankState.isScheduled, BankState.name]

/-! ### The requests -/

/-- What leaves the supervisor link aside may be done before its request is held: only the answer frame is new
besides. -/
theorem State.finish_supervisor {f : State → State}
    (hf : ∀ x, f (s.setLink .supervisor x) = (f s).setLink .supervisor x) (a : Answer)
    (free : (s.link .supervisor).outstanding = none) :
    (f (s.hold .supervisor k g)).finish .supervisor a = .next ((f s).judge.send .supervisor g k.code a) := by
  have link : (f s).link .supervisor = s.link .supervisor := by
    have own := hf (s.link .supervisor)
    rw [State.setLink_link] at own
    rw [own, State.link_setLink]
  have held : f (s.hold .supervisor k g) = (f s).hold .supervisor k g := by
    rw [State.hold, hf, State.hold, link]
  rw [held]
  exact State.finish_hold (by rw [link]; exact free) a

/-- A bank replaced leaves the links aside. -/
theorem State.setBank_supervisor (s : State) (l : BankLetter) (b : Bank) (x : LinkState) :
    (s.setLink .supervisor x).setBank l b = (s.setBank l b).setLink .supervisor x := by
  cases l <;> rfl

/-- A held request whose body replaces a bank. -/
theorem State.setBank_finish_hold (free : (s.link .supervisor).outstanding = none) (b : Bank) (a : Answer) :
    ((s.hold .supervisor k g).setBank l b).finish .supervisor a =
      .next ((s.setBank l b).judge.send .supervisor g k.code a) :=
  State.finish_supervisor (f := fun s => s.setBank l b) (s.setBank_supervisor l b) a free

section
variable {link : Link} {edition effective grace : Nat} (hv : (s.bank l).state = .verified edition)
  (other : (s.bank (otherBank l)).state.name ≠ .scheduled)
include hv other

/-- An effective time that lies ahead (R153). -/
theorem scheduleSwitch_ahead (ahead : s.hallTime < effective) : scheduleSwitch link l effective grace s =
    (s.setBank l { s.bank l with state := .scheduled edition effective grace }).finish link
      (.done (.bank .scheduled)) := by
  have number : (s.bank l).state.edition.getD 0 = edition := by rw [hv]; rfl
  simp only [scheduleSwitch, mt BankState.isScheduled_iff.1 other, number, State.setBank_hallTime, Nat.not_le.2 ahead,
    State.bank_setBank, BankState.name, Bool.false_eq_true, if_false]

/-- An effective time that is reached (R153). -/
theorem scheduleSwitch_reached (reached : effective ≤ s.hallTime) : scheduleSwitch link l effective grace s =
    ((s.setBank l { s.bank l with state := .scheduled edition effective grace }).takeSwitch l).finish link
      (.done (.bank .active)) := by
  have scheduled := congrArg Bank.state
    (State.bank_setBank s l { s.bank l with state := .scheduled edition effective grace })
  have number : (s.bank l).state.edition.getD 0 = edition := by rw [hv]; rfl
  simp only [scheduleSwitch, mt BankState.isScheduled_iff.1 other, number, State.setBank_hallTime, reached,
    BankState.name_of_isActive (State.takeSwitch_active scheduled), Bool.false_eq_true, if_false,
    if_true]

end

/-- Settles O45: the other bank's schedule refuses; else the switch is scheduled, and taken where its time is
reached. -/
theorem switchesAreScheduled : Obligations.SwitchesAreScheduled := by
  unfold Obligations.SwitchesAreScheduled
  refine ⟨fun g items s l edition effective grace hs hl ht hg hv => ?_,
    fun g items s l edition effective grace hs hl hv => ?_⟩
  · have taken : exec (.scheduleSwitch ⟨.supervisor, g⟩ items) s =
        scheduleSwitch .supervisor l effective grace (s.hold .supervisor .scheduleSwitch g) := by
      show execScheduleSwitch ⟨.supervisor, g⟩ items s = _
      refine (bankRequest_taken hs hl (by rw [hv]; rfl) _).trans ?_
      simp only [ht, hg]
    have bank (m : BankLetter) := s.bank_hold .supervisor .scheduleSwitch g m
    have time : (s.hold .supervisor .scheduleSwitch g).hallTime = s.hallTime := s.hold_hallTime _ _ _
    rw [taken]
    refine ⟨fun other => ?_, fun other ahead => ?_, fun other reached => ?_⟩
    · unfold scheduleSwitch
      rw [bank, if_pos (BankState.isScheduled_iff.2 other)]
      exact State.reply_hold _ _ _ _ hs.free
    · rw [scheduleSwitch_ahead (by rw [bank, hv]) (by rwa [bank]) (by rwa [time]), bank]
      exact State.setBank_finish_hold hs.free _ _
    · rw [scheduleSwitch_reached (by rw [bank, hv]) (by rwa [bank]) (by rwa [time]), bank]
      refine State.finish_supervisor (f := fun u => (u.setBank l { s.bank l with
        state := .scheduled edition effective grace }).takeSwitch l) (fun x => ?_) _ hs.free
      dsimp only
      rw [State.setBank_supervisor, State.takeSwitch_supervisor]
  · show execUnschedule ⟨.supervisor, g⟩ items s = _
    refine (bankRequest_taken hs hl (by rw [hv]; rfl) _).trans ?_
    have back : (s.bank l).unscheduled = { s.bank l with state := .verified edition } := by
      simp only [Bank.unscheduled, hv]
    rw [State.bank_hold, back]
    exact State.setBank_finish_hold hs.free _ _

end Sys2Proof.Machine
end

section
/-! PATCH (R159 to R161): O48. -/
namespace Sys2Proof.Machine

variable {s : State} {g : Tag} {items : List Item} {l : BankLetter} {sel : Selector} {p : Patch}

/-! ### The application of a patch beside the links and the grant state -/

/-- A state with its links and its grant state replaced. -/
def State.beside (s : State) (links : Links) (grant : GrantState) : State :=
  { s with links := links, grantState := grant }

theorem State.bank_beside (s : State) (links : Links) (grant : GrantState) (l : BankLetter) :
    (s.beside links grant).bank l = s.bank l := by cases l <;> rfl

theorem readAhead_beside (l : BankLetter) (e : BankEntry) (own : Option UnitNo) (s : State) (links : Links)
    (grant : GrantState) (u : UnitNo) :
    readAhead l e own (s.beside links grant) u = (readAhead l e own s u).beside links grant := by
  have unit : (s.beside links grant).unit u = s.unit u := rfl
  unfold readAhead
  rw [unit]
  split
  · rfl
  · rw [State.bank_beside]
    split <;> rfl

theorem State.report_beside (s : State) (links : Links) (grant : GrantState) (x : ReportSubject) (r : Reader) :
    (s.beside links grant).report x r = (s.report x r).beside links grant := by
  unfold State.report State.beside
  dsimp only
  split <;> rfl

theorem State.failBankEntry_beside (s : State) (links : Links) (grant : GrantState) (l : BankLetter) (e : BankEntry)
    (reader : Reader) (own : Option UnitNo) :
    (s.beside links grant).failBankEntry l e reader own = (s.failBankEntry l e reader own).beside links grant := by
  have read : (s.beside links grant).jobsReadOn l e own = (s.jobsReadOn l e own).beside links grant := by
    simp only [State.jobsReadOn, List.foldl, readAhead_beside]
  unfold State.failBankEntry
  dsimp only
  rw [read, State.bank_beside, ← State.report_beside]
  cases l <;> rfl

/-- The application of a patch looks at neither the links nor the grant state. -/
theorem State.patchSlot_beside (s : State) (links : Links) (grant : GrantState) (p : Patch) :
    (s.beside links grant).patchSlot p = ((s.patchSlot p).1.beside links grant, (s.patchSlot p).2) := by
  have put (b : Bank) : (s.beside links grant).setBank p.bank b = (s.setBank p.bank b).beside links grant := by
    cases p.bank <;> rfl
  unfold State.patchSlot
  rw [State.bank_beside]
  dsimp only
  split
  · rfl
  · split
    · split
      · rfl
      · rw [put]
      · rfl
    · split
      · rw [State.failBankEntry_beside]
      · split
        · rfl
        · rw [put]

/-! ### The application of a patch -/

theorem takenIn_patch {b : BankState} : takenIn .patch b.name = true ↔ b.name ∈ [BankStateName.active, .retiring] := by
  cases b <;> simp [takenIn, BankState.name]

/-- A bank that is no longer in office (R160). -/
theorem State.patchSlot_refused (h : (s.bank p.bank).state.name ∉ [.active, .retiring]) :
    s.patchSlot p = (s, .bankState p.bank (s.bank p.bank).state.name) := by
  unfold State.patchSlot
  rw [if_pos (by simpa using mt takenIn_patch.1 h)]

section
variable (h : (s.bank p.bank).state.name ∈ [.active, .retiring])
include h

/-- A damaged slot (R160). -/
theorem State.patchSlot_damaged (hd : ((s.bank p.bank).slotCell p.sel).damaged = true) :
    (p.change = .withdraw → s.patchSlot p = (s, .done .plain)) ∧
    (p.change = .restore → s.patchSlot p = (s.setBank p.bank ((s.bank p.bank).putSlot p.sel
      { (s.bank p.bank).slotCell p.sel with present := true, sound := true }), .done .plain)) ∧
    ∀ n, p.change = .regrade n → s.patchSlot p = (s, .damaged (.bankEntry p.bank (.slot p.sel))) := by
  unfold State.patchSlot
  rw [if_neg (by simpa [takenIn_patch] using h), if_pos hd]
  exact ⟨fun hc => by rw [hc], fun hc => by rw [hc], fun n hc => by rw [hc]⟩

/-- A slot whose read fails its check (R160). -/
theorem State.patchSlot_failing (hd : ((s.bank p.bank).slotCell p.sel).damaged = false)
    (hf : ((s.bank p.bank).slotCell p.sel).sound = false) :
    s.patchSlot p = (s.failBankEntry p.bank (.slot p.sel) .supervisor none,
      .damaged (.bankEntry p.bank (.slot p.sel))) := by
  unfold State.patchSlot
  rw [if_neg (by simpa [takenIn_patch] using h), if_neg (by simp [hd]), if_pos (by simp [hf])]

/-- A slot that passes its check is changed as its kind lets it (R161). -/
theorem State.patchSlot_sound (hd : ((s.bank p.bank).slotCell p.sel).damaged = false)
    (hf : ((s.bank p.bank).slotCell p.sel).sound = true) :
    (((s.bank p.bank).slotCell p.sel).patched p.change = none → s.patchSlot p = (s, .malformed)) ∧
    ∀ x, ((s.bank p.bank).slotCell p.sel).patched p.change = some x →
      s.patchSlot p = (s.setBank p.bank ((s.bank p.bank).putSlot p.sel x), .done .plain) := by
  unfold State.patchSlot
  rw [if_neg (by simpa [takenIn_patch] using h), if_neg (by simp [hd]), if_neg (by simp [hf])]
  exact ⟨fun hx => by rw [hx], fun x hx => by rw [hx]⟩

end

/-- What each change makes of a slot, by its kind (R161). -/
theorem SlotCell.patched_cases (x : SlotCell) (n : Nat) :
    (x.content = .empty → ∀ change, x.patched change = none) ∧
    (x.content ≠ .empty → x.patched .withdraw = some { x with present := false } ∧
      x.patched .restore = some { x with present := true }) ∧
    (∀ bands, x.content = .rate bands → x.patched (.regrade n) = none) ∧
    (∀ d, x.content = .service d →
      x.patched (.regrade n) = some { x with content := .service { d with grade := n } }) ∧
    (∀ grade target, x.content = .redirect grade target →
      x.patched (.regrade n) = some { x with content := .redirect n target }) ∧
    ∀ d, x.content = .surcharge d →
      x.patched (.regrade n) = some { x with content := .surcharge { d with grade := n } } := by
  refine ⟨fun h change => ?_, fun h => ⟨?_, ?_⟩, fun bands h => ?_, fun d h => ?_, fun grade target h => ?_,
    fun d h => ?_⟩
  all_goals simp [SlotCell.patched, h, Descriptor.graded, Descriptor.regrade]

theorem writableSlot_iff (n : Nat) :
    (writableSlot ⟨.n, n⟩ = true ↔ 1 ≤ n ∧ n ≤ 1023) ∧ (writableSlot ⟨.h, n⟩ = true ↔ n ≤ 255) := by
  simp [writableSlot, within]

/-! ### The request -/

/-- The checks of a PATCH in their order, on the held request (R159). -/
theorem patchRequest_cases {change : PatchChange} (hs : s.Serves .patch .supervisor items)
    (hl : bankOf items = some l) (hsel : selectorOf items = some sel) {o : Outcome}
    (ho : o = patchRequest change ⟨.supervisor, g⟩ items (s.hold .supervisor .patch g)) :
    (writableSlot sel = false → o = .next (s.send .supervisor g Kind.patch.code .malformed)) ∧
    (writableSlot sel = true → (s.bank l).state.name ∉ [.active, .retiring] →
      o = .next (s.send .supervisor g Kind.patch.code (.bankState l (s.bank l).state.name))) ∧
    (writableSlot sel = true → (s.bank l).state.name ∈ [.active, .retiring] → (s.bank l).limit sel.table ≤ sel.index →
      o = .next (s.send .supervisor g Kind.patch.code .malformed)) ∧
    (writableSlot sel = true → (s.bank l).state.name ∈ [.active, .retiring] → sel.index < (s.bank l).limit sel.table →
      (s.allIdle = false →
        o = .next { s.hold .supervisor .patch g with grantState := .patchWait ⟨l, sel, change⟩ }) ∧
      (s.allIdle = true →
        o = .next (State.judge { (s.patchSlot ⟨l, sel, change⟩).1 with grantState := .granting }
          |>.send .supervisor g Kind.patch.code (s.patchSlot ⟨l, sel, change⟩).2))) := by
  subst ho
  have idle : (s.hold .supervisor .patch g).allIdle = s.allIdle := rfl
  unfold patchRequest
  simp only [hl, hsel, State.bank_hold, idle]
  refine ⟨fun hw => ?_, fun hw hb => ?_, fun hw hb hi => ?_, fun hw hb hi => ⟨fun busy => ?_, fun free => ?_⟩⟩
  · rw [if_pos (by simp [hw])]
    exact State.reply_hold _ _ _ _ hs.free
  · rw [if_neg (by simp [hw]), if_pos (by simpa using mt takenIn_patch.1 hb)]
    exact State.reply_hold _ _ _ _ hs.free
  all_goals rw [if_neg (by simp [hw]), if_neg (by simpa [takenIn_patch] using hb)]
  · rw [if_pos hi]
    exact State.reply_hold _ _ _ _ hs.free
  all_goals rw [if_neg (Nat.not_le.2 hi)]
  · rw [busy, if_neg Bool.false_ne_true]
  · rw [free, if_pos rfl]
    have waiting : { s.hold .supervisor .patch g with grantState := .patchWait ⟨l, sel, change⟩ } =
        s.beside (s.hold .supervisor .patch g).links (.patchWait ⟨l, sel, change⟩) := rfl
    have links : (s.patchSlot ⟨l, sel, change⟩).1.links = s.links := by
      have own := State.patchSlot_beside s s.links s.grantState ⟨l, sel, change⟩
      exact congrArg (fun r => r.1.links) own
    have answered := State.answer_of_held .supervisor .patch g (s.patchSlot ⟨l, sel, change⟩).2
      (t := (s.patchSlot ⟨l, sel, change⟩).1.beside (s.hold .supervisor .patch g).links .granting) rfl hs.free
    rw [waiting, State.applyPatch, State.patchSlot_beside]
    refine (congrArg (fun t => (.next t.judge : Outcome)) answered).trans ?_
    rw [← links]
    rfl

/-- Settles O48: a PATCH takes its checks on the held request; what is applied looks at neither the links nor the grant
state, so that it is the same at once and after the wait. -/
theorem patchesAreApplied : Obligations.PatchesAreApplied := by
  unfold Obligations.PatchesAreApplied
  refine ⟨fun g items s l sel change c hs hl hsel hc => ?_, writableSlot_iff, fun s p hs hw => ?_, fun s hs hw => ?_,
    fun s p => ⟨State.patchSlot_refused, fun h => ⟨State.patchSlot_damaged h, State.patchSlot_failing h,
      State.patchSlot_sound h⟩⟩, SlotCell.patched_cases⟩
  · have accepted : itemsAccepted .patch items = true := hs.accepted
    have served {code : Nat} (hcode : patchChangeOf items = some code) (body : State → Outcome) :
        haltedRequest .patch ⟨.supervisor, g⟩ (patchAccepted code items) s body =
          body (s.hold .supervisor .patch g) := by
      rw [show patchAccepted code items = itemsAccepted .patch items by simp [patchAccepted, accepted, hcode]]
      exact haltedRequest_serves .patch ⟨.supervisor, g⟩ items body hs
    refine patchRequest_cases hs hl hsel ?_
    rcases hc with ⟨rfl, rfl, hcode⟩ | ⟨rfl, rfl, hcode⟩ | ⟨rfl, hcode, n, hn, rfl⟩
    · exact served hcode _
    · exact served hcode _
    · refine (served hcode _).trans ?_
      rw [hn]
      rfl
  · have due (o : Outcome) (ho : execPatchApplied s = o) : exec .patchApplied s = o := ho
    refine ⟨fun free => due _ ?_, fun busy => due _ ?_⟩
    · simp only [execPatchApplied, hs.1, hs.2, hw, free, Bool.or_self, Bool.false_eq_true, if_false, if_true]
      rfl
    · simp only [execPatchApplied, hs.1, hs.2, hw, busy, Bool.or_self, Bool.false_eq_true, if_false]
  · show execPatchApplied s = _
    unfold execPatchApplied
    split
    · rfl
    · split
      · exact absurd ‹_› (hw _)
      · rfl

end Sys2Proof.Machine
end

section
/-! SUPPORT. The grace expiry (R157) as one fold over the records, cell by cell: its flag, its frame, and the pins it
releases where no failing record has a job or an entry. -/
namespace Sys2Proof.Machine

variable {s t u : State} {l : BankLetter}

/-! ### The release of a pin -/

/-- A bank with one pin less (R155, R156). -/
def Bank.release (b : Bank) : Bank :=
  match b.state with
  | .retiring ed _ => if b.pins - 1 = 0 then { b with pins := 0, state := .stale ed } else { b with pins := b.pins - 1 }
  | _ => { b with pins := b.pins - 1 }

theorem Bank.release_retiring {b : Bank} {ed : Nat} {part : Grace} (h : b.state = .retiring ed part) :
    b.release = if b.pins - 1 = 0 then { b with pins := 0, state := .stale ed } else { b with pins := b.pins - 1 } := by
  rw [Bank.release, h]

theorem State.releasePin_bank (s : State) (l : BankLetter) : (s.releasePin l).bank l = (s.bank l).release := by
  have raised (b : Bank) (c : Cause) : ((s.setBank l b).raise c).bank l = b := by cases l <;> rfl
  unfold State.releasePin Bank.release
  dsimp only
  cases (s.bank l).state with
  | retiring ed part =>
    dsimp only
    split
    · exact raised _ _
    · exact State.bank_setBank _ _ _
  | _ => exact State.bank_setBank _ _ _

/-- A RETIRING bank loses its pins one by one and is STALE with the last (R156). -/
theorem Bank.release_iterate {ed : Nat} {part : Grace} (k : Nat) {b : Bank} (hs : b.state = .retiring ed part) :
    (k < b.pins → Bank.release^[k] b = { b with pins := b.pins - k }) ∧
    (0 < b.pins → b.pins ≤ k → Bank.release^[k] b = { b with state := .stale ed, pins := 0 }) := by
  induction k generalizing b with
  | zero => exact ⟨fun _ => rfl, fun _ _ => by omega⟩
  | succ k ih =>
    rw [Function.iterate_succ_apply, Bank.release_retiring hs]
    obtain ⟨few, many⟩ := ih (b := { b with pins := b.pins - 1 }) hs
    refine ⟨fun h => ?_, fun _ h => ?_⟩
    · rw [if_neg (by omega), few (by dsimp only; omega), Nat.sub_sub, Nat.add_comm 1 k]
    · split
      · exact Function.iterate_fixed (f := Bank.release) rfl k
      · exact many (by dsimp only; omega) (by dsimp only; omega)

/-! ### The expiry, cell by cell -/

/-- A RATED record whose quote names a bank. -/
def Rec.quotes (l : BankLetter) (r : Rec) : Bool :=
  match r.body with
  | .rated _ q => q.bank == l
  | _ => false

theorem Rec.quotes_iff {r : Rec} : r.quotes l = true ↔ ∃ e q, r.body = .rated e q ∧ q.bank = l := by
  unfold Rec.quotes
  cases r.body <;> simp

/-- What the expiry does at one cell. -/
def State.lapseCell (l : BankLetter) (handles : Nat → Handle) (u : State) (c : Nat × Rec) : State :=
  match c.2.body with
  | .rated e q =>
    if q.bank = l then
      if c.2.sound then u.toDraft c.1 c.2 e
      else (u.damageRecord c.1 c.2 (.record (handles c.1))).report (.record (handles c.1)) .graceExpiry
    else u
  | _ => u

section
variable (handles : Nat → Handle) (c : Nat × Rec)

theorem State.lapseCell_other (h : c.2.quotes l = false) : s.lapseCell l handles c = s := by
  unfold State.lapseCell
  split
  · rename_i hb
    rw [Rec.quotes, hb] at h
    exact if_neg (by simpa using h)
  · rfl

/-- A quoted record is returned to DRAFT, or damaged and reported. -/
theorem State.lapseCell_quoted (h : c.2.quotes l = true) : ∃ e q, c.2.body = .rated e q ∧ q.bank = l ∧
    s.lapseCell l handles c = if c.2.sound then s.toDraft c.1 c.2 e
      else (s.damageRecord c.1 c.2 (.record (handles c.1))).report (.record (handles c.1)) .graceExpiry := by
  obtain ⟨e, q, hb, hq⟩ := Rec.quotes_iff.1 h
  refine ⟨e, q, hb, hq, ?_⟩
  unfold State.lapseCell
  simp only [hb, hq, if_true]

theorem State.lapseCell_generations : (s.lapseCell l handles c).table.generations = s.table.generations := by
  cases h : c.2.quotes l with
  | false => rw [State.lapseCell_other handles c h]
  | true =>
    obtain ⟨e, q, -, -, lapsed⟩ := s.lapseCell_quoted handles c h
    rw [lapsed]
    split <;> simp [State.toDraft, State.putRecord]

theorem State.lapseCell_integrity (h : c.2.quotes l = true → c.2.sound = true) :
    (s.lapseCell l handles c).integrity = s.integrity := by
  cases hq : c.2.quotes l with
  | false => rw [State.lapseCell_other handles c hq]
  | true =>
    obtain ⟨e, q, -, -, lapsed⟩ := s.lapseCell_quoted handles c hq
    rw [lapsed, if_pos (h hq)]
    simp [State.toDraft, State.putRecord]

end

/-- The expiry of a bank over the cells of the record table (R157). -/
def State.lapseAll (s : State) (l : BankLetter) : State := s.table.records.cells.foldl (State.lapseCell l s.handleAt) s

/-- Whether a record returns to DRAFT. -/
def State.lapses (s : State) (l : BankLetter) : Bool := s.table.records.cells.any fun c => c.2.quotes l && c.2.sound

theorem State.expireGrace_fold (h : risingKeys s.table.records.cells = true) (l : BankLetter) : s.expireGrace l =
    let ended := (s.lapseAll l).setBank l ((s.lapseAll l).bank l).expired
    if s.lapses l then ended.raise .quotesLapsed else ended := by
  have folded : lapseEach (ratedOn l s.table.records.cells) s = (s.lapseAll l, s.lapses l) := by
    refine (lapseEach_eq_foldl s l s.handleAt s.table.records.cells h (fun _ hc => getCell_of_mem h hc)
      fun _ => rfl).trans (Prod.ext rfl (congrArg (s.table.records.cells.any ·) (funext fun c => ?_)))
    rw [Rec.quotes]
    cases c.2.body <;> rfl
  rw [State.expireGrace_eq, folded]

/-- The flag: a record that passes its check is RATED with a quote of the bank. -/
theorem State.lapses_iff (h : risingKeys s.table.records.cells = true) : s.lapses l = true ↔
    ∃ n r e q, s.record n = some r ∧ r.sound = true ∧ r.body = .rated e q ∧ q.bank = l := by
  simp only [State.lapses, List.any_eq_true, Bool.and_eq_true]
  constructor
  · rintro ⟨c, hc, quoted, sound⟩
    obtain ⟨e, q, hb, hq⟩ := Rec.quotes_iff.1 quoted
    exact ⟨c.1, c.2, e, q, getCell_of_mem h hc, sound, hb, hq⟩
  · rintro ⟨n, r, e, q, hr, sound, hb, hq⟩
    exact ⟨(n, r), mem_of_getCell hr, Rec.quotes_iff.2 ⟨e, q, hb, hq⟩, sound⟩

/-- What every cell leaves unchanged the fold does. -/
theorem State.lapseFold_keeps {α : Type} (f : State → α) (handles : Nat → Handle) {cells : List (Nat × Rec)}
    (h : ∀ u, ∀ c ∈ cells, f (u.lapseCell l handles c) = f u) (s : State) :
    f (cells.foldl (State.lapseCell l handles) s) = f s := by
  induction cells generalizing s with
  | nil => rfl
  | cons c rest ih =>
    rw [List.foldl_cons, ih fun u d hd => h u d (List.mem_cons_of_mem _ hd)]
    exact h s c (List.mem_cons_self ..)

/-! ### The bank of a quiet expiry -/

/-- Lapsed without effect on jobs and entries: pins of one bank are released, and every other part concerned stays. -/
structure State.LapsesTo (s t : State) (l : BankLetter) (k : Nat) : Prop where
  bank : t.bank l = Bank.release^[k] (s.bank l)
  other : t.bank (otherBank l) = s.bank (otherBank l)
  answers : t.answers = s.answers
  links : t.links = s.links
  positions : t.positions = s.positions
  units : t.units = s.units
  queue : t.queue = s.queue
  pendingReweigh : t.pendingReweigh = s.pendingReweigh

theorem State.LapsesTo.refl (s : State) (l : BankLetter) : s.LapsesTo s l 0 := ⟨rfl, rfl, rfl, rfl, rfl, rfl, rfl, rfl⟩

theorem State.LapsesTo.trans {j k : Nat} (h : s.LapsesTo t l j) (h' : t.LapsesTo u l k) : s.LapsesTo u l (j + k) where
  bank := by rw [h'.bank, h.bank, ← Function.iterate_add_apply, Nat.add_comm]
  other := h'.other.trans h.other
  answers := h'.answers.trans h.answers
  links := h'.links.trans h.links
  positions := h'.positions.trans h.positions
  units := h'.units.trans h.units
  queue := h'.queue.trans h.queue
  pendingReweigh := h'.pendingReweigh.trans h.pendingReweigh

/-- A record written and its pin released. -/
theorem State.LapsesTo.putRecord_release (s : State) (n : Nat) (r : Rec) (l : BankLetter) :
    s.LapsesTo ((s.putRecord n r).releasePin l) l 1 where
  bank := (State.releasePin_bank _ l).trans (congrArg Bank.release (by cases l <;> rfl))
  other := (State.releasePin_bank_other _ (otherBank_ne l)).trans (by cases l <;> rfl)
  answers := by simp [State.putRecord]
  links := by simp [State.putRecord]
  positions := by simp [State.putRecord]
  units := by simp [State.putRecord]
  queue := by simp [State.putRecord]
  pendingReweigh := by simp [State.putRecord]

theorem State.LapsesTo.report {k : Nat} (h : s.LapsesTo t l k) (x : ReportSubject) (reader : Reader) :
    s.LapsesTo (t.report x reader) l k := by
  have bank (m : BankLetter) : (t.report x reader).bank m = t.bank m := by cases m <;> simp [State.bank]
  exact ⟨(bank l).trans h.bank, (bank _).trans h.other, by simpa using h.answers, by simpa using h.links,
    by simpa using h.positions, by simpa using h.units, by simpa using h.queue, by simpa using h.pendingReweigh⟩

/-- A failing record has neither job nor entry. -/
def State.idleAt (s : State) (h : Handle) : Prop := s.unitOn h = none ∧ ∀ y ∈ s.queue, y.handle ≠ h

/-- One quoted record costs its bank one pin. -/
theorem State.lapseCell_lapses (handles : Nat → Handle) (c : Nat × Rec) (hh : ∀ n, s.handleAt n = handles n)
    (idle : c.2.quotes l = true → c.2.sound = false → s.idleAt (handles c.1)) :
    s.LapsesTo (s.lapseCell l handles c) l (c.2.quotes l).toNat := by
  cases h : c.2.quotes l with
  | false =>
    rw [State.lapseCell_other handles c h]
    exact .refl _ _
  | true =>
    obtain ⟨e, q, hb, hq, lapsed⟩ := s.lapseCell_quoted handles c h
    have released (t : State) : t.releaseBodyPin c.2.body = t.releasePin l := by
      rw [State.releaseBodyPin_eq, hb, ← hq]
      rfl
    rw [lapsed]
    split
    · rw [State.toDraft, released]
      exact .putRecord_release _ _ _ _
    · rename_i failing
      obtain ⟨unit, queue⟩ := idle h (by simpa using failing)
      rw [State.damageRecord_idle _ _ _ _ (fun _ => by rw [hb]; nofun) (by rwa [hh]) (by rwa [hh]), released]
      exact (State.LapsesTo.putRecord_release _ _ _ _).report _ _

theorem State.lapseFold_lapses (handles : Nat → Handle) (cells : List (Nat × Rec)) (s : State)
    (hh : ∀ n, s.handleAt n = handles n)
    (idle : ∀ c ∈ cells, c.2.quotes l = true → c.2.sound = false → s.idleAt (handles c.1)) :
    s.LapsesTo (cells.foldl (State.lapseCell l handles) s) l (cells.countP fun c => c.2.quotes l) := by
  induction cells generalizing s with
  | nil => exact .refl _ _
  | cons c rest ih =>
    have head := State.lapseCell_lapses handles c hh (idle c (List.mem_cons_self ..))
    have tail := ih (s.lapseCell l handles c)
      (fun n => by rw [← hh n, State.handleAt, State.generation, State.lapseCell_generations]; rfl)
      fun d hd hq hs => by
        obtain ⟨unit, queue⟩ := idle d (List.mem_cons_of_mem _ hd) hq hs
        exact ⟨by simpa only [State.unitOn, State.unit, head.units] using unit,
          by rwa [head.queue]⟩
    have counted := head.trans tail
    rw [List.foldl_cons, List.countP_cons, Nat.add_comm]
    cases hq : c.2.quotes l <;> simpa [hq] using counted

end Sys2Proof.Machine
end

section
/-! The grace expiry (R157) and the release of a pin (R156): O47. -/
namespace Sys2Proof.Machine

variable {s : State} {l : BankLetter}

/-! ### What the expiry leaves -/

/-- A RETIRING bank whose grace has expired and that has lost pins. -/
theorem Bank.release_expired {b : Bank} {ed : Nat} {part : Grace} (k : Nat) (hs : b.state = .retiring ed part) :
    (k < b.pins → (Bank.release^[k] b).expired = { b with state := .retiring ed .expired, pins := b.pins - k }) ∧
    (0 < b.pins → b.pins ≤ k → (Bank.release^[k] b).expired = { b with state := .stale ed, pins := 0 }) := by
  obtain ⟨few, many⟩ := Bank.release_iterate k hs
  refine ⟨fun h => ?_, fun h h' => ?_⟩
  · rw [few h]
    simp only [Bank.expired, hs]
  · rw [many h h']
    rfl

section
variable (h : risingKeys s.table.records.cells = true) (l)
include h

theorem State.expireGrace_record (n : Nat) : (s.expireGrace l).record n = (s.record n).map (Rec.afterLapse l) := by
  unfold State.record
  rw [State.expireGrace_records s l h]
  exact getCell_mapValues _ _ _

/-- A record that is not RATED with a quote of the bank stays. -/
theorem State.expireGrace_record_other (n : Nat)
    (other : ∀ r e q, s.record n = some r → r.body = .rated e q → q.bank ≠ l) :
    (s.expireGrace l).record n = s.record n := by
  rw [State.expireGrace_record l h]
  cases hr : s.record n with
  | none => rfl
  | some r =>
    refine congrArg some ?_
    unfold Rec.afterLapse
    split
    · exact if_neg (other r _ _ hr ‹_›)
    · rfl

/-- A RATED record whose quote names the bank returns to DRAFT, or is damaged where its read fails. -/
theorem State.expireGrace_record_rated {n : Nat} {r : Rec} {e : Entered} {q : Quote} (hr : s.record n = some r)
    (hb : r.body = .rated e q) (hq : q.bank = l) :
    (r.sound = true → (s.expireGrace l).record n = some { r with
      changeCount := (r.changeCount + 1) % 65536, sound := true, body := .draft e }) ∧
    (r.sound = false → (s.expireGrace l).record n =
      some ⟨r.owner, (r.changeCount + 1) % 65536, false, false, true, .damaged none⟩) := by
  rw [State.expireGrace_record l h, hr]
  refine ⟨fun sound => ?_, fun failing => ?_⟩
  · simp only [Option.map_some, Rec.afterLapse, hb, hq, sound, if_true, Rec.change]
  · simp only [Option.map_some, Rec.afterLapse, hb, hq, failing, if_true, Bool.false_eq_true, if_false, Rec.damage_eq,
      RecordBody.label]

theorem State.expireGrace_generations : (s.expireGrace l).table.generations = s.table.generations := by
  have folded : (s.lapseAll l).table.generations = s.table.generations :=
    State.lapseFold_keeps (fun u => u.table.generations) _ (fun u c _ => u.lapseCell_generations s.handleAt c) s
  rw [State.expireGrace_fold h]
  dsimp only
  split <;> simpa using folded

/-- Only a failing record is reported. -/
theorem State.expireGrace_integrity
    (sound : ∀ n r e q, s.record n = some r → r.sound = false → r.body = .rated e q → q.bank ≠ l) :
    (s.expireGrace l).integrity = s.integrity := by
  have folded : (s.lapseAll l).integrity = s.integrity :=
    State.lapseFold_keeps State.integrity _ (fun u c hc => u.lapseCell_integrity s.handleAt c fun hq => by
      obtain ⟨e, q, hb, hq⟩ := Rec.quotes_iff.1 hq
      by_contra failing
      exact sound c.1 c.2 e q (getCell_of_mem h hc) (by simpa using failing) hb hq) s
  rw [State.expireGrace_fold h]
  dsimp only
  split <;> simpa using folded

/-- QUOTES LAPSED is raised where a record returned. -/
theorem State.expireGrace_raises
    (returned : ∃ n r e q, s.record n = some r ∧ r.sound = true ∧ r.body = .rated e q ∧ q.bank = l) :
    (s.expireGrace l).judge.attention.pending.quotesLapsed = true := by
  rw [State.expireGrace_fold h]
  dsimp only
  rw [if_pos ((State.lapses_iff h).2 returned)]
  rfl

/-- What becomes of banks, links, positions, units and queue where no failing record has a job or an entry. -/
theorem State.expireGrace_quiet
    (idle : ∀ n r e q, s.record n = some r → r.sound = false → r.body = .rated e q → q.bank = l →
      s.idleAt (s.handleAt n)) :
    (s.expireGrace l).bank l = (Bank.release^[s.ratedCount l] (s.bank l)).expired ∧
    (s.expireGrace l).bank (otherBank l) = s.bank (otherBank l) ∧ (s.expireGrace l).answers = s.answers ∧
    (s.expireGrace l).links = s.links ∧ (s.expireGrace l).positions = s.positions ∧
    (s.expireGrace l).units = s.units ∧ (s.expireGrace l).queue = s.queue ∧
    (s.expireGrace l).pendingReweigh = s.pendingReweigh := by
  have lapsed : s.LapsesTo (s.lapseAll l) l (s.ratedCount l) :=
    State.lapseFold_lapses s.handleAt s.table.records.cells s (fun _ => rfl) fun c hc hq failing => by
      obtain ⟨e, q, hb, hq⟩ := Rec.quotes_iff.1 hq
      exact idle c.1 c.2 e q (getCell_of_mem h hc) failing hb hq
  have ended := State.bank_setBank (s.lapseAll l) l ((s.lapseAll l).bank l).expired
  have other := State.bank_setBank_other (s.lapseAll l) l (otherBank l) ((s.lapseAll l).bank l).expired (otherBank_ne l)
  rw [State.expireGrace_fold h, ← lapsed.bank, ← lapsed.other]
  have raised (t : State) (c : Cause) (m : BankLetter) : (t.raise c).bank m = t.bank m := by cases m <;> rfl
  dsimp only
  split
  all_goals
    refine ⟨?_, ?_, by simp [lapsed.answers], by simp [lapsed.links], by simp [lapsed.positions],
      by simp [lapsed.units], by simp [lapsed.queue], by simp [lapsed.pendingReweigh]⟩
  · exact (raised _ _ _).trans ended
  · exact (raised _ _ _).trans other
  · exact ended
  · exact other

end

/-! ### The event and the obligation -/

theorem exec_graceExpiry (live : s.Live) (l : BankLetter) :
    exec (.graceExpiry l) s = if (s.bank l).graceDue then .next (s.expireGrace l).judge else .next s := by
  show execGraceExpiry l s = _
  obtain ⟨released, running⟩ := live
  rw [execGraceExpiry, released, running]
  rfl

/-- The release of a pin lowers the count by one and drains a RETIRING bank at 0 (R156). -/
theorem State.releasePin_cases (s : State) (l : BankLetter) :
    (∀ edition grace, (s.bank l).state = .retiring edition grace → (s.bank l).pins = 1 →
      s.releasePin l = (s.setBank l { s.bank l with pins := 0, state := .stale edition }).raise .bankRetired) ∧
    (1 < (s.bank l).pins → s.releasePin l = s.setBank l { s.bank l with pins := (s.bank l).pins - 1 }) ∧
    ((∀ edition grace, (s.bank l).state ≠ .retiring edition grace) →
      s.releasePin l = s.setBank l { s.bank l with pins := (s.bank l).pins - 1 }) := by
  unfold State.releasePin
  dsimp only
  refine ⟨fun edition grace hs hp => ?_, fun hp => ?_, fun hs => ?_⟩
  · rw [hs, hp]
    rfl
  · split
    · exact if_neg (by omega)
    · rfl
  · split
    · exact absurd ‹_› (hs _ _)
    · rfl

/-- The expiry as the fold over the records that O47 writes out. -/
theorem State.expireGrace_of_fold {u w : State} (h : risingKeys s.table.records.cells = true)
    (hu : u = s.lapseAll l)
    (retiring : ∀ edition part, (u.bank l).state = .retiring edition part →
      w = u.setBank l { u.bank l with state := .retiring edition .expired })
    (other : (∀ edition part, (u.bank l).state ≠ .retiring edition part) → w = u) :
    s.expireGrace l = if s.lapses l then w.raise .quotesLapsed else w := by
  have ended : w = u.setBank l (u.bank l).expired := by
    unfold Bank.expired
    split
    · exact retiring _ _ ‹_›
    · rw [State.setBank_bank]
      exact other ‹_›
  rw [State.expireGrace_fold h, ended, hu]

/-- Settles O47: the expiry is one fold over the records; each record changes by itself, each quoted one costs a pin. -/
theorem graceExpiryLapsesQuotes : Obligations.GraceExpiryLapsesQuotes := by
  unfold Obligations.GraceExpiryLapsesQuotes
  refine ⟨fun s l live => ⟨fun due => ?_, fun due => ?_⟩, fun s t u w l hc ht hu retiring other => ?_,
    fun s t l hc ht => ?_, State.releasePin_cases⟩
  · rw [exec_graceExpiry live, if_pos due]
  · rw [exec_graceExpiry live, due, if_neg Bool.false_ne_true]
  · have rising := State.canonical_records s hc
    have folded : t = if s.lapses l then w.raise .quotesLapsed else w :=
      ht.trans (State.expireGrace_of_fold rising hu retiring other)
    refine ⟨fun returned => ?_, fun kept => ?_⟩
    · rw [folded, if_pos ((State.lapses_iff rising).2 returned)]
    · refine folded.trans (if_neg fun lapses => ?_)
      obtain ⟨n, r, e, q, hr, sound, hb, hq⟩ := (State.lapses_iff rising).1 lapses
      exact kept n r e q hr sound hb hq
  · have rising := State.canonical_records s hc
    subst ht
    refine ⟨fun n r e q hr hb hq => State.expireGrace_record_rated l rising hr hb hq,
      fun n => State.expireGrace_record_other l rising n, State.expireGrace_raises l rising,
      State.expireGrace_index s l, State.expireGrace_generations l rising, State.expireGrace_grantState s l, State.expireGrace_pool s l,
      State.expireGrace_hallTime s l, State.expireGrace_timers s l, State.expireGrace_integrity l rising,
      fun idle => ?_⟩
    obtain ⟨bank, others⟩ := State.expireGrace_quiet l rising idle
    refine ⟨fun edition part hs => ?_, others⟩
    rw [bank]
    exact Bank.release_expired _ hs

end Sys2Proof.Machine
end

section
/-! The switch (R154): O46. -/
namespace Sys2Proof.Machine

variable {s : State} {l : BankLetter} {edition effective grace old : Nat}

/-! ### The outgoing bank -/

/-- A bank that was not ACTIVE does not go out of office (R154). -/
theorem State.retireOutgoing_inactive (h : (s.bank l).state.isActive = false) (grace : Nat) :
    s.retireOutgoing l grace = s := by
  unfold State.retireOutgoing
  dsimp only
  split
  · rename_i hs
    rw [hs] at h
    cases h
  · rfl

theorem State.retireOutgoing_active (h : (s.bank l).state = .active old) (grace : Nat) :
    s.retireOutgoing l grace =
      if 0 < (s.bank l).pins then s.setBank l { s.bank l with state := .retiring old (.running grace) }
      else s.setBank l { s.bank l with state := .stale old } := by
  unfold State.retireOutgoing
  simp only [h]

/-! ### The switch taken -/

/-- The state in which the switch has taken effect on both banks, before a grace of 0 expires (R154). -/
def State.switched (s : State) (l : BankLetter) (edition : Nat) (outgoing : Bank) : State :=
  ((s.setBank l { s.bank l with state := .active edition }).setBank (otherBank l) outgoing).raise .switchTaken

section
variable (outgoing : Bank)

theorem State.switched_bank : (s.switched l edition outgoing).bank l = { s.bank l with state := .active edition } := by
  cases l <;> rfl

theorem State.switched_bank_other : (s.switched l edition outgoing).bank (otherBank l) = outgoing := by
  cases l <;> rfl

theorem State.switched_table : (s.switched l edition outgoing).table = s.table := by cases l <;> rfl

theorem State.switched_units : (s.switched l edition outgoing).units = s.units := by cases l <;> rfl

theorem State.switched_queue : (s.switched l edition outgoing).queue = s.queue := by cases l <;> rfl

end

section
variable (hs : (s.bank l).state = .scheduled edition effective grace)
include hs

/-- With no ACTIVE bank besides the switch changes one bank. -/
theorem State.takeSwitch_alone (other : (s.bank (otherBank l)).state.isActive = false) :
    s.takeSwitch l = (s.setBank l { s.bank l with state := .active edition }).raise .switchTaken := by
  unfold State.takeSwitch
  simp only [hs, other, Bool.false_and, Bool.false_eq_true, if_false]
  rw [State.retireOutgoing_inactive (by rwa [State.bank_setBank_other _ _ _ _ (otherBank_ne l)])]

variable (other : (s.bank (otherBank l)).state = .active old)
include other

/-- An ACTIVE bank besides goes out of office; where its grace is over with that, it expires in the same step. -/
theorem State.takeSwitch_outgoing {outgoing : Bank} (hb : outgoing =
      if 0 < (s.bank (otherBank l)).pins then { s.bank (otherBank l) with state := .retiring old (.running grace) }
      else { s.bank (otherBank l) with state := .stale old }) :
    s.takeSwitch l = if outgoing.graceDue then (s.switched l edition outgoing).expireGrace (otherBank l)
      else s.switched l edition outgoing := by
  have bank := State.bank_setBank_other s l (otherBank l) { s.bank l with state := .active edition } (otherBank_ne l)
  have out : (s.setBank l { s.bank l with state := .active edition }).retireOutgoing (otherBank l) grace =
      (s.setBank l { s.bank l with state := .active edition }).setBank (otherBank l) outgoing := by
    rw [State.retireOutgoing_active (bank ▸ other), bank, hb]
    split <;> rfl
  have active : (BankState.active old).isActive = true := rfl
  unfold State.takeSwitch
  simp only [hs, other, active, Bool.true_and, out]
  rw [← State.switched, State.switched_bank_other]

end

/-! ### A grace of 0 -/

/-- With a grace of 0 and pins the expiry of the outgoing bank follows: the records and the pins (R154, R157). -/
theorem State.switched_expireGrace (hc : s.canonical = true) {outgoing : Bank}
    (hb : outgoing.state = .retiring old (.running 0)) (pinned : 0 < outgoing.pins) :
    let t := (s.switched l edition outgoing).expireGrace (otherBank l)
    ((∀ n r e q, s.record n = some r → r.sound = false → r.body = .rated e q → q.bank = otherBank l →
        s.idleAt (s.handleAt n)) →
      t.bank l = { s.bank l with state := .active edition } ∧
      (s.ratedCount (otherBank l) < outgoing.pins → t.bank (otherBank l) =
        { outgoing with state := .retiring old .expired, pins := outgoing.pins - s.ratedCount (otherBank l) }) ∧
      (outgoing.pins ≤ s.ratedCount (otherBank l) →
        t.bank (otherBank l) = { outgoing with state := .stale old, pins := 0 })) ∧
    (∀ n r e q, s.record n = some r → r.body = .rated e q → q.bank = otherBank l →
      (r.sound = true → t.record n = some { r with
        changeCount := (r.changeCount + 1) % 65536, sound := true, body := .draft e }) ∧
      (r.sound = false → t.record n =
        some ⟨r.owner, (r.changeCount + 1) % 65536, false, false, true, .damaged none⟩)) ∧
    ∀ n, (∀ r e q, s.record n = some r → r.body = .rated e q → q.bank ≠ otherBank l) → t.record n = s.record n := by
  have table := State.switched_table (s := s) (l := l) (edition := edition) outgoing
  have rising : risingKeys (s.switched l edition outgoing).table.records.cells = true := by
    rw [table]
    exact State.canonical_records s hc
  have record (n : Nat) : (s.switched l edition outgoing).record n = s.record n := by rw [State.record, table]; rfl
  have handle (n : Nat) : (s.switched l edition outgoing).handleAt n = s.handleAt n := by
    rw [State.handleAt, State.generation, table]
    rfl
  have count : (s.switched l edition outgoing).ratedCount (otherBank l) = s.ratedCount (otherBank l) := by
    rw [State.ratedCount, table]
    rfl
  have idleAt (h : Handle) (idle : s.idleAt h) : (s.switched l edition outgoing).idleAt h := by
    obtain ⟨unit, queue⟩ := idle
    refine ⟨?_, by rwa [State.switched_queue]⟩
    simpa only [State.unitOn, State.unit, State.switched_units] using unit
  have back : otherBank (otherBank l) = l := by cases l <;> rfl
  dsimp only
  refine ⟨fun idle => ?_, fun n r e q hr hb hq => ?_, fun n other => ?_⟩
  · obtain ⟨bank, incoming, -⟩ := State.expireGrace_quiet (otherBank l) rising fun n r e q hr failing hb hq => by
      rw [record] at hr
      rw [handle]
      exact idleAt _ (idle n r e q hr failing hb hq)
    rw [back] at incoming
    rw [State.switched_bank_other, count] at bank
    obtain ⟨few, many⟩ := Bank.release_expired (s.ratedCount (otherBank l)) hb
    exact ⟨incoming.trans (State.switched_bank outgoing), fun h => bank.trans (few h),
      fun h => bank.trans (many pinned h)⟩
  · exact State.expireGrace_record_rated (otherBank l) rising ((record n).trans hr) hb hq
  · rw [← record n] at other ⊢
    exact State.expireGrace_record_other (otherBank l) rising n other

/-! ### The event -/

theorem exec_switch (live : s.Live) : exec .switch s = match s.dueBank with
    | some l => .next (s.takeSwitch l).judge
    | none => .next s := by
  show execSwitch s = _
  obtain ⟨released, running⟩ := live
  rw [execSwitch, released, running]
  rfl

theorem Bank.switchDue_scheduled {b : Bank} (hs : b.state = .scheduled edition effective grace) (time : Nat) :
    b.switchDue time = decide (effective ≤ time) := by rw [Bank.switchDue, hs]

theorem Bank.switchDue_other {b : Bank} (hs : b.state.name ≠ .scheduled) (time : Nat) : b.switchDue time = false := by
  unfold Bank.switchDue
  split
  · rename_i h
    rw [h] at hs
    exact absurd rfl hs
  · rfl

/-- The one SCHEDULED bank is due from its effective time on. -/
theorem State.dueBank_scheduled (hs : (s.bank l).state = .scheduled edition effective grace)
    (other : (s.bank (otherBank l)).state.name ≠ .scheduled) :
    s.dueBank = if effective ≤ s.hallTime then some l else none := by
  have due := Bank.switchDue_scheduled hs s.hallTime
  have idle := Bank.switchDue_other other s.hallTime
  unfold State.dueBank
  cases l
  · rw [show s.bankA.switchDue s.hallTime = _ from due, show s.bankB.switchDue s.hallTime = false from idle]
    simp
  · rw [show s.bankB.switchDue s.hallTime = _ from due, show s.bankA.switchDue s.hallTime = false from idle]
    simp

theorem State.dueBank_none (h : ∀ l, (s.bank l).state.name ≠ .scheduled) : s.dueBank = none := by
  have idle (l : BankLetter) := Bank.switchDue_other (h l) s.hallTime
  rw [State.dueBank, show s.bankA.switchDue s.hallTime = false from idle .a,
    show s.bankB.switchDue s.hallTime = false from idle .b]
  rfl

/-- Settles O46: the outgoing bank's three fates, the expiry of a grace of 0 as O47 has it, and the event. -/
theorem switchTakesEffect : Obligations.SwitchTakesEffect := by
  unfold Obligations.SwitchTakesEffect
  refine ⟨fun s l edition effective grace => State.takeSwitch_alone, fun s l edition effective grace old hs other => ?_,
    fun s live => ⟨fun l edition effective grace hs other => ⟨fun reached => ?_, fun ahead => ?_⟩, fun none => ?_⟩⟩
  · have taken := @State.takeSwitch_outgoing _ _ _ _ _ _ hs other
    refine ⟨fun empty => ?_, fun pinned running => ?_, fun pinned zero => ?_, fun pinned zero hc => ?_⟩
    · exact taken (if_neg (by omega)).symm
    · obtain ⟨n, rfl⟩ := Nat.exists_eq_succ_of_ne_zero running.ne'
      exact taken (if_pos pinned).symm
    · subst zero
      exact taken (if_pos pinned).symm
    · subst zero
      rw [(taken (if_pos pinned).symm).trans (if_pos rfl)]
      exact State.switched_expireGrace hc rfl pinned
  · rw [exec_switch live, State.dueBank_scheduled hs other, if_pos reached]
  · rw [exec_switch live, State.dueBank_scheduled hs other, if_neg (Nat.not_le.2 ahead)]
  · rw [exec_switch live, State.dueBank_none none]

end Sys2Proof.Machine
end

section
/-! SUPPORT. The steps of BANK VERIFY (R151, R152): the forms, what each step answers at one entry, and when a step
finds nothing. -/
namespace Sys2Proof.Machine

/-- A check passes where what it demands holds and the rest passes. -/
theorem ite_some_eq_none {α : Type} {p : Prop} [Decidable p] {a : Option α} {x : α} :
    (if p then a else some x) = none ↔ p ∧ a = none := by
  split <;> simp [*]

/-- One form has one reason. -/
theorem ite_none_some {α : Type} (p : Prop) [Decidable p] (x : α) :
    (if p then none else some x) = none ∨ (if p then none else some x) = some x := by
  split <;> simp

/-! ### The forms -/

theorem Segment.inForm_iff {g : Segment} : g.inForm = true ↔ 1 ≤ g.first ∧ g.first ≤ g.last ∧ g.last ≤ 999 := by
  simp only [Segment.inForm, within, Bool.and_eq_true, decide_eq_true_eq]
  omega

theorem Zone.inForm_iff {z : Zone} : z.inForm = true ↔
    z.low ≤ z.high ∧ z.high ≤ 10999 ∧ 1 ≤ z.zone ∧ z.zone ≤ 12 ∧ z.sortCode ≤ 999 := by
  simp only [Zone.inForm, within, Bool.and_eq_true, decide_eq_true_eq]
  omega

/-- Limits that rise from band to band rise throughout. -/
theorem risingLimits_iff {bands : List Band} :
    risingLimits bands = true ↔ bands.Pairwise fun y z => y.limit < z.limit := by
  induction bands with
  | nil => simp [risingLimits]
  | cons band rest ih =>
    rw [risingLimits, Bool.and_eq_true, ih, List.pairwise_cons]
    refine and_congr_left fun rising => ?_
    cases rest with
    | nil => simp
    | cons next rest =>
      have beyond := (List.pairwise_cons.1 rising).1
      simp only [List.head?_cons, Option.all_some, decide_eq_true_eq, List.forall_mem_cons]
      exact ⟨fun h => ⟨h, fun z hz => h.trans (beyond z hz)⟩, fun h => h.1⟩

theorem Descriptor.service_outOfForm (d : Service) : (Descriptor.service d).outOfForm =
    (if d.grade ≤ 3 ∧ 65 ≤ d.letters.1 ∧ d.letters.1 ≤ 90 ∧ 65 ≤ d.letters.2 ∧ d.letters.2 ≤ 90 ∧
      d.surcharges.length ≤ 6 then none else some .serviceForm) := by
  simp only [Descriptor.outOfForm, within, Bool.and_eq_true, decide_eq_true_eq, and_assoc]

theorem Descriptor.rate_outOfForm (bands : List Band) :
    ((Descriptor.rate bands).outOfForm = none ∨ (Descriptor.rate bands).outOfForm = some .rateForm) ∧
    ((Descriptor.rate bands).outOfForm = none ↔ 1 ≤ bands.length ∧ bands.length ≤ 8 ∧
      (∀ y ∈ bands, 1 ≤ y.limit ∧ y.limit ≤ 40000 ∧ ∀ n ∈ y.prices, n ≤ 9999999) ∧
      bands.Pairwise fun y z => y.limit < z.limit) := by
  refine ⟨ite_none_some _ _, ite_some_eq_none.trans ?_⟩
  simp only [Bool.and_eq_true, risingLimits_iff, within, decide_eq_true_eq, List.all_eq_true, Nat.zero_le, true_and,
    and_true]
  constructor
  · rintro ⟨⟨⟨length, limits⟩, rising⟩, prices⟩
    exact ⟨length.1, length.2, fun y hy => ⟨(limits y hy).1, (limits y hy).2, prices y hy⟩, rising⟩
  · rintro ⟨low, high, each, rising⟩
    exact ⟨⟨⟨⟨low, high⟩, fun y hy => ⟨(each y hy).1, (each y hy).2.1⟩⟩, rising⟩, fun y hy => (each y hy).2.2⟩

theorem Amount.inForm_iff (a : Amount) : a.inForm = true ↔
    (∀ n, a = .fixed n → -999999 ≤ n ∧ n ≤ 999999) ∧ ∀ n, a = .perMille n → n ≤ 1000 := by
  cases a <;> simp [Amount.inForm]

theorem Descriptor.surcharge_outOfForm (x : Surcharge) :
    ((Descriptor.surcharge x).outOfForm = none ∨ (Descriptor.surcharge x).outOfForm = some .surchargeForm) ∧
    ((Descriptor.surcharge x).outOfForm = none ↔ x.grade ≤ 3 ∧ x.threshold ≤ 99999999 ∧
      (∀ n, x.amount = .fixed n → -999999 ≤ n ∧ n ≤ 999999) ∧ ∀ n, x.amount = .perMille n → n ≤ 1000) := by
  refine ⟨ite_none_some _ _, ite_some_eq_none.trans ?_⟩
  simp only [Bool.and_eq_true, Amount.inForm_iff, within, decide_eq_true_eq, Nat.zero_le, true_and, and_true, and_assoc]

/-! ### Step 2: the segments -/

section
variable (n : Nat) {c : Cell Segment} (rest : List (Nat × Cell Segment))

theorem verifySegments_marked (h : c.damaged = true) :
    verifySegments ((n, c) :: rest) = some (.marked (.segment n)) := by
  simp only [verifySegments, h, if_true]

theorem verifySegments_failing (h : c.damaged = false) (hs : c.sound = false) :
    verifySegments ((n, c) :: rest) = some (.badRead (.segment n)) := by
  simp only [verifySegments, h, hs, Bool.false_eq_true, if_false, Bool.not_false, if_true]

theorem verifySegments_read (h : c.damaged = false) (hs : c.sound = true) :
    (c.content = none → verifySegments ((n, c) :: rest) = verifySegments rest) ∧
    ∀ x, c.content = some x → verifySegments ((n, c) :: rest) =
      if 1 ≤ x.first ∧ x.first ≤ x.last ∧ x.last ≤ 999 then verifySegments rest
      else some (.malformed .segmentForm (.entry (.segment n))) := by
  refine ⟨fun hc => ?_, fun x hc => ?_⟩
  · simp only [verifySegments, h, hs, hc, Bool.not_true, Bool.false_eq_true, if_false]
  · simp only [verifySegments, h, hs, hc, Bool.not_true, Bool.false_eq_true, if_false, Segment.inForm_iff]

end

/-- A segment that step 2 passes. -/
def Cell.segmentPasses (c : Cell Segment) : Prop :=
  c.damaged = false ∧ c.sound = true ∧ ∀ x, c.content = some x → 1 ≤ x.first ∧ x.first ≤ x.last ∧ x.last ≤ 999

theorem verifySegments_eq_none {cells : List (Nat × Cell Segment)} :
    verifySegments cells = none ↔ ∀ c ∈ cells, c.2.segmentPasses := by
  induction cells with
  | nil => simp [verifySegments]
  | cons head rest ih =>
    obtain ⟨n, c⟩ := head
    rw [List.forall_mem_cons, ← ih, Cell.segmentPasses]
    cases h : c.damaged with
    | true => simp [verifySegments_marked n rest h]
    | false =>
      cases hs : c.sound with
      | false => simp [verifySegments_failing n rest h hs]
      | true =>
        obtain ⟨unused, used⟩ := verifySegments_read n rest h hs
        cases hc : c.content with
        | none => simp [unused hc]
        | some x =>
          rw [used x hc, ite_some_eq_none]
          simp

/-! ### Step 3: the chain -/

/-- What step 3 answers at a segment of the chain (R25). -/
theorem verifyChain_step (b : Bank) (fuel : Nat) (reached : List Nat) (n : Nat) :
    (n ∈ reached → verifyChain b (fuel + 1) reached n = some (.malformed .chain (.entry (.segment n)))) ∧
    (n ∉ reached →
      ((b.segmentCell n).content = none → verifyChain b (fuel + 1) reached n = none) ∧
      ∀ x, (b.segmentCell n).content = some x →
        (x.next = none → verifyChain b (fuel + 1) reached n = none) ∧
        ∀ m, x.next = some m → verifyChain b (fuel + 1) reached n = verifyChain b fuel (n :: reached) m) := by
  refine ⟨fun again => ?_, fun fresh => ⟨fun hc => ?_, fun x hc => ⟨fun hn => ?_, fun m hn => ?_⟩⟩⟩
  · rw [verifyChain, if_pos (by simpa using again)]
  all_goals rw [verifyChain, if_neg (by simpa using fresh), hc]
  all_goals simp only [hn]

/-- The segments of a list are linked one to the next, and the last ends the chain. -/
def Bank.Links (b : Bank) (path : List Nat) : Prop :=
  ∀ (i m : Nat), path[i]? = some m →
    (path[i + 1]? = none → ∀ x, (b.segmentCell m).content = some x → x.next = none) ∧
    ∀ k, path[i + 1]? = some k → ∃ x, (b.segmentCell m).content = some x ∧ x.next = some k

theorem Bank.Links.tail {b : Bank} {m : Nat} {path : List Nat} (h : b.Links (m :: path)) : b.Links path :=
  fun i => h (i + 1)

/-- A chain that visits fresh segments only and ends passes step 3. -/
theorem verifyChain_links {b : Bank} {path reached : List Nat} {m fuel : Nat} (links : b.Links (m :: path))
    (distinct : (m :: path).Nodup) (fresh : ∀ n ∈ m :: path, n ∉ reached) : verifyChain b fuel reached m = none := by
  induction path generalizing m reached fuel with
  | nil =>
    cases fuel with
    | zero => rfl
    | succ fuel =>
      obtain ⟨unused, used⟩ := (verifyChain_step b fuel reached m).2 (fresh m (List.mem_cons_self ..))
      cases hc : (b.segmentCell m).content with
      | none => exact unused hc
      | some x => exact (used x hc).1 ((links 0 m rfl).1 rfl x hc)
  | cons k path ih =>
    cases fuel with
    | zero => rfl
    | succ fuel =>
      obtain ⟨x, hc, hk⟩ := (links 0 m rfl).2 k rfl
      obtain ⟨apart, rest⟩ := List.nodup_cons.1 distinct
      rw [(((verifyChain_step b fuel reached m).2 (fresh m (List.mem_cons_self ..))).2 x hc).2 k hk]
      refine ih links.tail rest fun n hn again => ?_
      rcases List.mem_cons.1 again with rfl | again
      · exact apart hn
      · exact fresh n (List.mem_cons_of_mem _ hn) again

/-! ### Step 4: the places -/

section
variable (before : Option Nat) (n : Nat) {c : Cell Zone} (rest : List (Nat × Cell Zone))

theorem verifyPlaces_marked (h : c.damaged = true) :
    verifyPlaces before ((n, c) :: rest) = some (.marked (.place n)) := by
  simp only [verifyPlaces, h, if_true]

theorem verifyPlaces_failing (h : c.damaged = false) (hs : c.sound = false) :
    verifyPlaces before ((n, c) :: rest) = some (.badRead (.place n)) := by
  simp only [verifyPlaces, h, hs, Bool.false_eq_true, if_false, Bool.not_false, if_true]

theorem verifyPlaces_unused (h : c.damaged = false) (hs : c.sound = true) (hc : c.content = none) :
    verifyPlaces before ((n, c) :: rest) = verifyPlaces before rest := by
  simp only [verifyPlaces, h, hs, hc, Bool.not_true, Bool.false_eq_true, if_false]

theorem verifyPlaces_outOfForm (h : c.damaged = false) (hs : c.sound = true) {z : Zone} (hc : c.content = some z)
    (hz : ¬z.inForm = true) :
    verifyPlaces before ((n, c) :: rest) = some (.malformed .zoneForm (.entry (.place n))) := by
  simp only [verifyPlaces, h, hs, hc, hz, Bool.not_true, Bool.not_false, Bool.false_eq_true, if_false, if_true]

theorem verifyPlaces_inForm (h : c.damaged = false) (hs : c.sound = true) {z : Zone} (hc : c.content = some z)
    (hz : z.inForm = true) :
    (∀ high, before = some high → z.low ≤ high →
      verifyPlaces before ((n, c) :: rest) = some (.malformed .zoneOrder (.entry (.place n)))) ∧
    ((∀ high, before = some high → high < z.low) →
      verifyPlaces before ((n, c) :: rest) = verifyPlaces (some z.high) rest) := by
  simp only [verifyPlaces, h, hs, hc, hz, Bool.not_true, Bool.false_eq_true, if_false]
  refine ⟨fun high hb overlap => ?_, fun order => ?_⟩
  · rw [hb, if_pos (by simpa using overlap)]
  · refine if_neg fun overlap => ?_
    obtain ⟨high, hb, overlap⟩ := (Option.any_eq_true _ _).1 overlap
    exact absurd (order high hb) (by simpa using overlap)

end

/-- A place that step 4 passes by itself. -/
def Cell.placePasses (c : Cell Zone) : Prop :=
  c.damaged = false ∧ c.sound = true ∧ ∀ z, c.content = some z →
    z.low ≤ z.high ∧ z.high ≤ 10999 ∧ 1 ≤ z.zone ∧ z.zone ≤ 12 ∧ z.sortCode ≤ 999

/-- The zones of the used places. -/
abbrev usedZones (cells : List (Nat × Cell Zone)) : List Zone := cells.filterMap fun c => c.2.content

theorem verifyPlaces_eq_none {before : Option Nat} {cells : List (Nat × Cell Zone)} :
    verifyPlaces before cells = none ↔ (∀ c ∈ cells, c.2.placePasses) ∧
      ((usedZones cells).Pairwise fun x y => x.high < y.low) ∧
      ∀ high, before = some high → ∀ z ∈ usedZones cells, high < z.low := by
  induction cells generalizing before with
  | nil => simp [verifyPlaces, usedZones]
  | cons head rest ih =>
    obtain ⟨n, c⟩ := head
    rw [List.forall_mem_cons, Cell.placePasses, usedZones, List.filterMap_cons]
    cases h : c.damaged with
    | true => simp [verifyPlaces_marked before n rest h]
    | false =>
      cases hs : c.sound with
      | false => simp [verifyPlaces_failing before n rest h hs]
      | true =>
        cases hc : c.content with
        | none => simp [verifyPlaces_unused before n rest h hs hc, ih]
        | some z =>
          by_cases hz : z.inForm = true
          · obtain ⟨overlaps, follows⟩ := verifyPlaces_inForm before n rest h hs hc hz
            have form := Zone.inForm_iff.1 hz
            by_cases order : ∀ high, before = some high → high < z.low
            · rw [follows order, ih]
              simp only [List.pairwise_cons, List.forall_mem_cons, Option.some.injEq, forall_eq', true_and]
              constructor
              · rintro ⟨passes, sorted, beyond⟩
                exact ⟨⟨form, passes⟩, ⟨beyond, sorted⟩, fun high hb => ⟨order high hb, fun y hy =>
                  (order high hb).trans (form.1.trans_lt (beyond y hy))⟩⟩
              · rintro ⟨⟨-, passes⟩, ⟨beyond, sorted⟩, -⟩
                exact ⟨passes, sorted, beyond⟩
            · push Not at order
              obtain ⟨high, hb, overlap⟩ := order
              rw [overlaps high hb overlap]
              refine ⟨nofun, fun passed => ?_⟩
              exact absurd (passed.2.2 high hb z (List.mem_cons_self ..)) (by omega)
          · rw [verifyPlaces_outOfForm before n rest h hs hc hz]
            refine ⟨nofun, fun passed => ?_⟩
            obtain ⟨⟨⟨-, -, form⟩, -⟩, -⟩ := passed
            exact absurd (Zone.inForm_iff.2 (form z rfl)) hz

/-! ### Step 5: the slots -/

section
variable (t : TableLetter) {first limit n : Nat} {c : SlotCell} (rest : List (Nat × SlotCell))

theorem verifySlots_outside (h : n < first ∨ limit ≤ n) :
    verifySlots t first limit ((n, c) :: rest) = verifySlots t first limit rest := by
  simp only [verifySlots]
  rw [if_neg (by omega)]

theorem verifySlots_inside (low : first ≤ n) (high : n < limit) :
    (c.damaged = true → verifySlots t first limit ((n, c) :: rest) = some (.marked (.slot ⟨t, n⟩))) ∧
    (c.damaged = false → c.sound = false →
      verifySlots t first limit ((n, c) :: rest) = some (.badRead (.slot ⟨t, n⟩))) ∧
    (c.damaged = false → c.sound = true →
      (∀ reason, c.content.outOfForm = some reason →
        verifySlots t first limit ((n, c) :: rest) = some (.malformed reason (.entry (.slot ⟨t, n⟩)))) ∧
      (c.content.outOfForm = none →
        verifySlots t first limit ((n, c) :: rest) = verifySlots t first limit rest)) := by
  simp only [verifySlots, low, high, and_self, if_true]
  refine ⟨fun h => if_pos h, fun h hs => ?_, fun h hs => ⟨fun reason hr => ?_, fun hr => ?_⟩⟩
  · rw [h, hs]
    rfl
  · rw [h, hs, hr]
    rfl
  · rw [h, hs, hr]
    rfl

end

/-- A slot that step 5 passes. -/
def SlotCell.passes (c : SlotCell) : Prop := c.damaged = false ∧ c.sound = true ∧ c.content.outOfForm = none

theorem verifySlots_eq_none {t : TableLetter} {first limit : Nat} {cells : List (Nat × SlotCell)} :
    verifySlots t first limit cells = none ↔ ∀ c ∈ cells, first ≤ c.1 → c.1 < limit → c.2.passes := by
  induction cells with
  | nil => simp [verifySlots]
  | cons head rest ih =>
    obtain ⟨n, c⟩ := head
    rw [List.forall_mem_cons, ← ih, SlotCell.passes]
    by_cases inside : first ≤ n ∧ n < limit
    · obtain ⟨marked, failing, read⟩ := verifySlots_inside t (c := c) rest inside.1 inside.2
      simp only [inside, forall_true_left]
      cases h : c.damaged with
      | true => simp [marked h]
      | false =>
        cases hs : c.sound with
        | false => simp [failing h hs]
        | true =>
          obtain ⟨formless, formed⟩ := read h hs
          cases hr : c.content.outOfForm with
          | none => simp [formed hr]
          | some reason => simp [formless reason hr]
    · rw [verifySlots_outside t rest (by omega)]
      exact ⟨fun h => ⟨fun low high => absurd ⟨low, high⟩ inside, h⟩, fun h => h.2⟩

end Sys2Proof.Machine
end

section
/-! BANK VERIFY (R151, R152): O44. -/
namespace Sys2Proof.Machine

variable {s : State} {l : BankLetter} {g : Tag} {items : List Item} {number : Nat}

/-! ### The request -/

/-- The number of the other bank is refused; else the first finding is answered (R151). -/
theorem exec_bankVerify (hs : s.Serves .bankVerify .supervisor items) (hl : bankOf items = some l)
    (hn : editionNumberOf items = some number) (hb : (s.bank l).state = .loading) :
    exec (.bankVerify ⟨.supervisor, g⟩ items) s =
      if (s.bank (otherBank l)).state.edition = some number then
        .next (s.send .supervisor g Kind.bankVerify.code (.malformedEdition .editionNumber (.bank (otherBank l))))
      else
        match (s.bank l).examine with
        | some (.marked x) => .next (s.send .supervisor g Kind.bankVerify.code (.damaged (.bankEntry l x)))
        | some (.badRead x) => .next ((s.failBankEntry l x .supervisor none).judge.send .supervisor g
            Kind.bankVerify.code (.damaged (.bankEntry l x)))
        | some (.malformed reason x) =>
          .next (s.send .supervisor g Kind.bankVerify.code (.malformedEdition reason x))
        | none => .next ((s.setBank l { s.bank l with state := .verified number }).judge.send .supervisor g
            Kind.bankVerify.code (.done (.edition number))) := by
  show execBankVerify ⟨.supervisor, g⟩ items s = _
  refine (bankRequest_taken hs hl (by rw [hb]; rfl) _).trans ?_
  simp only [hn, verifyBank, State.bank_hold, State.reply_hold _ _ _ _ hs.free, State.setBank_finish_hold hs.free]
  split
  · rfl
  · cases (s.bank l).examine with
    | none => rfl
    | some finding =>
      cases finding with
      | badRead x =>
        exact State.finish_beside (f := fun u => u.failBankEntry l x .supervisor none)
          (fun links => s.failBankEntry_withLinks links l x .supervisor none) _ _ g _ hs.free
      | _ => rfl

/-! ### The steps in their order -/

theorem Bank.examine_steps (b : Bank) :
    (∀ x, verifySegments b.segments.cells = some x → b.examine = some x) ∧
    (verifySegments b.segments.cells = none →
      (∀ x, verifyChain b 33 [] 0 = some x → b.examine = some x) ∧
      (verifyChain b 33 [] 0 = none →
        (∀ x, verifyPlaces none b.zones.cells = some x → b.examine = some x) ∧
        (verifyPlaces none b.zones.cells = none →
          (∀ x, verifySlots .n 1 b.nLimit b.nSlots.cells = some x → b.examine = some x) ∧
          (verifySlots .n 1 b.nLimit b.nSlots.cells = none →
            b.examine = verifySlots .h 0 b.hLimit b.hSlots.cells)))) := by
  have limit : Config.chainLimit + 1 = 33 := rfl
  unfold Bank.examine
  rw [limit]
  refine ⟨fun x hx => by rw [hx]; rfl, fun segments => ?_⟩
  rw [segments, Option.none_or]
  refine ⟨fun x hx => by rw [hx]; rfl, fun chain => ?_⟩
  rw [chain, Option.none_or]
  refine ⟨fun x hx => by rw [hx]; rfl, fun places => ?_⟩
  rw [places, Option.none_or]
  exact ⟨fun x hx => by rw [hx]; rfl, fun slots => by rw [slots, Option.none_or]⟩

/-- A bank is passed where no step finds anything. -/
theorem Bank.examine_eq_none {b : Bank} : b.examine = none ↔
    (∀ c ∈ b.segments.cells, c.2.segmentPasses) ∧ verifyChain b (Config.chainLimit + 1) [] 0 = none ∧
    ((∀ c ∈ b.zones.cells, c.2.placePasses) ∧ (usedZones b.zones.cells).Pairwise fun x y => x.high < y.low) ∧
    (∀ c ∈ b.nSlots.cells, 1 ≤ c.1 → c.1 < b.nLimit → c.2.passes) ∧
    ∀ c ∈ b.hSlots.cells, c.1 < b.hLimit → c.2.passes := by
  simp only [Bank.examine, Option.or_eq_none_iff, verifySegments_eq_none, verifyPlaces_eq_none, verifySlots_eq_none,
    Nat.zero_le, forall_true_left, reduceCtorEq, false_imp_iff, implies_true, and_true]

/-- Settles O44: the request answers the first finding; a step finds nothing exactly where every entry passes it. -/
theorem bankVerifyStopsAtTheFirstFinding : Obligations.BankVerifyStopsAtTheFirstFinding := by
  unfold Obligations.BankVerifyStopsAtTheFirstFinding
  refine ⟨fun g items s l number hs hl hn hb => ?_, Bank.examine_steps, fun n c rest => ?_, verifyChain_step,
    fun before n c rest => ?_, fun t first limit n c rest => ?_, fun service grade target bands x => ?_,
    fun b segments chain zones order normal supplement => ?_, fun b passed => ?_⟩
  · rw [exec_bankVerify hs hl hn hb]
    refine ⟨fun taken => if_pos taken, fun fresh => ?_⟩
    rw [if_neg fresh]
    exact ⟨fun h => by rw [h], fun x h => by rw [h], fun x h => by rw [h], fun reason x h => by rw [h]⟩
  · exact ⟨rfl, verifySegments_marked n rest, verifySegments_failing n rest, verifySegments_read n rest⟩
  · refine ⟨rfl, verifyPlaces_marked before n rest, verifyPlaces_failing before n rest, fun h hs =>
      ⟨verifyPlaces_unused before n rest h hs, fun z hc => ⟨fun formless => ?_, fun low high first last sort => ?_⟩⟩⟩
    · exact verifyPlaces_outOfForm before n rest h hs hc (mt Zone.inForm_iff.1 formless)
    · exact verifyPlaces_inForm before n rest h hs hc (Zone.inForm_iff.2 ⟨low, high, first, last, sort⟩)
  · exact ⟨rfl, verifySlots_outside t rest, verifySlots_inside t rest⟩
  · obtain ⟨rateEither, rateForm⟩ := Descriptor.rate_outOfForm bands
    obtain ⟨surchargeEither, surchargeForm⟩ := Descriptor.surcharge_outOfForm x
    exact ⟨rfl, Descriptor.service_outOfForm service, rfl, rateEither, rateForm, surchargeEither, surchargeForm⟩
  · obtain ⟨path, start, distinct, -, links⟩ := chain
    refine Bank.examine_eq_none.2 ⟨segments, ?_, ⟨zones, order⟩, normal, supplement⟩
    cases path with
    | nil => cases start
    | cons first path =>
      cases start
      exact verifyChain_links links distinct fun _ _ => List.not_mem_nil
  · obtain ⟨segments, -, ⟨zones, order⟩, normal, supplement⟩ := Bank.examine_eq_none.1 passed
    exact ⟨segments, zones, order, normal, supplement⟩

end Sys2Proof.Machine
end

section
/-! SUPPORT. The stores of a bank listed in order: the first entry of a kind, the entries kept by a BANK COPY (R150),
and the entries after a BANK WRITE (R149). -/
namespace Sys2Proof.Machine

/-! ### Listed cells -/

section
variable {α : Type} (t : Table α) (d : α) (p : Nat × α → Bool)

/-- Of a rising list the first cell found is the one with the least key. -/
theorem find_getCell {l : List (Nat × α)} (h : risingKeys l = true) {n : Nat} {v : α} (hn : getCell n l = some v)
    (found : p (n, v) = true) (before : ∀ m w, m < n → getCell m l = some w → p (m, w) = false) :
    l.find? p = some (n, v) := by
  induction l with
  | nil => cases hn
  | cons c rest ih =>
    obtain ⟨j, w⟩ := c
    obtain ⟨after, rising⟩ := (risingKeys_cons _ _).1 h
    by_cases hj : j = n
    · subst hj
      rw [getCell, if_pos rfl] at hn
      cases hn
      rw [List.find?_cons_of_pos found]
    · rw [getCell, if_neg hj] at hn
      have less : j < n := above_rising rising after _ (mem_of_getCell hn)
      have passed : p (j, w) = false := before j w less (by rw [getCell, if_pos rfl])
      rw [List.find?_cons_of_neg (by simp [passed])]
      refine ih rising hn fun m w hm hw => before m w hm ?_
      have later : j < m := above_rising rising after _ (mem_of_getCell hw)
      rwa [getCell, if_neg later.ne]

/-- A key that does not hold the default is listed. -/
theorem Table.get_of_getD {n : Nat} (hd : p (n, d) = false) (h : p (n, t.getD n d) = true) :
    getCell n t.cells = some (t.getD n d) := by
  unfold Table.getD Table.get at h ⊢
  cases hn : getCell n t.cells with
  | none =>
    rw [hn] at h
    exact absurd h (by simp [hd])
  | some v => rfl

variable {t} (h : risingKeys t.cells = true)
include h

theorem Table.getD_of_mem {c : Nat × α} (hc : c ∈ t.cells) : t.getD c.1 d = c.2 := by
  rw [Table.getD, Table.get, getCell_of_mem h hc]
  rfl

theorem Table.find_first (hd : ∀ m, p (m, d) = false) {n : Nat} (found : p (n, t.getD n d) = true)
    (before : ∀ m, m < n → p (m, t.getD m d) = false) : t.cells.find? p = some (n, t.getD n d) := by
  refine find_getCell p h (t.get_of_getD d p (hd n) found) found fun m w hm hw => ?_
  have own : t.getD m d = w := Table.getD_of_mem d h (mem_of_getCell hw)
  rw [← own]
  exact before m hm

theorem Table.find_none (none : ∀ m, p (m, t.getD m d) = false) : t.cells.find? p = .none :=
  List.find?_eq_none.2 fun c hc => by
    have own := none c.1
    rw [Table.getD_of_mem d h hc] at own
    simp [own]

/-- Of a store with some cells left out. -/
theorem Table.getD_filter (n : Nat) :
    (⟨t.cells.filter p⟩ : Table α).getD n d = if p (n, t.getD n d) then t.getD n d else d := by
  have rising := risingKeys_filter p t.cells h
  unfold Table.getD Table.get
  cases hn : getCell n t.cells with
  | none =>
    have out : getCell n (t.cells.filter p) = none := by
      cases hf : getCell n (t.cells.filter p) with
      | none => rfl
      | some v =>
        have listed := getCell_of_mem h (List.mem_filter.1 (mem_of_getCell hf)).1
        rw [hn] at listed
        cases listed
    rw [out]
    simp
  | some v =>
    have listed := mem_of_getCell hn
    cases hp : p (n, v) with
    | true =>
      rw [getCell_of_mem rising (List.mem_filter.2 ⟨listed, hp⟩)]
      simp [hp]
    | false =>
      have out : getCell n (t.cells.filter p) = none := by
        cases hf : getCell n (t.cells.filter p) with
        | none => rfl
        | some w =>
          obtain ⟨kept, hw⟩ := List.mem_filter.1 (mem_of_getCell hf)
          rw [getCell_of_mem h kept, Option.some.injEq] at hn
          obtain rfl : w = v := hn
          rw [hp] at hw
          cases hw
      rw [out]
      simp [hp]

end

/-! ### A bank in canonical form -/

variable {b : Bank}

theorem Bank.canonical_rising (h : b.canonical = true) : risingKeys b.segments.cells = true ∧
    risingKeys b.zones.cells = true ∧ risingKeys b.nSlots.cells = true ∧ risingKeys b.hSlots.cells = true := by
  simp only [Bank.canonical, Bool.and_eq_true, Table.canonical_iff] at h
  obtain ⟨⟨⟨⟨segments, -⟩, zones, -⟩, normal, -⟩, supplement, -⟩ := h
  exact ⟨segments, zones, normal, supplement⟩

/-! ### The first failing read (R150) -/

theorem Cell.fails_iff (c : Cell Segment) : c.fails = true ↔ c.damaged = false ∧ c.sound = false := by
  simp [Cell.fails]

theorem SlotCell.fails_iff (c : SlotCell) : c.fails = true ↔ c.damaged = false ∧ c.sound = false := by
  simp [SlotCell.fails]

/-- The reads of a BANK COPY in their order (R150). -/
theorem Bank.firstFailing_order (h : b.canonical = true) :
    (∀ n, (b.segmentCell n).fails = true → (∀ m, m < n → (b.segmentCell m).fails = false) →
      b.firstFailing = some (.segment n)) ∧
    ((∀ m, (b.segmentCell m).fails = false) →
      (∀ n, (b.placeCell n).fails = true → (∀ m, m < n → (b.placeCell m).fails = false) →
        b.firstFailing = some (.place n)) ∧
      ((∀ m, (b.placeCell m).fails = false) →
        (∀ n, 1 ≤ n → (b.slotCell ⟨.n, n⟩).fails = true →
          (∀ m, 1 ≤ m → m < n → (b.slotCell ⟨.n, m⟩).fails = false) → b.firstFailing = some (.slot ⟨.n, n⟩)) ∧
        ((∀ m, 1 ≤ m → (b.slotCell ⟨.n, m⟩).fails = false) →
          (∀ n, (b.slotCell ⟨.h, n⟩).fails = true → (∀ m, m < n → (b.slotCell ⟨.h, m⟩).fails = false) →
            b.firstFailing = some (.slot ⟨.h, n⟩)) ∧
          ((∀ m, (b.slotCell ⟨.h, m⟩).fails = false) → b.firstFailing = none)))) := by
  obtain ⟨segments, zones, normal, supplement⟩ := Bank.canonical_rising h
  have nSlot (m : Nat) (hm : 1 ≤ m → (b.slotCell ⟨.n, m⟩).fails = false) :
      ((m != 0) && (b.slotCell ⟨.n, m⟩).fails) = false := by
    cases m with
    | zero => rfl
    | succ m => simpa using hm (by omega)
  unfold Bank.firstFailing
  refine ⟨fun n hn before => ?_, fun noSegment => ?_⟩
  · rw [Table.find_first .unused (fun c => c.2.fails) segments (fun _ => rfl) hn before]
  rw [Table.find_none .unused (fun c => c.2.fails) segments noSegment]
  refine ⟨fun n hn before => ?_, fun noPlace => ?_⟩
  · rw [Table.find_first .unused (fun c => c.2.fails) zones (fun _ => rfl) hn before]
  rw [Table.find_none .unused (fun c => c.2.fails) zones noPlace]
  refine ⟨fun n low hn before => ?_, fun noNormal => ?_⟩
  · rw [Table.find_first .empty (fun c => c.1 != 0 && c.2.fails) normal (fun _ => Bool.and_false _)
      (by simpa using ⟨Nat.one_le_iff_ne_zero.1 low, hn⟩) fun m hm => nSlot m fun low => before m low hm]
  rw [Table.find_none .empty (fun c => c.1 != 0 && c.2.fails) normal fun m => nSlot m (noNormal m)]
  refine ⟨fun n hn before => ?_, fun noSupplement => ?_⟩
  · rw [Table.find_first .empty (fun c => c.2.fails) supplement (fun _ => rfl) hn before]
    rfl
  · rw [Table.find_none .empty (fun c => c.2.fails) supplement noSupplement]
    rfl

/-- Where every stored entry is damaged or sound no read fails. -/
theorem Bank.firstFailing_none (segments : ∀ c ∈ b.segments.cells, c.2.damaged = true ∨ c.2.sound = true)
    (zones : ∀ c ∈ b.zones.cells, c.2.damaged = true ∨ c.2.sound = true)
    (normal : ∀ c ∈ b.nSlots.cells, c.2.damaged = true ∨ c.2.sound = true)
    (supplement : ∀ c ∈ b.hSlots.cells, c.2.damaged = true ∨ c.2.sound = true) : b.firstFailing = none := by
  have cell {α : Type} {l : List (Nat × Cell α)} (h : ∀ c ∈ l, c.2.damaged = true ∨ c.2.sound = true) :
      (l.find? fun c => c.2.fails) = none :=
    List.find?_eq_none.2 fun c hc => by rcases h c hc with h | h <;> simp [Cell.fails, h]
  have slot (q : Nat → Bool) {l : List (Nat × SlotCell)} (h : ∀ c ∈ l, c.2.damaged = true ∨ c.2.sound = true) :
      (l.find? fun c => q c.1 && c.2.fails) = none :=
    List.find?_eq_none.2 fun c hc => by rcases h c hc with h | h <;> simp [SlotCell.fails, h]
  unfold Bank.firstFailing
  rw [cell segments, cell zones, slot (· != 0) normal]
  exact congrArg (Option.map _) (slot (fun _ => true) supplement)

/-! ### The copy (R150, R38) -/

theorem Bank.copyOf_segmentCell (h : b.canonical = true) (n : Nat) :
    b.copyOf.segmentCell n = if (b.segmentCell n).damaged then .unused else b.segmentCell n := by
  refine (Table.getD_filter .unused (fun c => !c.2.damaged) (Bank.canonical_rising h).1 n).trans ?_
  show (if (!(b.segmentCell n).damaged) = true then b.segmentCell n else .unused) = _
  cases (b.segmentCell n).damaged <;> rfl

theorem Bank.copyOf_placeCell (h : b.canonical = true) (n : Nat) :
    b.copyOf.placeCell n = if (b.placeCell n).damaged then .unused else b.placeCell n := by
  refine (Table.getD_filter .unused (fun c => !c.2.damaged) (Bank.canonical_rising h).2.1 n).trans ?_
  show (if (!(b.placeCell n).damaged) = true then b.placeCell n else .unused) = _
  cases (b.placeCell n).damaged <;> rfl

theorem Bank.copyOf_slotCell (h : b.canonical = true) {sel : Selector} (hs : sel ≠ ⟨.n, 0⟩) :
    b.copyOf.slotCell sel = if (b.slotCell sel).damaged then .empty else b.slotCell sel := by
  obtain ⟨-, -, normal, supplement⟩ := Bank.canonical_rising h
  obtain ⟨t, i⟩ := sel
  cases t with
  | n =>
    have listed : (i != 0) = true := bne_iff_ne.2 fun zero => hs (by rw [zero])
    refine (Table.getD_filter .empty (fun c => c.1 != 0 && !c.2.damaged) normal i).trans ?_
    show (if (i != 0 && !(b.slotCell ⟨.n, i⟩).damaged) = true then b.slotCell ⟨.n, i⟩ else .empty) = _
    rw [listed]
    cases (b.slotCell ⟨.n, i⟩).damaged <;> rfl
  | h =>
    refine (Table.getD_filter .empty (fun c => !c.2.damaged) supplement i).trans ?_
    show (if (!(b.slotCell ⟨.h, i⟩).damaged) = true then b.slotCell ⟨.h, i⟩ else .empty) = _
    cases (b.slotCell ⟨.h, i⟩).damaged <;> rfl

/-! ### One write (R149) -/

theorem Bank.takeWrite_state_pins (b : Bank) (w : BankWrite) :
    (b.takeWrite w).state = .loading ∧ (b.takeWrite w).pins = b.pins := by
  refine ⟨rfl, ?_⟩
  cases w with
  | limit t n => cases t <;> rfl
  | slot sel x present => obtain ⟨t, i⟩ := sel; cases t <;> rfl
  | _ => rfl

theorem Bank.takeWrite_segment (h : b.canonical = true) (n : Nat) (x : Option Segment) :
    (b.takeWrite (.segment n x)).segmentCell n = ⟨x, false, true⟩ ∧
    (∀ m, m ≠ n → (b.takeWrite (.segment n x)).segmentCell m = b.segmentCell m) :=
  ⟨Table.getD_put_same _ _ _ _ (Bank.canonical_rising h).1, fun m => Table.getD_put_other _ _ m _ _⟩

theorem Bank.takeWrite_place (h : b.canonical = true) (n : Nat) (x : Option Zone) :
    (b.takeWrite (.place n x)).placeCell n = ⟨x, false, true⟩ ∧
    (∀ m, m ≠ n → (b.takeWrite (.place n x)).placeCell m = b.placeCell m) :=
  ⟨Table.getD_put_same _ _ _ _ (Bank.canonical_rising h).2.1, fun m => Table.getD_put_other _ _ m _ _⟩

theorem Bank.takeWrite_limit (b : Bank) (t : TableLetter) (n : Nat) :
    (b.takeWrite (.limit t n)).limit t = n ∧ ∀ sel, (b.takeWrite (.limit t n)).slotCell sel = b.slotCell sel := by
  cases t <;> refine ⟨rfl, fun sel => ?_⟩ <;> obtain ⟨t, i⟩ := sel <;> cases t <;> rfl

theorem Bank.takeWrite_slot (h : b.canonical = true) (sel : Selector) (x : Descriptor) (present : Bool) :
    (b.takeWrite (.slot sel x present)).slotCell sel = ⟨x, present, false, true⟩ ∧
    (∀ o, o ≠ sel → (b.takeWrite (.slot sel x present)).slotCell o = b.slotCell o) := by
  obtain ⟨-, -, normal, supplement⟩ := Bank.canonical_rising h
  obtain ⟨t, i⟩ := sel
  have apart {o : Selector} {t : TableLetter} (ho : o ≠ ⟨t, i⟩) (ht : o.table = t) : o.index ≠ i := fun hi =>
    ho (by rw [← ht, ← hi])
  cases t with
  | n =>
    refine ⟨Table.getD_put_same _ _ _ _ normal, fun o ho => ?_⟩
    obtain ⟨t, j⟩ := o
    cases t with
    | n => exact Table.getD_put_other _ _ _ _ _ (apart ho rfl)
    | h => rfl
  | h =>
    refine ⟨Table.getD_put_same _ _ _ _ supplement, fun o ho => ?_⟩
    obtain ⟨t, j⟩ := o
    cases t with
    | n => rfl
    | h => exact Table.getD_put_other _ _ _ _ _ (apart ho rfl)

end Sys2Proof.Machine
end

section
/-! The content of a BANK WRITE (R149, R199), BANK CLEAR (R148) and BANK COPY (R150): O43. -/
namespace Sys2Proof.Machine

/-! ### Letters, codes and list entries (R199) -/

section
variable {letter n : Nat}

theorem tableOfByte_other (hn : letter ≠ 0x4E) (hh : letter ≠ 0x48) : tableOfByte letter = none := by
  rw [tableOfByte, if_neg hn, if_neg hh]

theorem selectorFrom_other (hn : letter ≠ 0x4E) (hh : letter ≠ 0x48) : selectorFrom letter n = none := by
  rw [selectorFrom, tableOfByte_other hn hh]
  rfl

end

section
variable (x : Byte) (n : Nat)

theorem scopeOfByte_eq : scopeOfByte x =
    (if x.toNat = 0 then none else [Scope.domestic, .international, .both][x.toNat - 1]?) := by
  unfold scopeOfByte
  match x.toNat with
  | 0 | 1 | 2 | 3 => rfl
  | n + 4 => rfl

theorem measureOfByte_eq : measureOfByte x = (if x.toNat = 0 then none else
    [Measure.chargeableMass, .longestSide, .girth, .declaredValue, .zone][x.toNat - 1]?) := by
  unfold measureOfByte
  match x.toNat with
  | 0 | 1 | 2 | 3 | 4 | 5 => rfl
  | n + 6 => rfl

theorem comparisonOfByte_eq : comparisonOfByte x =
    [Comparison.always, .above, .atLeast, .below, .atMost, .equal, .notEqual][x.toNat]? := by
  unfold comparisonOfByte
  match x.toNat with
  | 0 | 1 | 2 | 3 | 4 | 5 | 6 => rfl
  | n + 7 => rfl

/-- An amount is FIXED, a signed number of four bytes, or a rate per mille. -/
theorem amountOf_cases :
    (x.toNat = 1 → n < 2147483648 → amountOf x n = some (.fixed n)) ∧
    (x.toNat = 1 → 2147483648 ≤ n → amountOf x n = some (.fixed ((n : Int) - 4294967296))) ∧
    (x.toNat = 2 → amountOf x n = some (.perMille n)) ∧ (x.toNat ≠ 1 → x.toNat ≠ 2 → amountOf x n = none) := by
  unfold amountOf signedOf
  refine ⟨fun hx low => ?_, fun hx high => ?_, fun hx => ?_, fun fixed rate => ?_⟩
  · rw [hx, if_pos low]
    rfl
  · rw [hx, if_neg (Nat.not_lt.2 high)]
    rfl
  · rw [hx]
    rfl
  · split
    · exact absurd ‹_› fixed
    · exact absurd ‹_› rate
    · rfl

end

theorem listedSelectors_cases (rest : List Item) (item : Item) (letter n : Nat) :
    (∀ sel, selectorFrom letter n = some sel →
      listedSelectors (.listSelector letter n :: rest) = (listedSelectors rest).map (sel :: ·)) ∧
    (selectorFrom letter n = none → listedSelectors (.listSelector letter n :: rest) = none) ∧
    ((∀ l i, item ≠ .listSelector l i) → listedSelectors (item :: rest) = listedSelectors rest) := by
  refine ⟨fun sel hs => ?_, fun hs => ?_, fun other => ?_⟩
  · rw [listedSelectors, hs]
    cases listedSelectors rest <;> rfl
  · rw [listedSelectors, hs]
    rfl
  · cases item with
    | listSelector l i => exact absurd rfl (other l i)
    | _ => rfl

theorem listedBands_other (rest : List Item) (item : Item) (other : ∀ l ps, item ≠ .listBand l ps) :
    listedBands (item :: rest) = listedBands rest := by
  cases item with
  | listBand l ps => exact absurd rfl (other l ps)
  | _ => rfl

/-! ### The descriptor a head spells (R199) -/

section
variable (items : List Item) (g p : Byte)

theorem descriptorOf_service (c1 c2 sc v cu b0 b1 b2 : Byte) :
    (∀ scope rate list, scopeOfByte sc = some scope → selectorFrom b0.toNat (natOfBytes [b1, b2]) = some rate →
      listedSelectors items = some list →
      descriptorOf 1 [g, p, c1, c2, sc, v, cu, b0, b1, b2] items =
        some (.service ⟨g.toNat, (c1.toNat, c2.toNat), scope, flagOfByte v, flagOfByte cu, rate, list⟩,
          flagOfByte p)) ∧
    (scopeOfByte sc = none ∨ selectorFrom b0.toNat (natOfBytes [b1, b2]) = none ∨ listedSelectors items = none →
      descriptorOf 1 [g, p, c1, c2, sc, v, cu, b0, b1, b2] items = none) := by
  simp only [descriptorOf, selectorOfBytes]
  refine ⟨fun scope rate list hs hr hl => ?_, fun unlisted => ?_⟩
  · rw [hs, hr, hl]
    rfl
  · cases hs : scopeOfByte sc with
    | none => rfl
    | some scope =>
      cases hr : selectorFrom b0.toNat (natOfBytes [b1, b2]) with
      | none => rfl
      | some rate =>
        rw [hs, hr] at unlisted
        rw [unlisted.resolve_left nofun |>.resolve_left nofun]
        rfl

theorem descriptorOf_redirect (b0 b1 b2 : Byte) : descriptorOf 2 [g, p, b0, b1, b2] items =
    (selectorFrom b0.toNat (natOfBytes [b1, b2])).map (fun x => (.redirect g.toNat x, flagOfByte p)) := by
  simp only [descriptorOf, selectorOfBytes]
  cases selectorFrom b0.toNat (natOfBytes [b1, b2]) <;> rfl

theorem descriptorOf_surcharge (m c f b0 b1 b2 b3 a0 a1 a2 a3 : Byte) :
    (∀ measure comparison amount, measureOfByte m = some measure → comparisonOfByte c = some comparison →
      amountOf f (natOfBytes [a0, a1, a2, a3]) = some amount →
      descriptorOf 4 [g, p, m, c, b0, b1, b2, b3, f, a0, a1, a2, a3] items =
        some (.surcharge ⟨g.toNat, measure, comparison, natOfBytes [b0, b1, b2, b3], amount⟩, flagOfByte p)) ∧
    (measureOfByte m = none ∨ comparisonOfByte c = none ∨ amountOf f (natOfBytes [a0, a1, a2, a3]) = none →
      descriptorOf 4 [g, p, m, c, b0, b1, b2, b3, f, a0, a1, a2, a3] items = none) := by
  simp only [descriptorOf]
  refine ⟨fun measure comparison amount hm hc ha => ?_, fun unlisted => ?_⟩
  · rw [hm, hc, ha]
    rfl
  · cases hm : measureOfByte m with
    | none => rfl
    | some measure =>
      cases hc : comparisonOfByte c with
      | none => rfl
      | some comparison =>
        rw [hm, hc] at unlisted
        rw [unlisted.resolve_left nofun |>.resolve_left nofun]
        rfl

theorem descriptorOf_unlisted {kind : Nat} (fields : List Byte) (h : 4 < kind) :
    descriptorOf kind fields items = none := by
  obtain ⟨k, rfl⟩ : ∃ k, kind = k + 5 := ⟨kind - 5, by omega⟩
  rfl

end

/-! ### The write an item asks for (R149) -/

section
variable (items : List Item)

theorem writeOfItem_parameters (x m y : Nat) : writeOfItem items (.parameters x m y) =
    if x ≤ 500 ∧ m ≤ 100 ∧ y ≤ 5000000 then some (.parameters ⟨x, m, y⟩) else none := by
  simp only [writeOfItem, Bool.and_eq_true, decide_eq_true_eq, and_assoc]

section
variable (n f l index x bl : Nat)

theorem writeOfItem_segment_outside (u : Nat) (h : 31 < n) :
    writeOfItem items (.segment n u f l bl index x) = none := if_pos h

variable {n} (h : n ≤ 31)
include h

theorem writeOfItem_segment_unused : writeOfItem items (.segment n 0 f l bl index x) = some (.segment n none) :=
  if_neg (Nat.not_lt.2 h)

theorem writeOfItem_segment_unlisted {u : Nat} (hu : 1 < u) :
    writeOfItem items (.segment n u f l bl index x) = none := by
  obtain ⟨k, rfl⟩ : ∃ k, u = k + 2 := ⟨u - 2, by omega⟩
  exact if_neg (Nat.not_lt.2 h)

/-- A used segment takes its base and its successor as they are listed. -/
theorem writeOfItem_segment_used : writeOfItem items (.segment n 1 f l bl index x) =
    (selectorFrom bl index).bind fun base => (successorOf x).map fun next =>
      .segment n (some ⟨f, l, base, next⟩) := by
  rw [writeOfItem, if_neg (Nat.not_lt.2 h)]
  cases selectorFrom bl index <;> cases successorOf x <;> rfl

theorem writeOfItem_segment_successor {x : Nat} {next : Option Nat} (hx : successorOf x = some next) :
    writeOfItem items (.segment n 1 f l 0x4E index x) = some (.segment n (some ⟨f, l, ⟨.n, index⟩, next⟩)) ∧
    writeOfItem items (.segment n 1 f l 0x48 index x) = some (.segment n (some ⟨f, l, ⟨.h, index⟩, next⟩)) := by
  rw [writeOfItem_segment_used items f l index x 0x4E h, writeOfItem_segment_used items f l index x 0x48 h, hx]
  exact ⟨rfl, rfl⟩

end

theorem successorOf_cases (x : Nat) :
    (x ≤ 31 → successorOf x = some (some x)) ∧ successorOf 255 = some none ∧
    (31 < x → x ≠ 255 → successorOf x = none) := by
  refine ⟨fun h => if_pos h, rfl, fun h other => ?_⟩
  rw [successorOf, if_neg (Nat.not_le.2 h), if_neg other]

theorem writeOfItem_place_outside {n : Nat} (u l h z c : Nat) (hn : 255 < n) :
    writeOfItem items (.zonePlace n u l h z c) = none := if_pos hn

theorem writeOfItem_place {n : Nat} (l h z c : Nat) (hn : n ≤ 255) :
    writeOfItem items (.zonePlace n 0 l h z c) = some (.place n none) ∧
    writeOfItem items (.zonePlace n 1 l h z c) = some (.place n (some ⟨l, h, z, c⟩)) ∧
    ∀ u, 1 < u → writeOfItem items (.zonePlace n u l h z c) = none := by
  refine ⟨if_neg (Nat.not_lt.2 hn), if_neg (Nat.not_lt.2 hn), fun u hu => ?_⟩
  obtain ⟨k, rfl⟩ : ∃ k, u = k + 2 := ⟨u - 2, by omega⟩
  exact if_neg (Nat.not_lt.2 hn)

theorem writeOfItem_limit (n : Nat) :
    writeOfItem items (.tableLimit 0x4E n) = (if 1 ≤ n ∧ n ≤ 1024 then some (.limit .n n) else none) ∧
    writeOfItem items (.tableLimit 0x48 n) = (if n ≤ 256 then some (.limit .h n) else none) ∧
    ∀ letter, letter ≠ 0x4E → letter ≠ 0x48 → writeOfItem items (.tableLimit letter n) = none := by
  have normal : tableOfByte 0x4E = some .n := rfl
  have supplement : tableOfByte 0x48 = some .h := rfl
  refine ⟨?_, ?_, fun letter hn hh => ?_⟩
  · simp only [writeOfItem, normal, within, Bool.and_eq_true, decide_eq_true_eq]
  · simp only [writeOfItem, supplement]
  · simp only [writeOfItem, tableOfByte_other hn hh]

/-- A head names its slot by letter and index; its content is what its kind and fields spell. -/
theorem writeOfItem_descriptor (letter n k : Nat) (fields : List Byte) :
    writeOfItem items (.descriptorHead letter n k fields) =
      (selectorFrom letter n).bind fun sel =>
        if writableSlot sel then (descriptorOf k fields items).map fun x => .slot sel x.1 x.2 else none := by
  rw [writeOfItem]
  cases selectorFrom letter n with
  | none => rfl
  | some sel =>
    show (if writableSlot sel = true then _ else none) = if writableSlot sel = true then _ else none
    cases descriptorOf k fields items <;> rfl

end

/-! ### The requests -/

section
variable {s : State} {l : BankLetter} {g : Tag} {items : List Item}

theorem exec_bankClear (hs : s.Serves .bankClear .supervisor items) (hl : bankOf items = some l)
    (ht : takenIn .bankClear (s.bank l).state.name = true) : exec (.bankClear ⟨.supervisor, g⟩ items) s =
      .next ((s.setBank l .cleared).judge.send .supervisor g Kind.bankClear.code (.done .plain)) := by
  show execBankClear ⟨.supervisor, g⟩ items s = _
  exact (bankRequest_taken hs hl ht _).trans (State.setBank_finish_hold hs.free _ _)

theorem exec_bankWrite (hs : s.Serves .bankWrite .supervisor items) (hl : bankOf items = some l)
    (ht : takenIn .bankWrite (s.bank l).state.name = true) :
    (bankWriteOf items = none → exec (.bankWrite ⟨.supervisor, g⟩ items) s =
      .next (s.send .supervisor g Kind.bankWrite.code .malformed)) ∧
    ∀ w, bankWriteOf items = some w → exec (.bankWrite ⟨.supervisor, g⟩ items) s =
      .next ((s.setBank l ((s.bank l).takeWrite w)).judge.send .supervisor g Kind.bankWrite.code
        (.done (.bankWritten .loading ((s.bank l).takeWrite w).damagedCount))) := by
  show (_ → execBankWrite ⟨.supervisor, g⟩ items s = _) ∧ ∀ w, _ → execBankWrite ⟨.supervisor, g⟩ items s = _
  refine ⟨fun hw => (bankRequest_taken hs hl ht _).trans ?_, fun w hw => (bankRequest_taken hs hl ht _).trans ?_⟩
  · simp only [hw]
    exact State.reply_hold _ _ _ _ hs.free
  · simp only [hw, State.bank_hold]
    exact State.setBank_finish_hold hs.free _ _

theorem exec_bankCopy (hs : s.Serves .bankCopy .supervisor items) (hl : bankOf items = some l)
    (ht : takenIn .bankCopy (s.bank l).state.name = true) :
    (s.activeBank = none → exec (.bankCopy ⟨.supervisor, g⟩ items) s =
      .next (s.send .supervisor g Kind.bankCopy.code .noEdition)) ∧
    ∀ source, s.activeBank = some source →
      ((s.bank source).firstFailing = none → exec (.bankCopy ⟨.supervisor, g⟩ items) s =
        .next ((s.setBank l (s.bank source).copyOf).judge.send .supervisor g Kind.bankCopy.code
          (.done (.edition ((s.bank source).state.edition.getD 0))))) ∧
      ∀ x, (s.bank source).firstFailing = some x → exec (.bankCopy ⟨.supervisor, g⟩ items) s =
        .next ((s.failBankEntry source x .supervisor none).judge.send .supervisor g Kind.bankCopy.code
          (.damaged (.bankEntry source x))) := by
  have active : (s.hold .supervisor .bankCopy g).activeBank = s.activeBank := rfl
  have taken {o : Outcome} (ho : execBankCopy ⟨.supervisor, g⟩ items s = o) :
      exec (.bankCopy ⟨.supervisor, g⟩ items) s = o := ho
  refine ⟨fun ha => taken ((bankRequest_taken hs hl ht _).trans ?_), fun source ha =>
    ⟨fun hf => taken ((bankRequest_taken hs hl ht _).trans ?_), fun x hf =>
      taken ((bankRequest_taken hs hl ht _).trans ?_)⟩⟩
  · simp only [active, ha]
    exact State.reply_hold _ _ _ _ hs.free
  · simp only [active, ha, State.bank_hold, hf]
    exact State.setBank_finish_hold hs.free _ _
  · simp only [active, ha, State.bank_hold, hf]
    exact State.finish_beside (f := fun u => u.failBankEntry source x .supervisor none)
      (fun links => s.failBankEntry_withLinks links source x .supervisor none) _ _ g _ hs.free

end

/-- Settles O43: the three requests, the write of each item, the codes, the entries of a bank written and copied. -/
theorem bankClearWriteAndCopy : Obligations.BankClearWriteAndCopy := by
  unfold Obligations.BankClearWriteAndCopy
  refine ⟨fun g items s l hs hl hb => ?_, fun g items s l w hs hl hb => ?_, fun items => ?_,
    fun items g p c1 c2 sc v cu m c f b0 b1 b2 b3 a0 a1 a2 a3 => ?_, fun x n => ?_, fun rest item letter n prices => ?_,
    fun b w h => ?_, fun g items s l hs hl hb => ?_, fun b => Bank.firstFailing_order,
    fun c d => ⟨Cell.fails_iff c, SlotCell.fails_iff d⟩, fun b h => ?_⟩
  · exact exec_bankClear hs hl (by simpa [takenIn, or_assoc] using hb)
  · obtain ⟨refused, taken⟩ := exec_bankWrite (g := g) hs hl (by simpa [takenIn, or_assoc] using hb)
    exact ⟨refused, taken w⟩
  · have normal (n : Nat) : selectorFrom 0x4E n = some ⟨.n, n⟩ := rfl
    have supplement (n : Nat) : selectorFrom 0x48 n = some ⟨.h, n⟩ := rfl
    obtain ⟨-, ended, -⟩ := successorOf_cases 255
    refine ⟨writeOfItem_parameters items, fun n u f l bl bi x => writeOfItem_segment_outside items n f l bi x bl u,
      fun n f l bl bi x h => writeOfItem_segment_unused items f l bi x bl h, fun n f l index x h => ?_,
      fun n u l h z c => writeOfItem_place_outside items u l h z c, fun n l h z c => writeOfItem_place items l h z c,
      writeOfItem_limit items, fun n k fields out => ?_, fun n k fields out => ?_,
      fun letter n k fields hn hh => ?_, fun n k fields => ⟨fun low high => ?_, fun high => ?_⟩⟩
    · obtain ⟨listed, -, unlisted⟩ := successorOf_cases x
      have toSegment (hx : x ≤ 31) := writeOfItem_segment_successor items f l index h (listed hx)
      have toEnd := writeOfItem_segment_successor items f l index h ended
      refine ⟨fun hx => (toSegment hx).1, fun hx => (toSegment hx).2, toEnd.1, toEnd.2, fun bl hx other => ?_,
        fun bl hn hh => ?_, fun u bl => writeOfItem_segment_unlisted items f l index x bl h⟩
      · rw [writeOfItem_segment_used items f l index x bl h, unlisted hx other]
        cases selectorFrom bl index <;> rfl
      · rw [writeOfItem_segment_used items f l index x bl h, selectorFrom_other hn hh]
        rfl
    · have barred : writableSlot ⟨.n, n⟩ = false := by simp [writableSlot, within]; omega
      rw [writeOfItem_descriptor, normal, Option.bind_some, barred]
      rfl
    · have barred : writableSlot ⟨.h, n⟩ = false := by simp [writableSlot, within]; omega
      rw [writeOfItem_descriptor, supplement, Option.bind_some, barred]
      rfl
    · rw [writeOfItem_descriptor, selectorFrom_other hn hh]
      rfl
    · rw [writeOfItem_descriptor, normal, Option.bind_some, if_pos ((writableSlot_iff n).1.2 ⟨low, high⟩)]
    · rw [writeOfItem_descriptor, supplement, Option.bind_some, if_pos ((writableSlot_iff n).2.2 high)]
  · obtain ⟨service, noService⟩ := descriptorOf_service items g p c1 c2 sc v cu b0 b1 b2
    obtain ⟨surcharge, noSurcharge⟩ := descriptorOf_surcharge items g p m c f b0 b1 b2 b3 a0 a1 a2 a3
    exact ⟨rfl, service, noService, descriptorOf_redirect items g p b0 b1 b2, rfl, surcharge, noSurcharge,
      fun kind fields => descriptorOf_unlisted items fields⟩
  · obtain ⟨positive, negative, rate, unlisted⟩ := amountOf_cases x n
    exact ⟨scopeOfByte_eq x, measureOfByte_eq x, comparisonOfByte_eq x, positive, negative, rate, unlisted, rfl, rfl,
      rfl, rfl, fun letter => selectorFrom_other⟩
  · obtain ⟨listed, unlisted, other⟩ := listedSelectors_cases rest item letter n
    exact ⟨rfl, rfl, listed, unlisted, other, rfl, listedBands_other rest item⟩
  · obtain ⟨state, pins⟩ := b.takeWrite_state_pins w
    refine ⟨state, pins, fun x hw => ?_, fun n x hw => ?_, fun n x hw => ?_, fun t n hw => ?_,
      fun sel x present hw => ?_⟩
    · subst hw
      exact ⟨rfl, rfl⟩
    · subst hw
      obtain ⟨written, others⟩ := Bank.takeWrite_segment h n x
      exact ⟨written, others, rfl⟩
    · subst hw
      obtain ⟨written, others⟩ := Bank.takeWrite_place h n x
      exact ⟨written, others, rfl⟩
    · subst hw
      exact b.takeWrite_limit t n
    · subst hw
      obtain ⟨written, others⟩ := Bank.takeWrite_slot h sel x present
      exact ⟨written, others, by obtain ⟨t, i⟩ := sel; cases t <;> rfl⟩
  · obtain ⟨noEdition, copied⟩ := exec_bankCopy (g := g) hs hl (by simpa [takenIn, or_assoc] using hb)
    refine ⟨noEdition, fun source edition ha he segments zones normal supplement => ?_, fun source x ha =>
      (copied source ha).2 x⟩
    rw [(copied source ha).1 (Bank.firstFailing_none segments zones normal supplement), he]
    rfl
  · exact ⟨rfl, rfl, rfl, rfl, rfl, rfl, Bank.copyOf_segmentCell h, Bank.copyOf_placeCell h,
      fun sel => Bank.copyOf_slotCell h⟩

end Sys2Proof.Machine
end

section
/-! SUPPORT. The record that a request of the dispatch line finds (R165, R173): what the checks before the body answer. -/
namespace Sys2Proof.Machine

variable {s : State} {l : Link} {k : Kind} {g : Tag} {items : List Item} {serial slot : Nat} {r : Rec} {o : Outcome}

/-! ### The record named by serial (R165) -/

theorem State.FindsSerial.lookupSerial (h : s.FindsSerial serial slot r) (reader : Reader) :
    s.lookupSerial reader serial = (s, .found slot r) := by
  obtain ⟨hi, hr, hs⟩ := h
  simp only [State.lookupSerial, hi, hr, s.readAt_sound _ _ _ hs, Bool.false_eq_true, if_false, if_true]

/-- A held request finds what was found before it was held. -/
theorem State.FindsSerial.hold (h : s.FindsSerial serial slot r) (l : Link) (k : Kind) (g : Tag) :
    (s.hold l k g).FindsSerial serial slot r := by
  simpa only [State.FindsSerial, State.index_hold, State.record_hold] using h

section
variable {refusing : Rec → Bool}
  {body : Nat → Rec → Entered → Quote → Label → Nat → Option ReweighPart → State → Outcome}

/-- A held request whose serial has no index entry. -/
theorem labelledBySerial_none (free : (s.link l).outstanding = none) (hi : s.table.index.get serial = none) :
    labelledBySerial l serial refusing (s.hold l k g) body = .next (s.send l g k.code .noRecord) := by
  simp only [labelledBySerial, State.lookupSerial, State.index_hold, hi]
  exact State.reply_hold l k g _ free

/-- A held request whose serial finds a record: the marks are looked at first, then the record's state. -/
theorem labelledBySerial_found (free : (s.link l).outstanding = none) (hf : s.FindsSerial serial slot r)
    (ho : o = labelledBySerial l serial refusing (s.hold l k g) body) :
    (refusing r = true → o = .next (s.send l g k.code .recordBusy)) ∧
    (refusing r = false →
      (∀ lab, r.body = .damaged lab → o = .next (s.send l g k.code (.damaged (.record ⟨slot, s.generation slot⟩)))) ∧
      (r.body.isPrinting = true → o = .next (s.send l g k.code .notReady)) ∧
      (r.body.isHeld = true → o = .next (s.send l g k.code .hold)) ∧
      ∀ e q lab adj rw, r.body = .labelled e q lab adj rw → o = body slot r e q lab adj rw (s.hold l k g)) := by
  have answered (a : Answer) := s.reply_hold l k g a free
  simp only [labelledBySerial, (hf.hold l k g).lookupSerial, State.handleAt_hold, answered] at ho
  refine ⟨fun marked => by rw [ho, if_pos marked], fun unmarked => ?_⟩
  rw [if_neg (by simp [unmarked])] at ho
  cases hb : r.body <;> simp_all [RecordBody.isPrinting, RecordBody.isHeld, State.handleAt]

end

/-! ### The HELD record that the supervisor settles (R173) -/

section
variable {body : Nat → Rec → Entered → Quote → Label → Nat → ReweighPart → State → Outcome}

/-- A held request that names no record. -/
theorem heldRecord_none (free : (s.link l).outstanding = none) (hf : s.FindsNone items) :
    heldRecord l items (s.hold l k g) body = .next (s.send l g k.code .noRecord) := by
  simp only [heldRecord, (hf.hold l k g).lookupItems]
  exact State.reply_hold l k g _ free

/-- A held request that finds a record: the busy mark is looked at first, then the record's state. -/
theorem heldRecord_found (free : (s.link l).outstanding = none) (hf : s.FindsNamed items slot r)
    (ho : o = heldRecord l items (s.hold l k g) body) :
    (r.busy = true → o = .next (s.send l g k.code .recordBusy)) ∧
    (r.busy = false →
      (∀ lab, r.body = .damaged lab → o = .next (s.send l g k.code (.damaged (.record ⟨slot, s.generation slot⟩)))) ∧
      (∀ e q lab adj rw reason, r.body = .held e q lab adj rw reason → o = body slot r e q lab adj rw (s.hold l k g)) ∧
      (r.body.isHeld = false → (∀ lab, r.body ≠ .damaged lab) → o = .next (s.send l g k.code .wrongState))) := by
  have answered (a : Answer) := s.reply_hold l k g a free
  simp only [heldRecord, (hf.hold l k g).lookupItems, State.handleAt_hold, answered] at ho
  refine ⟨fun busy => by rw [ho, if_pos busy], fun unbusy => ?_⟩
  rw [if_neg (by simp [unbusy])] at ho
  cases hb : r.body <;> simp_all [RecordBody.isHeld, State.handleAt]

end

/-- A held request whose body writes a record. -/
theorem State.putRecord_finish_hold (free : (s.link l).outstanding = none) (slot : Nat) (r : Rec) (a : Answer) :
    ((s.hold l k g).putRecord slot r).finish l a = .next ((s.putRecord slot r).judge.send l g k.code a) :=
  State.finish_beside (f := fun t => t.putRecord slot r) (fun _ => rfl) l k g a free

end Sys2Proof.Machine
end

section
/-! HANDOVER and SETTLE (R165, R173 to R175): O50. -/
namespace Sys2Proof.Machine

variable {s : State} {g : Tag} {items : List Item} {serial slot : Nat} {r : Rec} {e : Entered} {q : Quote} {l : Label}
  {adj : Nat}

/-- A HANDOVER served looks its record up and retires it. -/
theorem exec_handover (hs : s.Serves .handover .dispatch items) (hn : serialOf items = some serial) :
    exec (.handover ⟨.dispatch, g⟩ items) s =
      labelledBySerial .dispatch serial refusedBusy (s.hold .dispatch .handover g) fun slot r _ _ _ _ rw t =>
        (t.retire slot r).finish .dispatch (.done (.handedOver (t.handleAt slot) serial (rw.map (·.verdict)))) := by
  dsimp only [exec, execHandover]
  rw [haltedRequest_serves .handover ⟨.dispatch, g⟩ items _ hs]
  simp only [hn]

theorem exec_handover_labelled {rw : Option ReweighPart} (hs : s.Serves .handover .dispatch items)
    (hn : serialOf items = some serial) (hf : s.FindsSerial serial slot r) (hbusy : r.busy = false)
    (hb : r.body = .labelled e q l adj rw) (hq : ∀ x ∈ s.queue, x.requester ≠ .dispatch) :
    exec (.handover ⟨.dispatch, g⟩ items) s =
      .next ((s.retire slot r).judge.send .dispatch g Kind.handover.code
        (.done (.handedOver ⟨slot, s.generation slot⟩ serial (rw.map (·.verdict))))) := by
  have away : ∀ x ∈ s.queue, x.requester.link ≠ .dispatch := fun x hx hl =>
    hq x hx (by cases h : x.requester <;> simp_all [Requester.link])
  obtain ⟨-, -, -, retires⟩ := (labelledBySerial_found hs.free hf (exec_handover (g := g) hs hn)).2 hbusy
  rw [retires e q l adj rw hb, State.handleAt_hold, State.retire_finish_hold away hs.free]
  rfl

/-- A SETTLE ACCEPT served looks its record up and adds the shortfall to the adjustment (R173). -/
theorem exec_settleAccept (hs : s.Serves .settle .supervisor items) (form : settleFormOf items = some 1) :
    exec (.settleAccept ⟨.supervisor, g⟩ items) s =
      heldRecord .supervisor items (s.hold .supervisor .settle g) fun slot r e q lab adj rw t =>
        (t.putRecord slot (r.change (.labelled e q lab (adj + rw.shortfall.getD 0)
          (some { rw with verdict := .settled })))).finish .supervisor
          (.done (.settled (t.handleAt slot) .settled (adj + rw.shortfall.getD 0) ((r.changeCount + 1) % 65536))) := by
  dsimp only [exec, execSettleAccept]
  rw [settleAccepted_eq form]
  exact haltedRequest_serves .settle ⟨.supervisor, g⟩ items _ hs

/-- A SETTLE VOID served looks its record up and retires it (R174). -/
theorem exec_settleVoid (hs : s.Serves .settle .supervisor items) (form : settleFormOf items = some 2) :
    exec (.settleVoid ⟨.supervisor, g⟩ items) s =
      heldRecord .supervisor items (s.hold .supervisor .settle g) fun slot r _ _ _ _ _ t =>
        (t.retire slot r).finish .supervisor (.done (.parcel (t.handleAt slot))) := by
  dsimp only [exec, execSettleVoid]
  rw [settleAccepted_eq form]
  exact haltedRequest_serves .settle ⟨.supervisor, g⟩ items _ hs

/-- Either form of SETTLE, on the held request. -/
theorem exec_settle {c : Instr} (hs : s.Serves .settle .supervisor items)
    (hc : (c = .settleAccept ⟨.supervisor, g⟩ items ∧ settleFormOf items = some 1) ∨
      (c = .settleVoid ⟨.supervisor, g⟩ items ∧ settleFormOf items = some 2)) :
    ∃ body, exec c s = heldRecord .supervisor items (s.hold .supervisor .settle g) body := by
  obtain ⟨rfl, form⟩ | ⟨rfl, form⟩ := hc
  · exact ⟨_, exec_settleAccept hs form⟩
  · exact ⟨_, exec_settleVoid hs form⟩

section
variable (hs : s.Serves .settle .supervisor items) (hf : s.FindsNamed items slot r) (hbusy : r.busy = false)
include hs hf hbusy

theorem exec_settleAccept_held {rw : ReweighPart} {reason : HoldReason} (form : settleFormOf items = some 1)
    (hb : r.body = .held e q l adj rw reason) :
    exec (.settleAccept ⟨.supervisor, g⟩ items) s =
      .next ((s.putRecord slot (r.change (.labelled e q l (adj + rw.shortfall.getD 0)
        (some { rw with verdict := .settled })))).judge.send .supervisor g Kind.settle.code
        (.done (.settled ⟨slot, s.generation slot⟩ .settled (adj + rw.shortfall.getD 0)
          ((r.changeCount + 1) % 65536)))) := by
  obtain ⟨-, settles, -⟩ := (heldRecord_found hs.free hf (exec_settleAccept (g := g) hs form)).2 hbusy
  rw [settles e q l adj rw reason hb, State.handleAt_hold]
  exact State.putRecord_finish_hold hs.free slot _ _

theorem exec_settleVoid_held (form : settleFormOf items = some 2) (hb : r.body.isHeld = true) :
    exec (.settleVoid ⟨.supervisor, g⟩ items) s =
      .next ((s.retire slot r).judge.send .supervisor g Kind.settle.code
        (.done (.parcel ⟨slot, s.generation slot⟩))) := by
  have away : ∀ x ∈ s.queue, x.requester.link ≠ .supervisor := fun x _ => by cases x.requester <;> nofun
  obtain ⟨-, retires, -⟩ := (heldRecord_found hs.free hf (exec_settleVoid (g := g) hs form)).2 hbusy
  cases held : r.body with
  | held e q lab adj rw reason =>
    rw [retires e q lab adj rw reason held, State.handleAt_hold, State.retire_finish_hold away hs.free]
    rfl
  | _ => simp [held, RecordBody.isHeld] at hb

theorem exec_settle_wrongState {c : Instr}
    (hc : (c = .settleAccept ⟨.supervisor, g⟩ items ∧ settleFormOf items = some 1) ∨
      (c = .settleVoid ⟨.supervisor, g⟩ items ∧ settleFormOf items = some 2))
    (hb : r.body.isHeld = false) (undamaged : ∀ lab, r.body ≠ .damaged lab) :
    exec c s = .next (s.send .supervisor g Kind.settle.code .wrongState) := by
  obtain ⟨body, he⟩ := exec_settle hs hc
  obtain ⟨-, -, wrong⟩ := (heldRecord_found hs.free hf he).2 hbusy
  exact wrong hb undamaged

end

/-- Settles O50: a HANDOVER goes by the record its serial finds, a SETTLE of either form by the one its handle or serial
finds; each retirement stands beside the held request. -/
theorem handoverAndSettle : Obligations.HandoverAndSettle := by
  unfold Obligations.HandoverAndSettle
  refine ⟨fun g items s serial slot r e q l adj rw hs hn hf hbusy hb hq =>
      exec_handover_labelled hs hn hf hbusy hb hq,
    fun g items s serial slot r hs hn => ⟨fun hi => ?_, fun hf => ?_⟩,
    fun g items s slot r c hs hc => ?_, fun g items s slot r hs hf hbusy => ?_⟩
  · rw [exec_handover hs hn, labelledBySerial_none hs.free hi]
  · obtain ⟨busy, unbusy⟩ := labelledBySerial_found hs.free hf (exec_handover (g := g) hs hn)
    refine ⟨busy, fun hbusy => ?_⟩
    obtain ⟨damaged, printing, held, -⟩ := unbusy hbusy
    exact ⟨damaged, printing, held⟩
  · obtain ⟨body, he⟩ := exec_settle hs hc
    refine ⟨fun hf => he.trans (heldRecord_none hs.free hf), fun hf => (heldRecord_found hs.free hf he).1,
      fun lab hf hbusy hb => ?_⟩
    obtain ⟨damaged, -, -⟩ := (heldRecord_found hs.free hf he).2 hbusy
    exact damaged lab hb
  · refine ⟨fun e q l adj rw reason hb form => exec_settleAccept_held hs hf hbusy form hb,
      fun hb form => exec_settleVoid_held hs hf hbusy form hb, fun hb undamaged =>
      ⟨fun form => exec_settle_wrongState hs hf hbusy (.inl ⟨rfl, form⟩) hb undamaged,
        fun form => exec_settle_wrongState hs hf hbusy (.inr ⟨rfl, form⟩) hb undamaged⟩⟩

end Sys2Proof.Machine
end

section
/-! REWEIGH (R165 to R168): O49. -/
namespace Sys2Proof.Machine

variable {s : State} {g : Tag} {items : List Item} {serial mass slot : Nat} {sides : Sides} {r : Rec} {e : Entered}
  {q : Quote} {lab : Label} {adj measured limit : Nat} {rw : Option ReweighPart} {l : BankLetter}

section
variable (hs : s.Serves .reweigh .dispatch items) (hn : serialOf items = some serial) (hm : massOf items = some mass)
  (hd : sidesOf items = some sides)
include hs hn hm hd

theorem exec_reweigh_noEdition (ha : s.activeBank = none) :
    exec (.reweigh ⟨.dispatch, g⟩ items) s = .next (s.send .dispatch g Kind.reweigh.code .noEdition) := by
  have active : (s.hold .dispatch .reweigh g).activeBank = none := ha
  dsimp only [exec, execReweigh]
  rw [haltedRequest_serves .reweigh ⟨.dispatch, g⟩ items _ hs]
  simp only [hn, hm, hd, active]
  exact State.reply_hold _ _ _ _ hs.free

/-- With a bank ACTIVE a REWEIGH served looks its record up and compares it. -/
theorem exec_reweigh (ha : s.activeBank = some l) :
    exec (.reweigh ⟨.dispatch, g⟩ items) s =
      labelledBySerial .dispatch serial refusedMarked (s.hold .dispatch .reweigh g) fun slot r e q lab adj _ t =>
        reweighLabelled .dispatch serial mass sides l slot r e q lab adj t := by
  have active : (s.hold .dispatch .reweigh g).activeBank = some l := ha
  dsimp only [exec, execReweigh]
  rw [haltedRequest_serves .reweigh ⟨.dispatch, g⟩ items _ hs]
  simp only [hn, hm, hd, active]

end

/-- The comparison of R166 on the held request: within the limit the reweigh part is stored; beyond it the re-rating
joins the queue, unless the queue is draining. -/
theorem reweighLabelled_held {recorded : Nat} {o : Outcome} (free : (s.link .dispatch).outstanding = none)
    (hr : s.record slot = some r) (he : e.mass = some recorded)
    (measures : measured = chargeableMass (decide (recorded < q.chargeable)) mass sides)
    (limits : limit = q.chargeable +
      ((s.bank l).parameters.grams + q.chargeable * (s.bank l).parameters.perMille / 1000))
    (ho : o = reweighLabelled .dispatch serial mass sides l slot r e q lab adj (s.hold .dispatch .reweigh g)) :
    (measured ≤ limit → o = .next
      ((s.putRecord slot (r.change (.labelled e q lab adj (some ⟨mass, sides, .agreed, none⟩)))).judge.send .dispatch g
        Kind.reweigh.code (.clear ⟨⟨slot, s.generation slot⟩, serial, .agreed, measured, limit, none,
          (r.changeCount + 1) % 65536⟩))) ∧
    (limit < measured → s.draining = true → o = .next (s.send .dispatch g Kind.reweigh.code .reset)) ∧
    (limit < measured → s.draining = false → o = .next (State.putRecord { s.hold .dispatch .reweigh g with
      pendingReweigh := some ⟨⟨slot, s.generation slot⟩, serial, mass, sides, measured, limit⟩,
      queue := s.queue ++ [⟨.rerateReweigh mass sides, ⟨slot, s.generation slot⟩, .dispatch, 0⟩] }
      slot { r with queued := true }).judge) := by
  have draining : (s.hold .dispatch .reweigh g).draining = s.draining := rfl
  have volumetric : recordedVolumetric e q = decide (recorded < q.chargeable) := by rw [recordedVolumetric, he]; rfl
  simp only [reweighLabelled, toleranceOf, volumetric, State.bank_hold, State.handleAt_hold, ← measures, ← limits,
    draining] at ho
  refine ⟨fun within => ?_, fun beyond drains => ?_, fun beyond drains => ?_⟩
  · rw [ho, if_pos within]
    exact State.putRecord_finish_hold free slot _ _
  · rw [ho, if_neg (Nat.not_le_of_lt beyond), if_pos drains]
    exact State.reply_hold _ _ _ _ free
  · have found : State.find { s.hold .dispatch .reweigh g with
        pendingReweigh := some ⟨s.handleAt slot, serial, mass, sides, measured, limit⟩ } (s.handleAt slot) = some r :=
      State.find_handleAt hr
    rw [ho, if_neg (Nat.not_le_of_lt beyond), drains, if_neg Bool.false_ne_true, State.join_found _ found]
    rfl

/-- Settles O49: REWEIGH goes by the ACTIVE bank, then by the record its serial finds, and a LABELLED one is compared. -/
theorem reweighComparesTheParcel : Obligations.ReweighComparesTheParcel := by
  unfold Obligations.ReweighComparesTheParcel
  intro g items s serial mass slot sides r l hs hn hm hd
  have found (ha : s.activeBank = some l) (hf : s.FindsSerial serial slot r) :=
    labelledBySerial_found hs.free hf (exec_reweigh (g := g) hs hn hm hd ha)
  refine ⟨exec_reweigh_noEdition hs hn hm hd, fun ha hi => ?_, fun ha hf marked => (found ha hf).1 ?_,
    fun ha hf hbusy hqueued => ?_⟩
  · rw [exec_reweigh hs hn hm hd ha, labelledBySerial_none hs.free hi]
  · simpa [refusedMarked] using marked
  · obtain ⟨damaged, printing, held, labelled⟩ := (found ha hf).2 (by simp [refusedMarked, hbusy, hqueued])
    obtain ⟨-, hr, -⟩ := hf
    exact ⟨printing, held, damaged, fun e q lab adj rw recorded measured limit hb he measures limits =>
      reweighLabelled_held hs.free hr he measures limits (labelled e q lab adj rw hb)⟩

end Sys2Proof.Machine
end

section
/-! The completed RERATE REWEIGH job (R170): O38. -/
namespace Sys2Proof.Machine

variable {s : State} {u : UnitNo} {j : Job} {pr : PendingReweigh} {r : Rec} {e : Entered} {q : Quote} {l : Label}
  {adj : Nat} {rw : Option ReweighPart}

/-! ### The verdict -/

theorem reweighVerdict_underpaid {fresh : Quote} {short : Nat} (total : fresh.total = q.total + adj + short)
    (positive : 0 < short) : reweighVerdict pr r e q l adj (.quote fresh) =
      some (r.change (.held e q l adj ⟨pr.mass, pr.sides, .held, some short⟩ .underpaid),
        .divert ⟨pr.handle, pr.serial, .underpaid fresh.total short, pr.chargeable, (r.changeCount + 1) % 65536⟩) := by
  have exceeds : q.total + adj < fresh.total := by omega
  have shortfall : fresh.total - (q.total + adj) = short := by omega
  simp only [reweighVerdict, if_pos exceeds, shortfall]
  rfl

theorem reweighVerdict_paid {fresh : Quote} (total : fresh.total ≤ q.total + adj) :
    reweighVerdict pr r e q l adj (.quote fresh) =
      some (r.change (.labelled e q l adj (some ⟨pr.mass, pr.sides, .agreed, none⟩)),
        .clear ⟨pr.handle, pr.serial, .agreed, pr.chargeable, pr.limit, some fresh.total,
          (r.changeCount + 1) % 65536⟩) := by
  simp only [reweighVerdict, if_neg (Nat.not_lt_of_le total)]
  rfl

theorem reweighVerdict_fault (f : FaultReport) : reweighVerdict pr r e q l adj (.fault f) =
    some (r.change (.held e q l adj ⟨pr.mass, pr.sides, .held, none⟩ (.rerateFault f.kind)),
      .divert ⟨pr.handle, pr.serial, .rerateFault f, pr.chargeable, (r.changeCount + 1) % 65536⟩) := rfl

/-! ### The completion -/

theorem State.finishJob_dispatch (hp : j.entry.requester = .dispatch) (a : Answer) :
    s.finishJob u j a =
      .next (State.judge { (s.endJob u j).answer .dispatch a with pendingReweigh := none }) := by
  rw [State.finishJob, hp, State.answerRequester]

/-- A completed re-rating writes the record of its verdict, ends the job and answers the dispatch line. -/
theorem exec_rerate {mass : Nat} {sides : Sides} {result : JobResult} {r' : Rec} {a : Answer} (hs : s.Live)
    (hu : s.unit u = some j) (hd : j.discarded = false) (hk : j.entry.kind = .rerateReweigh mass sides)
    (hp : j.entry.requester = .dispatch) (hf : s.Finds j.entry.handle r) (hb : r.body = .labelled e q l adj rw)
    (hw : s.pendingReweigh = some pr) (hr : s.runJob u j = (s, some result))
    (hv : reweighVerdict pr r e q l adj result = some (r', a)) :
    exec (.rerateReweighCompletion u) s = .next (State.judge
      { ((s.putRecord j.entry.handle.slot r').endJob u j).answer .dispatch a with pendingReweigh := none }) := by
  refine (completion_applies hs hu hd (by rw [hk]; rfl) hr hf).trans ?_
  simp only [hw, hb, hv]
  exact State.finishJob_dispatch hp a

/-- Settles O38: the verdict goes by the fresh total or the fault, and the completion carries it out. -/
theorem rerateDecidesTheParcel : Obligations.RerateDecidesTheParcel := by
  unfold Obligations.RerateDecidesTheParcel
  intro s u j r e q l adj mass sides rw pr result body a hs hu hd hk hp hf hb hw hrun hcase
  have decided {result : JobResult} (hr : s.runJob u j = (s, some result))
      (hv : reweighVerdict pr r e q l adj result = some (r.change body, a)) :=
    exec_rerate hs hu hd hk hp hf hb hw hr hv
  have quoted {fresh : Quote} (h : result = .ok (.quote fresh)) : s.runJob u j = (s, some (.quote fresh)) := by
    subst h
    obtain ⟨f, -, faulted⟩ | ⟨hn, hproc⟩ := hrun
    · nomatch faulted
    · exact State.runJob_ok hn hproc
  obtain ⟨fresh, short, hres, total, positive, rfl, rfl⟩ | ⟨fresh, hres, total, rfl, rfl⟩ | ⟨f, rfl, rfl, rfl⟩ := hcase
  · exact decided (quoted hres) (reweighVerdict_underpaid total positive)
  · exact decided (quoted hres) (reweighVerdict_paid total)
  · refine decided (State.runJob_faulted ?_) (reweighVerdict_fault f)
    obtain ⟨f', found, same⟩ | ⟨hn, hproc⟩ := hrun
    · cases same
      exact .inl found
    · exact .inr ⟨hn, hproc⟩

end Sys2Proof.Machine
end

section
/-! The reports of the Integrity Checker (R179, R181): O29. -/
namespace Sys2Proof.Machine

variable {log : List LogEntry} {e : LogEntry}

/-! ### The integrity state -/

/-- The table of R181. -/
theorem IntegrityState.afterReport_eq (i : IntegrityState) (alertEnable : Bool) :
    i.afterReport alertEnable = if i = .normal ∧ alertEnable = true then .alert else .halted := by
  cases i <;> simp [IntegrityState.afterReport]

/-- A report leaves ALERT only from NORMAL with the alert enable set. -/
theorem IntegrityState.afterReport_alert_iff (i : IntegrityState) (alertEnable : Bool) :
    i.afterReport alertEnable = .alert ↔ i = .normal ∧ alertEnable = true := by
  rw [IntegrityState.afterReport_eq]
  split <;> simp_all

/-! ### The failure log -/

theorem appendLog_room (room : log.length < 8) : appendLog log e = log ++ [e] := if_pos room

theorem appendLog_full (full : log.length = 8) : appendLog log e = log.tail ++ [e] := by
  have some : log ≠ [] := by
    rintro rfl
    cases full
  rw [appendLog, if_neg (by rw [full]; decide), full, ← List.tail_append_of_ne_nil some]
  exact List.drop_one

/-- The log never grows past eight entries. -/
theorem length_appendLog_le (bounded : log.length ≤ 8) : (appendLog log e).length ≤ 8 := by
  rcases Nat.lt_or_eq_of_le bounded with room | full
  · rw [appendLog_room room, List.length_append]
    exact room
  · rw [appendLog_full full, List.length_append, List.length_tail, full]
    rfl

/-- Settles O29: the checker's take of a report, field by field, and the event it raises. -/
theorem reportsMoveTheIntegrityState : Obligations.ReportsMoveTheIntegrityState := by
  unfold Obligations.ReportsMoveTheIntegrityState
  intro s subject reader
  rw [State.report_integrity, State.report_attention]
  refine ⟨IntegrityState.afterReport_eq _ _, rfl, rfl, fun entry same => ?_, length_appendLog_le, ?_⟩
  · subst same
    exact ⟨appendLog_room, appendLog_full⟩
  · exact if_congr (IntegrityState.afterReport_alert_iff _ _) rfl rfl

end Sys2Proof.Machine
end

section
/-! The part HALTED (R183): O9. -/
namespace Sys2Proof.Machine

variable {s : State} {k : Kind} {h : Header} {ok : Bool} {items : List Item}

/-! ### A request in HALTED is its link checks and the answer HALTED -/

/-- A request of HALTED: the link checks, then the answer HALTED (R183). -/
def requestHalted (k : Kind) (h : Header) (ok : Bool) (s : State) : Outcome :=
  request k h ok s fun t => t.reply h.link .halted

/-- A body is reached past the link checks alone, on the held request. -/
theorem request_congr {body body' : State → Outcome}
    (hb : sortOf h.link = linkSort k → body (s.hold h.link k h.tag) = body' (s.hold h.link k h.tag)) :
    request k h ok s body = request k h ok s body' := by
  unfold request
  split
  · rfl
  · split
    · rfl
    · rename_i hr
      refine hb (by_contra fun sort => ?_)
      simp [linkRefusal, sort] at hr

theorem haltedRequest_eq_requestHalted (hh : s.halted = true) (body : State → Outcome) :
    haltedRequest k h ok s body = requestHalted k h ok s :=
  request_congr fun _ => if_pos ((s.halted_hold _ _ _).trans hh)

theorem positionRequest_eq_requestHalted (hh : s.halted = true) (hk : linkSort k = .position)
    (body : PositionNo → Session → Option Reservation → State → Outcome) :
    positionRequest k h ok s body = requestHalted k h ok s :=
  request_congr fun sort => by
    obtain ⟨l, g⟩ := h
    cases l with
    | position p => exact if_pos ((s.halted_hold _ _ _).trans hh)
    | dispatch | supervisor => rw [hk] at sort; cases sort

/-- Admitted, it is answered HALTED and nothing else changes. -/
theorem requestHalted_admitted (ha : s.Admits k h.link items) :
    requestHalted k h (itemsAccepted k items) s = .next (s.send h.link h.tag k.code .halted) := by
  have ⟨_, _, free, _⟩ := ha
  exact (request_admitted k h items _ ha).trans (State.reply_hold _ _ _ _ free)

/-! ### The answer HALTED -/

/-- An accepted PATCH carries one of the three changes. -/
theorem patchChange_of_accepted (accepted : itemsAccepted .patch items = true) :
    patchChangeOf items = some 1 ∨ patchChangeOf items = some 2 ∨ patchChangeOf items = some 3 := by
  obtain ⟨i, hi, code, range⟩ := required_of_accepted accepted (c := 0x1D) (by decide) (by decide)
  have found : (patchChangeOf items).isSome = true := by
    refine List.findSome?_isSome_iff.2 ⟨i, hi, ?_⟩
    cases i <;> simp_all [Item.code, itemInRange]
  obtain ⟨n, hn⟩ := Option.isSome_iff_exists.1 found
  obtain ⟨j, hj, he⟩ := List.exists_of_findSome?_eq_some hn
  have range := inRange_of_accepted accepted (by decide) j hj
  rw [hn]
  cases j <;> simp only [reduceCtorEq, Option.some.injEq] at he
  subst he
  simp only [itemInRange, Bool.or_eq_true, Bool.and_eq_true, beq_iff_eq] at range
  simp only [Option.some.injEq]
  tauto

/-- The items of a PATCH row are accepted where they carry its change. -/
theorem patchAccepted_eq {code : Nat} (hc : patchChangeOf items = some code) :
    patchAccepted code items = itemsAccepted .patch items := by simp [patchAccepted, hc]

theorem exec_patch_halted (hh : s.halted = true) (accepted : itemsAccepted .patch items = true) :
    exec (requestCommand .patch h items) s = requestHalted .patch h (itemsAccepted .patch items) s := by
  obtain hc | hc | hc := patchChange_of_accepted accepted <;>
    simp only [requestCommand, hc, exec, execPatchWithdraw, execPatchRestore, execPatchRegrade, patchAccepted_eq hc] <;>
    exact haltedRequest_eq_requestHalted hh _

theorem exec_settle_halted (hh : s.halted = true) (accepted : itemsAccepted .settle items = true) :
    exec (requestCommand .settle h items) s = requestHalted .settle h (itemsAccepted .settle items) s := by
  obtain hf | hf := settleForm_of_accepted accepted <;>
    simp only [requestCommand, hf, exec, execSettleAccept, execSettleVoid, settleAccepted_eq hf] <;>
    exact haltedRequest_eq_requestHalted hh _

/-- Every request but STATUS and CANCEL, its items accepted, is its link checks and the answer HALTED. -/
theorem exec_request_halted (hh : s.halted = true) (hs : k ≠ .status) (hc : k ≠ .cancel)
    (accepted : itemsAccepted k items = true) :
    exec (requestCommand k h items) s = requestHalted k h (itemsAccepted k items) s := by
  by_cases hk : linkSort k = .position
  · obtain ⟨body, he⟩ := exec_positionKind hk hc h items s
    rw [he, positionRequest_eq_requestHalted hh hk]
  · cases k with
    | patch => exact exec_patch_halted hh accepted
    | settle => exact exec_settle_halted hh accepted
    | status => exact absurd rfl hs
    | reweigh | handover | setTime | setTimers | setEnables | acknowledge | loadBlock | querySupervisor
    | voidSupervisor | softReset =>
      dsimp only [requestCommand, exec, execReweigh, execHandover, execSetTime, execSetTimers, execSetEnables,
        execAcknowledge, execLoadBlock, execQuerySupervisor, execVoidSupervisor, execSoftReset]
      exact haltedRequest_eq_requestHalted hh _
    | openPosition | closePosition | resetPosition | suspend | resume | grant | deny =>
      dsimp only [requestCommand, exec, execOpenPosition, execClosePosition, execResetPosition, execSuspend, execResume,
        execGrant, execDeny, atPosition]
      exact haltedRequest_eq_requestHalted hh _
    | bankClear | bankCopy | bankWrite | bankVerify | scheduleSwitch | unschedule =>
      dsimp only [requestCommand, exec, execBankClear, execBankCopy, execBankWrite, execBankVerify, execScheduleSwitch,
        execUnschedule, bankRequest]
      exact haltedRequest_eq_requestHalted hh _
    | _ => exact absurd rfl hk

/-- CANCEL is answered HALTED whether or not its link holds a request (R129, R187). -/
theorem exec_cancel_halted (hh : s.halted = true) (ha : s.resetAsserted = false)
    (sort : sortOf h.link = linkSort .cancel) (accepted : itemsAccepted .cancel items = true) :
    exec (.cancel h items) s = .next (s.send h.link h.tag Kind.cancel.code .halted) := by
  have passes : linkRefusal s .cancel h.link (itemsAccepted .cancel items) = none := by
    simp [linkRefusal, sort, accepted]
  simp only [exec, execCancel, ha, passes, hh, Bool.false_eq_true, if_false, if_true]

/-! ### What HALTED keeps -/

/-- An outcome goes on with every block standing as it did (R183). -/
def State.FreezesTo (s : State) (o : Outcome) : Prop := ∃ t, o = .next t ∧ s.FrozenAs t

/-- Hall time and the transcript of answers are no part of what HALTED keeps. -/
theorem State.frozenAs_outside (s : State) (time : Nat) (sent : List AnswerFrame) :
    s.FrozenAs { s with hallTime := time, answers := sent } := by and_intros <;> rfl

theorem State.freezesTo_self (s : State) : s.FreezesTo (.next s) :=
  ⟨s, rfl, s.frozenAs_outside s.hallTime s.answers⟩

theorem State.freezesTo_send (s : State) (l : Link) (g : Tag) (kind : Byte) (a : Answer) :
    s.FreezesTo (.next (s.send l g kind a)) := ⟨_, rfl, s.frozenAs_outside s.hallTime _⟩

/-- A link that takes a request other than CANCEL holds none. -/
theorem free_of_linkRefusal {l : Link} (hk : k ≠ .cancel) (hr : linkRefusal s k l ok = none) :
    (s.link l).outstanding = none := by
  by_contra held
  have held : (s.link l).outstanding.isSome = true := Option.isSome_iff_ne_none.2 held
  by_cases sort : sortOf l = linkSort k <;> simp [linkRefusal, sort, held, hk] at hr

/-- A request whose body does nothing but answer it keeps every block: the link is freed again at once. -/
theorem request_freezesTo (hk : k ≠ .cancel) {body : State → Outcome}
    (hb : ∀ t, ∃ a, body t = t.reply h.link a) : s.FreezesTo (request k h ok s body) := by
  unfold request
  split
  · exact s.freezesTo_self
  · split
    · exact s.freezesTo_send ..
    · obtain ⟨a, ha⟩ := hb (s.hold h.link k h.tag)
      rw [ha, State.reply_hold _ _ _ _ (free_of_linkRefusal hk ‹_›)]
      exact s.freezesTo_send ..

theorem haltedRequest_freezesTo (hh : s.halted = true) (hk : k ≠ .cancel) (body : State → Outcome) :
    s.FreezesTo (haltedRequest k h ok s body) := by
  rw [haltedRequest_eq_requestHalted hh]
  exact request_freezesTo hk fun _ => ⟨_, rfl⟩

theorem positionRequest_freezesTo (hh : s.halted = true) (hk : k ≠ .cancel) (sort : linkSort k = .position)
    (body : PositionNo → Session → Option Reservation → State → Outcome) :
    s.FreezesTo (positionRequest k h ok s body) := by
  rw [positionRequest_eq_requestHalted hh sort]
  exact request_freezesTo hk fun _ => ⟨_, rfl⟩

/-- STATUS reads and answers (R196). -/
theorem execStatus_freezesTo : s.FreezesTo (execStatus h items s) :=
  request_freezesTo (by decide) fun t => by
    split
    · exact ⟨_, rfl⟩
    · exact ⟨_, rfl⟩

theorem execCancel_freezesTo (hh : s.halted = true) : s.FreezesTo (execCancel h items s) := by
  simp only [execCancel, hh, if_true]
  split
  · exact s.freezesTo_self
  · split
    · exact s.freezesTo_send ..
    · exact s.freezesTo_send ..

theorem execUnknownRequest_freezesTo (kind : Byte) : s.FreezesTo (execUnknownRequest h kind s) := by
  unfold execUnknownRequest
  split
  · exact s.freezesTo_self
  · exact s.freezesTo_send ..

/-- In HALTED a tick counts hall time alone (R183, R191). -/
theorem execHallTimeTick_freezesTo (hh : s.halted = true) : s.FreezesTo (execHallTimeTick s) := by
  unfold execHallTimeTick
  split
  · exact s.freezesTo_self
  · exact ⟨_, congrArg _ (if_pos hh), s.frozenAs_outside _ s.answers⟩

/-- An event whose guard is met does not come about (log entry 2). -/
theorem State.freezesTo_guarded {guard : Bool} (hg : guard = true) (o : Outcome) :
    s.FreezesTo (if guard then .next s else o) := by
  rw [if_pos hg]
  exact s.freezesTo_self

/-- No command but the two of the reset input changes a block in HALTED. -/
theorem exec_freezesTo (hh : s.halted = true) {c : Instr} (hc : isReset c = false) : s.FreezesTo (exec c s) := by
  have guarded : (s.resetAsserted || s.halted) = true := by simp [hh]
  cases c with
  | hardReset | resetRelease => cases hc
  | newParcel | setAttributes | rate | commit | printed | spoilt | query | amendAddOption | takeOver | void =>
    dsimp only [exec, execNewParcel, execSetAttributes, execRate, execCommit, execPrinted, execSpoilt, execQuery,
      execAmendAddOption, execTakeOver, execVoid]
    exact positionRequest_freezesTo hh (by decide) rfl _
  | cancel => exact execCancel_freezesTo hh
  | status => exact execStatus_freezesTo
  | reweigh | handover | setTime | setTimers | setEnables | acknowledge | loadBlock | patchWithdraw | patchRestore
  | patchRegrade | settleAccept | settleVoid | querySupervisor | voidSupervisor | softReset =>
    dsimp only [exec, execReweigh, execHandover, execSetTime, execSetTimers, execSetEnables, execAcknowledge,
      execLoadBlock, execPatchWithdraw, execPatchRestore, execPatchRegrade, execSettleAccept, execSettleVoid,
      execQuerySupervisor, execVoidSupervisor, execSoftReset]
    exact haltedRequest_freezesTo hh (by decide) _
  | openPosition | closePosition | resetPosition | suspend | resume | grant | deny =>
    dsimp only [exec, execOpenPosition, execClosePosition, execResetPosition, execSuspend, execResume, execGrant,
      execDeny, atPosition]
    exact haltedRequest_freezesTo hh (by decide) _
  | bankClear | bankWrite | bankCopy | bankVerify | scheduleSwitch | unschedule =>
    dsimp only [exec, execBankClear, execBankCopy, execBankWrite, execBankVerify, execScheduleSwitch, execUnschedule,
      bankRequest]
    exact haltedRequest_freezesTo hh (by decide) _
  | frameDiscarded => exact s.freezesTo_self
  | unknownRequest => exact execUnknownRequest_freezesTo _
  | hallTimeTick => exact execHallTimeTick_freezesTo hh
  | grantOfJob => exact State.freezesTo_guarded (by simp [guarded]) _
  | patchApplied | drainEnd | printDeadlineExpiry | escalationTimeout | graceExpiry | switch | rateJobCompletion
  | rateOptionCompletion | rerateReweighCompletion | discardedJobCompletion | jobReadFailsCheck =>
    dsimp only [exec, execPatchApplied, execDrainEnd, execPrintDeadlineExpiry, execEscalationTimeout, execGraceExpiry,
      execSwitch, execRateJobCompletion, execRateOptionCompletion, execRerateReweighCompletion, completion,
      execDiscardedJobCompletion, execJobReadFailsCheck]
    exact State.freezesTo_guarded guarded _

/-- Settles O9: in HALTED a request is its link checks and one answer, and no event comes about but the tick of hall
time. -/
theorem haltedFreezesTheBlocks : Obligations.HaltedFreezesTheBlocks := by
  unfold Obligations.HaltedFreezesTheBlocks
  refine ⟨fun k h items s hh hs taken => ?_, fun c s hh hc => exec_freezesTo hh hc⟩
  by_cases hc : k = .cancel
  · subst hc
    obtain ⟨ha, sort, -, accepted⟩ | ⟨-, ha, sort, accepted⟩ := taken <;>
      exact exec_cancel_halted hh ha sort accepted
  · have admits : s.Admits k h.link items := taken.resolve_right fun cancel => hc cancel.1
    have ⟨_, _, _, accepted⟩ := admits
    rw [exec_request_halted hh hs hc accepted, requestHalted_admitted admits]

end Sys2Proof.Machine
end

section
/-! SUPPORT. What a step leaves of the form of the stores and of the conditions reported: the shared operations keep the
canonical form of the generations and of the banks. That the records and the index stay in form is part of
`step_keepsTariff`. -/
namespace Sys2Proof.Machine

variable {s t u : State}

/-! ### One bank -/

theorem Bank.canonical_iff (b : Bank) : b.canonical = true ↔
    b.segments.canonical (· == .unused) = true ∧ b.zones.canonical (· == .unused) = true ∧
      b.nSlots.canonical (· == .empty) = true ∧ b.hSlots.canonical (· == .empty) = true := by
  simp only [Bank.canonical, Bool.and_eq_true, and_assoc]

variable {b : Bank}

theorem Bank.canonical_putSegment (h : b.canonical = true) (n : Nat) (c : Cell Segment) :
    (b.putSegment n c).canonical = true := by
  obtain ⟨segments, rest⟩ := b.canonical_iff.1 h
  exact (Bank.canonical_iff _).2 ⟨Table.canonical_put _ _ _ _ segments, rest⟩

theorem Bank.canonical_putPlace (h : b.canonical = true) (n : Nat) (c : Cell Zone) :
    (b.putPlace n c).canonical = true := by
  obtain ⟨segments, zones, rest⟩ := b.canonical_iff.1 h
  exact (Bank.canonical_iff _).2 ⟨segments, Table.canonical_put _ _ _ _ zones, rest⟩

theorem Bank.canonical_putSlot (h : b.canonical = true) (sel : Selector) (c : SlotCell) :
    (b.putSlot sel c).canonical = true := by
  obtain ⟨segments, zones, nSlots, hSlots⟩ := b.canonical_iff.1 h
  unfold Bank.putSlot
  split
  · exact (Bank.canonical_iff _).2 ⟨segments, zones, Table.canonical_put _ _ _ _ nSlots, hSlots⟩
  · exact (Bank.canonical_iff _).2 ⟨segments, zones, nSlots, Table.canonical_put _ _ _ _ hSlots⟩

theorem Bank.canonical_damage (h : b.canonical = true) (e : BankEntry) : (b.damage e).canonical = true := by
  unfold Bank.damage
  cases e with
  | segment n => exact Bank.canonical_putSegment h n _
  | place n => exact Bank.canonical_putPlace h n _
  | slot sel => exact Bank.canonical_putSlot h sel _

theorem Bank.canonical_takeWrite (h : b.canonical = true) (w : BankWrite) : (b.takeWrite w).canonical = true := by
  have written : (b.write w).canonical = true := by
    cases w with
    | parameters p => exact h
    | segment n c => exact Bank.canonical_putSegment h n _
    | place n c => exact Bank.canonical_putPlace h n _
    | limit table n => cases table <;> exact h
    | slot sel c present => exact Bank.canonical_putSlot h sel _
  exact written

theorem Bank.canonical_copyOf (h : b.canonical = true) : b.copyOf.canonical = true := by
  obtain ⟨segments, zones, nSlots, hSlots⟩ := b.canonical_iff.1 h
  exact (Bank.canonical_iff _).2 ⟨Table.canonical_filter _ _ _ segments, Table.canonical_filter _ _ _ zones,
    Table.canonical_filter _ _ _ nSlots, Table.canonical_filter _ _ _ hSlots⟩

theorem Bank.tick_canonical (b : Bank) : b.tick.canonical = b.canonical := by
  unfold Bank.tick
  split <;> rfl

theorem Bank.expired_canonical (b : Bank) : b.expired.canonical = b.canonical := by
  unfold Bank.expired
  split <;> rfl

theorem Bank.unscheduled_canonical (b : Bank) : b.unscheduled.canonical = b.canonical := by
  unfold Bank.unscheduled
  split <;> rfl

/-! ### The state -/

/-- The generations and the stores of the banks are in canonical form. -/
structure State.Formed (s : State) : Prop where
  generations : s.table.generations.canonical (· == 1) = true
  banks : ∀ l, (s.bank l).canonical = true

/-- The canonical form of the stores goes over from `s` to `t`. -/
def State.KeepsForm (s t : State) : Prop := s.Formed → t.Formed

/-- Every store is in form where the generations and the banks are and the keys of records and index rise. -/
theorem State.canonical_iff_formed : s.canonical = true ↔ s.table.Rising ∧ s.Formed := by
  simp only [State.canonical, Bool.and_eq_true, RecordTable.Rising, Table.canonical_iff (α := Rec),
    Table.canonical_iff (α := IndexEntry), implies_true, and_true]
  constructor
  · rintro ⟨⟨⟨⟨records, generations⟩, index⟩, bankA⟩, bankB⟩
    exact ⟨⟨records, index⟩, generations, fun l => match l with | .a => bankA | .b => bankB⟩
  · rintro ⟨⟨records, index⟩, generations, banks⟩
    exact ⟨⟨⟨⟨records, generations⟩, index⟩, banks .a⟩, banks .b⟩

namespace State.KeepsForm

theorem refl (s : State) : s.KeepsForm s := id

theorem trans (h : s.KeepsForm t) (k : t.KeepsForm u) : s.KeepsForm u := fun formed => k (h formed)

/-- What the form looks at stands as it did. -/
theorem frame (h : t.table.generations = s.table.generations ∧ t.bankA = s.bankA ∧ t.bankB = s.bankB) :
    s.KeepsForm t := by
  obtain ⟨generations, bankA, bankB⟩ := h
  refine fun formed => ⟨by rw [generations]; exact formed.generations, fun l => ?_⟩
  rw [State.bank_congr bankA bankB]
  exact formed.banks l

theorem setBank {l : BankLetter} {b : Bank} (hb : s.Formed → b.canonical = true) : s.KeepsForm (s.setBank l b) := by
  refine fun formed => ⟨by simpa using formed.generations, fun m => ?_⟩
  by_cases hm : l = m
  · subst hm
    rw [State.bank_setBank]
    exact hb formed
  · rw [State.bank_setBank_other _ _ _ _ hm]
    exact formed.banks m

/-- A bank changes in its state and its counts alone. -/
theorem setAlike {l : BankLetter} {b : Bank} (hb : b.canonical = (s.bank l).canonical) :
    s.KeepsForm (s.setBank l b) := setBank fun formed => hb.trans (formed.banks l)

/-- A fold keeps the form where each of its steps does. -/
theorem foldl {α : Type} {f : State → α → State} (hf : ∀ (s : State) x, s.KeepsForm (f s x)) (l : List α)
    (s : State) : s.KeepsForm (l.foldl f s) := by
  induction l generalizing s with
  | nil => exact refl s
  | cons x rest ih => exact (hf s x).trans (ih _)

theorem answer (s : State) (l : Link) (a : Answer) : s.KeepsForm (s.answer l a) := frame (by simp)

theorem setCtx (s : State) (p : PositionNo) (c : Context) : s.KeepsForm (s.setCtx p c) := frame (by simp)

theorem judge (s : State) : s.KeepsForm s.judge := frame (by simp)

theorem raise (s : State) (c : Cause) : s.KeepsForm (s.raise c) := frame (by simp)

theorem report (s : State) (x : ReportSubject) (r : Reader) : s.KeepsForm (s.report x r) := frame (by simp)

theorem answerRequester (s : State) (q : Requester) (a : Answer) : s.KeepsForm (s.answerRequester q a) :=
  frame (by simp)

/-! ### Pins, records and jobs -/

theorem takePin (s : State) (l : BankLetter) : s.KeepsForm (s.takePin l) := setAlike rfl

theorem releasePin (s : State) (l : BankLetter) : s.KeepsForm (s.releasePin l) := by
  unfold State.releasePin
  dsimp only
  split
  · split
    · exact fun formed => raise _ _ (setAlike rfl formed)
    · exact setAlike rfl
  · exact setAlike rfl

theorem releaseBodyPin (s : State) (b : RecordBody) : s.KeepsForm (s.releaseBodyPin b) := by
  unfold State.releaseBodyPin
  split
  · exact releasePin s _
  · exact refl s

theorem putRecord (s : State) (n : Nat) (r : Rec) : s.KeepsForm (s.putRecord n r) := frame ⟨rfl, rfl, rfl⟩

theorem putIndex (s : State) (n : Nat) (e : IndexEntry) : s.KeepsForm (s.putIndex n e) := frame ⟨rfl, rfl, rfl⟩

theorem eraseIndex (s : State) (n : Nat) : s.KeepsForm (s.eraseIndex n) := frame ⟨rfl, rfl, rfl⟩

theorem freeSlot (s : State) (n : Nat) : s.KeepsForm (s.freeSlot n) := fun formed =>
  ⟨Table.canonical_put _ _ _ _ formed.generations, fun l => match l with | .a => formed.banks .a | .b => formed.banks .b⟩

theorem markBusy (s : State) (n : Nat) (m : Bool) : s.KeepsForm (s.markBusy n m) := by
  unfold State.markBusy
  split
  · exact putRecord s _ _
  · exact refl s

theorem markQueued (s : State) (n : Nat) (m : Bool) : s.KeepsForm (s.markQueued n m) := by
  unfold State.markQueued
  split
  · exact putRecord s _ _
  · exact refl s

theorem join (s : State) (e : QueueEntry) : s.KeepsForm (s.join e) :=
  trans (t := { s with queue := s.queue ++ [e] }) (frame ⟨rfl, rfl, rfl⟩) (markQueued _ _ _)

theorem removeEntryOf (s : State) (r : Requester) : s.KeepsForm (s.removeEntryOf r) := by
  unfold State.removeEntryOf
  split
  · exact refl s
  · exact trans (t := { s with queue := s.queue.filter fun x => x.requester != r }) (frame ⟨rfl, rfl, rfl⟩)
      (markQueued _ _ _)

theorem dropEntryOn (s : State) (h : Handle) (a : Answer) : s.KeepsForm (s.dropEntryOn h a) := frame (by simp)

theorem endJobOn (s : State) (h : Handle) (a : Answer) : s.KeepsForm (s.endJobOn h a) := by
  cases hv : s.unitOn h with
  | none =>
    rw [State.endJobOn_none _ _ _ hv]
    exact refl s
  | some v =>
    obtain ⟨j, hj, -⟩ := State.unitOn_some hv
    have ended : s.KeepsForm (s.jobEnded v j) :=
      trans (t := s.setUnit v none) (frame ⟨rfl, rfl, rfl⟩) (releasePin _ _)
    rw [State.endJobOn_some a hv hj]
    split
    · exact ended
    · exact ended.trans (answerRequester _ _ _)

theorem endUnread (s : State) (h : Handle) (subject : ReportSubject) : s.KeepsForm (s.endUnread h subject) := by
  unfold State.endUnread
  split
  · exact refl s
  · exact (endJobOn s h _).trans (markBusy _ _ _)

theorem endJob (s : State) (v : UnitNo) (j : Job) : s.KeepsForm (s.endJob v j) := by
  have marked := (releasePin s j.bank).trans (markBusy _ j.entry.handle.slot false)
  exact marked.trans (frame ⟨rfl, rfl, rfl⟩)

theorem damageRecord (s : State) (n : Nat) (r : Rec) (subject : ReportSubject) :
    s.KeepsForm (s.damageRecord n r subject) := by
  unfold State.damageRecord
  split
  · exact refl s
  · exact (putRecord s _ _).trans ((releaseBodyPin _ _).trans ((endJobOn _ _ _).trans (dropEntryOn _ _ _)))

/-! ### Reads (R177) -/

theorem readAt (s : State) (reader : Reader) (n : Nat) (r : Rec) : s.KeepsForm (s.readAt reader n r).1 := by
  cases hs : r.sound
  · rw [s.readAt_failing reader n r hs]
    exact (damageRecord s _ _ _).trans (report _ _ _)
  · rw [s.readAt_sound reader n r hs]
    exact refl s

theorem lookupHandle (s : State) (reader : Reader) (h : Handle) : s.KeepsForm (s.lookupHandle reader h).1 := by
  unfold State.lookupHandle
  split
  · exact refl s
  · exact readAt s reader _ _

theorem failIndexEntry (s : State) (reader : Reader) (serial : Nat) (e : IndexEntry) :
    s.KeepsForm (s.failIndexEntry reader serial e).1 := by
  have first := putIndex s serial { e with failed := true }
  simp only [State.failIndexEntry]
  split
  · exact first.trans (report _ _ _)
  · split
    · exact first.trans (report _ _ _)
    · exact first.trans ((damageRecord _ _ _ _).trans (report _ _ _))

theorem lookupSerial (s : State) (reader : Reader) (serial : Nat) : s.KeepsForm (s.lookupSerial reader serial).1 := by
  unfold State.lookupSerial
  split
  · exact refl s
  · split
    · exact refl s
    · split
      · split
        · exact refl s
        · exact readAt s reader _ _
      · exact failIndexEntry s reader serial _

theorem lookupItems (s : State) (reader : Reader) (items : List Item) :
    s.KeepsForm (s.lookupItems reader items).1 := by
  unfold State.lookupItems
  split
  · exact lookupHandle s reader _
  · split
    · exact lookupSerial s reader _
    · exact refl s

theorem readEach (reader : Reader) (l : List Nat) (s : State) : s.KeepsForm (readEach reader l s) := by
  induction l generalizing s with
  | nil => exact refl s
  | cons n rest ih =>
    unfold Machine.readEach
    split
    · exact ih s
    · exact (readAt s reader _ _).trans (ih _)

theorem readAll (s : State) (reader : Reader) : s.KeepsForm (s.readAll reader) := readEach reader _ s

/-! ### Retirement, the return to DRAFT, the end of print -/

theorem retire (s : State) (n : Nat) (r : Rec) : s.KeepsForm (s.retire n r) := by
  have unlabelled (v : State) (l : Option Label) :
      v.KeepsForm (match l with | some l => v.eraseIndex l.serial | none => v) := by
    cases l with
    | none => exact refl v
    | some l => exact eraseIndex v _
  exact (releaseBodyPin s r.body).trans ((unlabelled _ r.body.label).trans ((dropEntryOn _ _ _).trans (freeSlot _ n)))

theorem toDraft (s : State) (n : Nat) (r : Rec) (e : Entered) : s.KeepsForm (s.toDraft n r e) :=
  (putRecord s _ _).trans (releaseBodyPin _ _)

theorem unprint (s : State) (n : Nat) (r : Rec) (e : Entered) (q : Quote) (l : Label) :
    s.KeepsForm (s.unprint n r e q l) := by
  refine (eraseIndex s l.serial).trans ?_
  unfold State.unprint
  dsimp only
  split
  · exact toDraft _ _ _ _
  · exact putRecord _ _ _

/-! ### Banks -/

theorem lapseEach (l : List Nat) (s : State) : s.KeepsForm (lapseEach l s).1 := by
  induction l generalizing s with
  | nil => exact refl s
  | cons n rest ih =>
    unfold Machine.lapseEach
    split
    · exact ih s
    · rename_i r _
      have read : s.KeepsForm (s.readAt .graceExpiry n r).1 := readAt s _ _ _
      split
      · rename_i t m q hf
        rw [hf] at read
        split
        · exact read.trans ((toDraft _ _ _ _).trans (ih _))
        · exact read.trans (ih _)
      · rename_i t found hf
        rw [hf] at read
        exact read.trans (ih _)

theorem expireGrace (s : State) (l : BankLetter) : s.KeepsForm (s.expireGrace l) := by
  have lapsed := lapseEach (ratedOn l s.table.records.cells) s
  have ended (v : State) : v.KeepsForm (v.setBank l (v.bank l).expired) := setAlike (Bank.expired_canonical _)
  rw [State.expireGrace_eq]
  dsimp only
  split
  · exact lapsed.trans ((ended _).trans (raise _ _))
  · exact lapsed.trans (ended _)

theorem retireOutgoing (s : State) (l : BankLetter) (grace : Nat) : s.KeepsForm (s.retireOutgoing l grace) := by
  unfold State.retireOutgoing
  dsimp only
  split
  · split <;> exact setAlike rfl
  · exact refl s

theorem takeSwitch (s : State) (l : BankLetter) : s.KeepsForm (s.takeSwitch l) := by
  unfold State.takeSwitch
  split
  · rename_i ed effective grace _
    have office : s.KeepsForm ((s.setBank l { s.bank l with state := .active ed }).retireOutgoing (otherBank l) grace) :=
      fun formed => retireOutgoing _ _ _ (setAlike rfl formed)
    dsimp only
    split
    · exact office.trans ((raise _ _).trans (expireGrace _ _))
    · exact office.trans (raise _ _)
  · exact refl s

theorem switchIfDue (s : State) : s.KeepsForm s.switchIfDue := by
  unfold State.switchIfDue
  split
  · exact takeSwitch s _
  · exact refl s

theorem jobsReadOn (s : State) (l : BankLetter) (e : BankEntry) (own : Option UnitNo) :
    s.KeepsForm (s.jobsReadOn l e own) := frame (by simp)

theorem failBankEntry (s : State) (l : BankLetter) (e : BankEntry) (reader : Reader) (own : Option UnitNo) :
    s.KeepsForm (s.failBankEntry l e reader own) :=
  (jobsReadOn s l e own).trans ((setBank fun formed => Bank.canonical_damage (formed.banks l) e).trans (report _ _ _))

theorem patchSlot (s : State) (p : Patch) : s.KeepsForm (s.patchSlot p).1 := by
  have put (c : SlotCell) : s.KeepsForm (s.setBank p.bank ((s.bank p.bank).putSlot p.sel c)) :=
    setBank fun formed => Bank.canonical_putSlot (formed.banks _) _ _
  unfold State.patchSlot
  dsimp only
  split
  · exact refl s
  · split
    · split
      · exact refl s
      · exact put _
      · exact refl s
    · split
      · exact failBankEntry s _ _ _ _
      · split
        · exact refl s
        · exact put _

/-! ### The soft reset, the second and the hard reset (R197, R192, R198) -/

theorem beginDrain (s : State) : s.KeepsForm s.beginDrain := by
  have positions : s.KeepsForm ((List.finRange 24).foldl State.softResetPosition s) :=
    foldl (fun v p => frame (by simp)) _ s
  have dispatch (v : State) : v.KeepsForm v.softResetDispatch := frame (by simp)
  have unmarked (v : State) : v.KeepsForm (v.queue.foldl (fun t e => t.markQueued e.handle.slot false) v) :=
    foldl (fun v _ => markQueued v _ _) _ v
  have queue (v : State) : v.KeepsForm v.softResetQueue := (unmarked v).trans (frame ⟨rfl, rfl, rfl⟩)
  have drained (v : State) : v.KeepsForm
      { v with grantState := .draining, bankA := v.bankA.unscheduled, bankB := v.bankB.unscheduled } := by
    have a : v.KeepsForm (v.setBank .a v.bankA.unscheduled) := setAlike (Bank.unscheduled_canonical _)
    have b (w : State) : w.KeepsForm (w.setBank .b w.bankB.unscheduled) := setAlike (Bank.unscheduled_canonical _)
    exact a.trans ((b _).trans (frame ⟨rfl, rfl, rfl⟩))
  exact positions.trans ((dispatch _).trans ((queue _).trans (drained _)))

theorem countDown (s : State) : s.KeepsForm s.countDown := by
  unfold State.countDown
  split
  · exact refl s
  · refine fun formed => ⟨formed.generations, fun l => ?_⟩
    cases l with
    | a => exact (Bank.tick_canonical _).trans (formed.banks .a)
    | b => exact (Bank.tick_canonical _).trans (formed.banks .b)

/-- A hard reset empties the generations and the banks. -/
theorem hardResetValues (s : State) (asserted : Bool) : s.KeepsForm (s.hardResetValues asserted) :=
  fun _ => ⟨rfl, fun l => match l with | .a => rfl | .b => rfl⟩

end State.KeepsForm

end Sys2Proof.Machine
end

section
/-! SUPPORT. The conditions the blocks report (R115, R146, R172), and the outcomes of a command that keeps the form of
the stores and leaves the conditions remembered as they are reported (R193). -/
namespace Sys2Proof.Machine

variable {s t u : State}

/-! ### The conditions -/

theorem State.escalation_iff : s.conditions.escalation = true ↔ ∃ p, (s.ctx p).isEscalated = true := by
  simp only [State.conditions, List.any_eq_true, Vector.mem_toList_iff, Vector.mem_iff_getElem]
  constructor
  · rintro ⟨_, ⟨i, hi, rfl⟩, h⟩
    exact ⟨⟨i, hi⟩, h⟩
  · rintro ⟨p, h⟩
    exact ⟨_, ⟨p.val, p.isLt, rfl⟩, h⟩

theorem Context.isEscalated_iff (c : Context) : c.isEscalated = true ↔ ∃ session slot, c = .escalated session slot := by
  cases c <;> simp [Context.isEscalated]

theorem RecordBody.isHeld_iff (b : RecordBody) :
    b.isHeld = true ↔ ∃ e q l adj rw reason, b = .held e q l adj rw reason := by
  cases b <;> simp [RecordBody.isHeld]

theorem State.poolLow_iff :
    s.conditions.poolLow = true ↔ (s.pool.blocks.map fun b => b.last + 1 - b.next).sum < s.pool.threshold :=
  decide_eq_true_iff

theorem State.held_iff : s.conditions.held = true ↔ ∃ c ∈ s.table.records.cells, c.2.body.isHeld = true := by
  simp only [State.conditions, List.any_eq_true]

/-- What the conditions are read from: which positions are ESCALATED, the pool, and whether a record is HELD. -/
theorem State.conditions_congr (escalated : ∀ p, (t.ctx p).isEscalated = (s.ctx p).isEscalated)
    (pool : t.pool = s.pool) (held : t.conditions.held = s.conditions.held) : t.conditions = s.conditions := by
  have escalation : t.conditions.escalation = s.conditions.escalation := by
    rw [Bool.eq_iff_iff, State.escalation_iff, State.escalation_iff]
    simp only [escalated]
  have poolLow : t.conditions.poolLow = s.conditions.poolLow := by simp only [State.conditions, pool]
  exact Conditions.mk.injEq .. ▸ ⟨escalation, poolLow, held⟩

theorem State.judge_judged (s : State) : s.judge.Judged := rfl

/-- The conditions remembered and those reported stand as they did. -/
structure State.Steady (s t : State) : Prop where
  remembered : t.attention.conditions = s.attention.conditions
  reported : t.conditions = s.conditions

namespace State.Steady

theorem judged (h : s.Steady t) : s.Judged → t.Judged := fun j => (h.remembered.trans j).trans h.reported.symm

theorem frame (h : t.table = s.table ∧ t.pool = s.pool ∧ t.positions = s.positions ∧ t.attention = s.attention) :
    s.Steady t := by
  obtain ⟨table, pool, positions, attention⟩ := h
  exact ⟨by rw [attention], by simp only [State.conditions, table, pool, positions]⟩

/-- A position that neither becomes nor ceases to be ESCALATED. -/
theorem setCtx {p : PositionNo} {c : Context} (h : c.isEscalated = (s.ctx p).isEscalated) : s.Steady (s.setCtx p c) := by
  refine ⟨rfl, State.conditions_congr (fun q => ?_) rfl rfl⟩
  by_cases hq : p = q
  · subst hq
    rw [State.ctx_setCtx, h]
  · rw [State.ctx_setCtx_other _ _ _ _ hq]

theorem tick_isHeld (r : Rec) : r.tick.body.isHeld = r.body.isHeld := by
  unfold Rec.tick
  split
  · rename_i h
    rw [h]
    rfl
  · rfl

theorem tick_isEscalated (c : Context) : c.tick.isEscalated = c.isEscalated := by cases c <;> rfl

/-- A second changes no condition. -/
theorem countDown (s : State) : s.Steady s.countDown := by
  unfold State.countDown
  split
  · exact ⟨rfl, rfl⟩
  · refine ⟨rfl, State.conditions_congr (fun p => ?_) rfl ?_⟩
    · rw [State.ctx, Vector.get_map, tick_isEscalated]
      rfl
    · simp only [State.conditions, Table.mapValues, List.any_map, Function.comp_def, tick_isHeld]

end State.Steady

/-! ### Outcomes -/

/-- Wherever an outcome goes on, the form of the stores is kept, and the conditions remembered are those reported. -/
def State.SettlesTo (s : State) (o : Outcome) : Prop := ∀ t, o = .next t → s.KeepsForm t ∧ (s.Judged → t.Judged)

namespace State.SettlesTo

theorem next (h : s.KeepsForm t) (j : s.Judged → t.Judged) : s.SettlesTo (.next t) := by
  rintro _ ⟨⟩
  exact ⟨h, j⟩

/-- What form and conditions look at stands as it did. -/
theorem frame (h : t.table = s.table ∧ t.pool = s.pool ∧ t.positions = s.positions ∧ t.attention = s.attention ∧
    t.bankA = s.bankA ∧ t.bankB = s.bankB) : s.SettlesTo (.next t) := by
  obtain ⟨table, pool, positions, attention, bankA, bankB⟩ := h
  exact next (.frame ⟨by rw [table], bankA, bankB⟩) (State.Steady.frame ⟨table, pool, positions, attention⟩).judged

theorem idle (s : State) : s.SettlesTo (.next s) := next (.refl s) id

theorem reply (s : State) (l : Link) (a : Answer) : s.SettlesTo (s.reply l a) := frame (by simp)

/-- The conditions judged in the end, whatever came before. -/
theorem judge (h : s.KeepsForm t) : s.SettlesTo (.next t.judge) := next (h.trans (.judge t)) fun _ => t.judge_judged

theorem finish (h : s.KeepsForm t) (l : Link) (a : Answer) : s.SettlesTo (t.finish l a) :=
  judge (h.trans (.answer t l a))

/-- What keeps form and conditions may go first. -/
theorem after (h : s.KeepsForm t) (j : s.Steady t) {o : Outcome} (ho : t.SettlesTo o) : s.SettlesTo o := fun v hv =>
  have ⟨form, judged⟩ := ho v hv
  ⟨h.trans form, fun k => judged (j.judged k)⟩

/-- A position that is not ESCALATED before or after gets its new context first. -/
theorem afterCtx {p : PositionNo} {c : Context} (h : c.isEscalated = (s.ctx p).isEscalated) {o : Outcome}
    (ho : (s.setCtx p c).SettlesTo o) : s.SettlesTo o := after (.setCtx s p c) (.setCtx h) ho

/-- An outcome continued by a judgement. -/
theorem andThenJudge {o : Outcome} {f : State → State} (h : s.KeepsForm t) (ho : t.SettlesTo o)
    (hf : ∀ t : State, t.KeepsForm (f t)) : s.SettlesTo (andThen o fun t => (f t).judge) := by
  cases o with
  | next v =>
    have gone : t.KeepsForm v := (ho v rfl).1
    exact judge (h.trans (gone.trans (hf v)))
  | fault r => rintro _ ⟨⟩
  | refused r => rintro _ ⟨⟩

end State.SettlesTo

/-! ### The path of a request (R187, R183, R117, R80) -/

theorem request_settles {k : Kind} {h : Header} {ok : Bool} {body : State → Outcome}
    (hb : ∀ s : State, s.SettlesTo (body s)) : s.SettlesTo (request k h ok s body) := by
  intro t ht
  rcases request_cases ht with rfl | ⟨a, rfl⟩ | hn
  · exact ⟨.refl _, id⟩
  · exact State.SettlesTo.frame (t := s.send h.link h.tag k.code a) (by simp) _ rfl
  · exact State.SettlesTo.after (t := s.hold h.link k h.tag) (.frame (by simp)) (.frame (by simp)) (hb _) t hn

theorem haltedRequest_settles {k : Kind} {h : Header} {ok : Bool} {body : State → Outcome}
    (hb : ∀ s : State, s.SettlesTo (body s)) : s.SettlesTo (haltedRequest k h ok s body) :=
  request_settles fun s => by
    split
    · exact .reply s _ _
    · exact hb s

theorem positionRequest_settles {k : Kind} {h : Header} {ok : Bool}
    {body : PositionNo → Session → Option Reservation → State → Outcome}
    (hb : ∀ p session res (s : State), s.ctx p = .opened session res → s.SettlesTo (body p session res s)) :
    s.SettlesTo (positionRequest k h ok s body) :=
  request_settles fun s => by
    split
    · split
      · exact .reply s _ _
      · split
        · exact .reply s _ _
        · exact .reply s _ _
        · exact hb _ _ _ s ‹_›
        · exact .reply s _ _
        · exact .reply s _ _
    · exact .reply s _ _

theorem withRecord_settles {p : PositionNo} {items : List Item} {refusing : Rec → Bool}
    {body : Handle → Rec → State → Outcome} (hb : ∀ h r, s.SettlesTo (body h r s)) :
    s.SettlesTo (withRecord p items s refusing body) := by
  intro t ht
  rcases withRecord_cases ht with ⟨a, rfl⟩ | ⟨h, a, rfl⟩ | ⟨h, r, -, -, -, -, hn⟩
  · exact State.SettlesTo.reply s (.position p) a _ rfl
  · exact State.SettlesTo.finish (.lookupHandle s _ h) _ _ _ rfl
  · exact hb h r t hn

theorem atPosition_settles {k : Kind} {h : Header} {items : List Item} {body : PositionNo → State → Outcome}
    (hb : ∀ p (s : State), s.SettlesTo (body p s)) : s.SettlesTo (atPosition k h items s body) :=
  haltedRequest_settles fun s => by
    split
    · exact .reply s _ _
    · exact hb _ s

/-- A lookup that finds no record has changed nothing. -/
theorem State.readAt_noRecord {reader : Reader} {n : Nat} {r : Rec} : s.readAt reader n r ≠ (t, .noRecord) := by
  cases hs : r.sound
  · rw [s.readAt_failing reader n r hs]
    exact nofun
  · rw [s.readAt_sound reader n r hs]
    exact nofun

theorem State.lookupSerial_noRecord {reader : Reader} {serial : Nat}
    (hl : s.lookupSerial reader serial = (t, .noRecord)) : t = s := by
  unfold State.lookupSerial at hl
  split at hl
  · cases hl
    rfl
  · split at hl
    · cases hl
    · split at hl
      · split at hl
        · cases hl
          rfl
        · exact absurd hl State.readAt_noRecord
      · cases hl

theorem State.lookupItems_noRecord {reader : Reader} {items : List Item}
    (hl : s.lookupItems reader items = (t, .noRecord)) : t = s := by
  unfold State.lookupItems at hl
  split at hl
  · unfold State.lookupHandle at hl
    split at hl
    · cases hl
      rfl
    · exact absurd hl State.readAt_noRecord
  · split at hl
    · exact State.lookupSerial_noRecord hl
    · cases hl
      rfl

theorem labelledBySerial_settles {l : Link} {serial : Nat} {refusing : Rec → Bool}
    {body : Nat → Rec → Entered → Quote → Label → Nat → Option ReweighPart → State → Outcome}
    (hb : ∀ n r e q lab adj rw (s : State), s.SettlesTo (body n r e q lab adj rw s)) :
    s.SettlesTo (labelledBySerial l serial refusing s body) := by
  have read := State.KeepsForm.lookupSerial s .dispatch serial
  unfold labelledBySerial
  split <;> rename_i hl
  · rw [State.lookupSerial_noRecord hl]
    exact .reply s _ _
  · rw [hl] at read
    exact .finish read _ _
  · obtain ⟨rfl, -, -⟩ := State.lookupSerial_found hl
    split
    · exact .reply _ _ _
    · split
      · exact .reply _ _ _
      · exact .reply _ _ _
      · exact .reply _ _ _
      · exact hb _ _ _ _ _ _ _ _
      · exact .reply _ _ _
      · exact .reply _ _ _

theorem heldRecord_settles {l : Link} {items : List Item}
    {body : Nat → Rec → Entered → Quote → Label → Nat → ReweighPart → State → Outcome}
    (hb : ∀ n r e q lab adj rw (s : State), s.SettlesTo (body n r e q lab adj rw s)) :
    s.SettlesTo (heldRecord l items s body) := by
  have read := State.KeepsForm.lookupItems s .supervisor items
  unfold heldRecord
  split <;> rename_i hl
  · rw [State.lookupItems_noRecord hl]
    exact .reply s _ _
  · rw [hl] at read
    exact .finish read _ _
  · obtain ⟨rfl, -, -⟩ := State.lookupItems_found hl
    split
    · exact .reply _ _ _
    · split
      · exact .reply _ _ _
      · exact hb _ _ _ _ _ _ _ _
      · exact .reply _ _ _

theorem bankRequest_settles {k : Kind} {h : Header} {items : List Item} {body : BankLetter → State → Outcome}
    (hb : ∀ l (s : State), s.SettlesTo (body l s)) : s.SettlesTo (bankRequest k h items s body) :=
  haltedRequest_settles fun s => by
    split
    · exact .reply s _ _
    · split
      · exact hb _ s
      · exact .reply s _ _

end Sys2Proof.Machine
end

section
/-! SUPPORT. Every command keeps the form of the stores and the conditions as they are judged: records, the dispatch
line, positions. -/
namespace Sys2Proof.Machine

variable {s t : State}

/-! ### Acceptance (05) -/

theorem State.KeepsForm.escalate (s : State) (p : PositionNo) (session : Session) (pend : Bool) (q : HeldRequest)
    (needed : Nat) (f : FaultReport) : s.KeepsForm (s.escalate p session pend q needed f) := frame (by simp)

theorem execNewParcel_settles (h : Header) (items : List Item) : s.SettlesTo (execNewParcel h items s) :=
  positionRequest_settles fun p _ _ s _ => by
    have read := State.KeepsForm.readAll s (.position p)
    dsimp only
    split
    · exact .finish read _ _
    · split
      · exact .finish read _ _
      · exact .finish (read.trans (.putRecord _ _ _)) _ _

theorem execSetAttributes_settles (h : Header) (items : List Item) : s.SettlesTo (execSetAttributes h items s) :=
  positionRequest_settles fun _ _ _ s _ => withRecord_settles fun hd r => by
    split
    · exact .reply s _ _
    · split
      · exact .reply s _ _
      · split
        · exact .reply s _ _
        · split
          · exact .reply s _ _
          · split
            · exact .reply s _ _
            · exact .finish (.toDraft s _ _ _) _ _

theorem rateRequest_settles (p : PositionNo) (session : Session) (res : Option Reservation) (eg : Nat) (tag : Tag)
    (items : List Item) : s.SettlesTo (rateRequest p session res eg tag items s) :=
  withRecord_settles fun hd r => by
    split
    · exact .reply s _ _
    · split
      · exact .reply s _ _
      · rename_i e _
        split
        · exact .reply s _ _
        · split
          · exact .reply s _ _
          · have drafted : s.KeepsForm (if r.body.pin.isSome then s.toDraft hd.slot r e else s) := by
              split
              · exact .toDraft s _ _ _
              · exact .refl s
            exact .judge (drafted.trans (.trans (.join _ _) (.setCtx _ _ _)))

theorem commitRequest_settles (p : PositionNo) (session : Session) (eg : Nat) (tag : Tag) (items : List Item) :
    s.SettlesTo (commitRequest p session eg tag items s) :=
  withRecord_settles fun hd r => by
    split
    · exact .reply s _ _
    · split
      · rename_i e q _
        dsimp only
        split
        · split
          · exact .finish (.trans (.failBankEntry s _ _ _ _) (.toDraft _ _ _ _)) _ _
          · exact .finish (.toDraft s _ _ _) _ _
        · split
          · exact .judge (.escalate s _ _ _ _ _ _)
          · split
            · exact .reply s _ _
            · rename_i serial pool _
              split
              · have drawn : s.KeepsForm { s with pool := pool } := .frame ⟨rfl, rfl, rfl⟩
                exact .finish (drawn.trans (.trans (.putIndex _ _ _) (.putRecord _ _ _))) _ _
              · exact .finish (.failBankEntry s _ _ _ _) _ _
              · split <;> exact .reply s _ _
      · exact .reply s _ _

theorem execPrinted_settles (h : Header) (items : List Item) : s.SettlesTo (execPrinted h items s) :=
  positionRequest_settles fun _ _ _ s _ => withRecord_settles fun hd r => by
    split
    · exact .reply s _ _
    · split
      · split
        · exact .finish (.trans (.putRecord s _ _) (.releasePin _ _)) _ _
        · exact .reply s _ _
      · exact .reply s _ _

theorem execSpoilt_settles (h : Header) (items : List Item) : s.SettlesTo (execSpoilt h items s) :=
  positionRequest_settles fun _ _ _ s _ => withRecord_settles fun hd r => by
    split
    · exact .reply s _ _
    · split
      · split
        · exact .finish (.unprint s _ _ _ _ _) _ _
        · exact .reply s _ _
      · exact .reply s _ _

theorem execPrintDeadlineExpiry_settles (n : Nat) : s.SettlesTo (execPrintDeadlineExpiry n s) := by
  unfold execPrintDeadlineExpiry
  split
  · exact .idle s
  · split
    · exact .idle s
    · split
      · rename_i r _ _ _ _ _ _
        have read := State.KeepsForm.readAt s .printDeadline n r
        split
        · rename_i hf
          obtain ⟨rfl, -, -, -⟩ := State.readAt_found hf
          split
          · exact .judge (.unprint _ _ _ _ _ _)
          · exact .idle _
        · rename_i hf
          rw [hf] at read
          exact .judge read
      · exact .idle s

/-! ### Shared records (06) -/

theorem execQuery_settles (h : Header) (items : List Item) : s.SettlesTo (execQuery h items s) :=
  positionRequest_settles fun p session res s hc => by
    have read := State.KeepsForm.lookupItems s (.position p) items
    split <;> rename_i hl
    · rw [State.lookupItems_noRecord hl]
      exact .reply s _ _
    · rw [hl] at read
      exact .finish read _ _
    · obtain ⟨rfl, -, -⟩ := State.lookupItems_found hl
      dsimp only
      split
      · exact .afterCtx (by rw [hc]; rfl) (.reply _ _ _)
      · exact .reply _ _ _

theorem execQuerySupervisor_settles (h : Header) (items : List Item) : s.SettlesTo (execQuerySupervisor h items s) :=
  haltedRequest_settles fun s => by
    have read := State.KeepsForm.lookupItems s .supervisor items
    split <;> rename_i hl
    · rw [State.lookupItems_noRecord hl]
      exact .reply s _ _
    · rw [hl] at read
      exact .finish read _ _
    · obtain ⟨rfl, -, -⟩ := State.lookupItems_found hl
      exact .reply _ _ _

section
variable {p : PositionNo} {session : Session} {res : Option Reservation}

theorem amendRequest_settles (hc : s.ctx p = .opened session res) (presented : Option Reservation) (eg : Nat)
    (tag : Tag) (items : List Item) : s.SettlesTo (amendRequest p session presented eg tag items s) :=
  withRecord_settles fun hd r => by
    refine .afterCtx (p := p) (c := .opened session none) (by rw [hc]; rfl) ?_
    dsimp only
    split
    · exact .reply _ _ _
    · split
      · split
        · exact .reply _ _ _
        · split
          · exact .reply _ _ _
          · split
            · exact .reply _ _ _
            · split
              · exact .judge (.escalate _ _ _ _ _ _ _)
              · split
                · exact .reply _ _ _
                · exact .judge (.trans (.join _ _) (.setCtx _ _ _))
      · exact .reply _ _ _

theorem voidRequest_settles (hc : s.ctx p = .opened session res) (presented : Option Reservation) (eg : Nat)
    (tag : Tag) (items : List Item) : s.SettlesTo (voidRequest p session presented eg tag items s) :=
  withRecord_settles fun hd r => by
    split
    · refine .afterCtx (p := p) (c := .opened session none) (by rw [hc]; rfl) ?_
      split
      · exact .reply _ _ _
      · split
        · exact .judge (.escalate _ _ _ _ _ _ _)
        · exact .finish (.retire _ _ _) _ _
    · exact .reply s _ _
    · split
      · exact .reply s _ _
      · exact .finish (.retire s _ _) _ _

end

theorem execTakeOver_settles (h : Header) (items : List Item) : s.SettlesTo (execTakeOver h items s) :=
  positionRequest_settles fun p session res s hc => withRecord_settles fun hd r => by
    refine .afterCtx (p := p) (c := .opened session none) (by rw [hc]; rfl) ?_
    dsimp only
    split
    · exact .reply _ _ _
    · split
      · exact .reply _ _ _
      · split
        · exact .reply _ _ _
        · have read := State.KeepsForm.readAll (s.setCtx p (.opened session none)) (.position p)
          split
          · exact .finish read _ _
          · exact .finish (read.trans (.putRecord _ _ _)) _ _

theorem execVoidSupervisor_settles (h : Header) (items : List Item) : s.SettlesTo (execVoidSupervisor h items s) :=
  haltedRequest_settles fun s => by
    have read := State.KeepsForm.lookupItems s .supervisor items
    split <;> rename_i hl
    · rw [State.lookupItems_noRecord hl]
      exact .reply s _ _
    · rw [hl] at read
      exact .finish read _ _
    · obtain ⟨rfl, -, -⟩ := State.lookupItems_found hl
      split
      · exact .reply _ _ _
      · exact .finish (.retire _ _ _) _ _

/-! ### The dispatch line (10) -/

theorem execReweigh_settles (h : Header) (items : List Item) : s.SettlesTo (execReweigh h items s) :=
  haltedRequest_settles fun s => by
    split
    · split
      · exact .reply s _ _
      · refine labelledBySerial_settles fun n r e q lab adj _ s => ?_
        unfold reweighLabelled
        dsimp only
        split
        · exact .finish (.putRecord s _ _) _ _
        · split
          · exact .reply s _ _
          · exact .judge (.trans (t := { s with pendingReweigh := some _ }) (.frame ⟨rfl, rfl, rfl⟩) (.join _ _))
    · exact .reply s _ _

theorem execHandover_settles (h : Header) (items : List Item) : s.SettlesTo (execHandover h items s) :=
  haltedRequest_settles fun s => by
    split
    · exact .reply s _ _
    · exact labelledBySerial_settles fun _ _ _ _ _ _ _ s => .finish (.retire s _ _) _ _

theorem execSettleAccept_settles (h : Header) (items : List Item) : s.SettlesTo (execSettleAccept h items s) :=
  haltedRequest_settles fun _ => heldRecord_settles fun _ _ _ _ _ _ _ s => .finish (.putRecord s _ _) _ _

theorem execSettleVoid_settles (h : Header) (items : List Item) : s.SettlesTo (execSettleVoid h items s) :=
  haltedRequest_settles fun _ => heldRecord_settles fun _ _ _ _ _ _ _ s => .finish (.retire s _ _) _ _

/-! ### Label numbers and positions (08, 07) -/

theorem execLoadBlock_settles (h : Header) (items : List Item) : s.SettlesTo (execLoadBlock h items s) :=
  haltedRequest_settles fun s => by
    split
    · unfold loadBlock
      dsimp only
      split
      · exact .reply s _ _
      · split
        · exact .reply s _ _
        · split
          · exact .reply s _ _
          · split
            · exact .reply s _ _
            · exact .finish (.failIndexEntry s _ _ _) _ _
            · exact .finish (.frame (by simp)) _ _
    · exact .reply s _ _

theorem execOpenPosition_settles (h : Header) (items : List Item) : s.SettlesTo (execOpenPosition h items s) :=
  atPosition_settles fun p s => by
    split
    · split
      · exact .finish (.setCtx s _ _) _ _
      · exact .reply s _ _
    · exact .reply s _ _

theorem execClosePosition_settles (h : Header) (items : List Item) : s.SettlesTo (execClosePosition h items s) :=
  atPosition_settles fun p s => by
    split
    · exact .reply s _ _
    · have read := State.KeepsForm.readAll s .supervisor
      dsimp only
      split
      · exact .finish read _ _
      · exact .finish (read.trans (.setCtx _ _ _)) _ _
    · exact .reply s _ _

theorem State.KeepsForm.discardJobOf (s : State) (r : Requester) : s.KeepsForm (s.discardJobOf r) := by
  unfold State.discardJobOf
  split
  · exact .refl s
  · exact .frame ⟨rfl, rfl, rfl⟩

theorem execResetPosition_settles (h : Header) (items : List Item) : s.SettlesTo (execResetPosition h items s) :=
  atPosition_settles fun p s => by
    split
    · exact .reply s _ _
    · have gone := (State.KeepsForm.removeEntryOf s (.position p)).trans (.discardJobOf _ (.position p))
      exact .finish (gone.trans (.trans (.answer _ _ _) (.setCtx _ _ _))) _ _

theorem reexecute_settles {p : PositionNo} {session : Session} {res : Option Reservation}
    (hc : s.ctx p = .opened session res) (g : Nat) (request : HeldRequest) :
    s.SettlesTo (reexecute p session g request s) := by
  unfold reexecute
  split
  · exact rateRequest_settles _ _ _ _ _ _
  · exact commitRequest_settles _ _ _ _ _
  · exact amendRequest_settles hc _ _ _ _
  · exact voidRequest_settles hc _ _ _ _

theorem execGrant_settles (h : Header) (items : List Item) : s.SettlesTo (execGrant h items s) :=
  atPosition_settles fun p s => by
    split
    · exact .reply s _ _
    · split
      · exact .reply s _ _
      · split
        · exact .reply s _ _
        · exact .andThenJudge (.setCtx s p _) (reexecute_settles (s.ctx_setCtx p _) _ _) fun t => .answer t _ _
      · exact .reply s _ _

theorem State.KeepsForm.endEscalation (s : State) (p : PositionNo) (session : Session) (a : Answer) :
    s.KeepsForm (s.endEscalation p session a) := frame (by simp)

theorem execDeny_settles (h : Header) (items : List Item) : s.SettlesTo (execDeny h items s) :=
  atPosition_settles fun p s => by
    split
    · exact .reply s _ _
    · exact .finish (.endEscalation s _ _ _) _ _
    · exact .reply s _ _

theorem cancelAt_settles (h : Header) (p : PositionNo) : s.SettlesTo (cancelAt h p s) := by
  unfold cancelAt
  dsimp only
  split
  · exact .frame (by simp)
  · exact .frame (by simp)
  · exact .frame (by simp)
  · exact .judge (.frame (by simp))
  · split
    · exact .frame (by simp)
    · exact .judge (.trans (.removeEntryOf s (.position p)) (.frame (by simp)))

theorem execCancel_settles (h : Header) (items : List Item) : s.SettlesTo (execCancel h items s) := by
  unfold execCancel
  split
  · exact .idle s
  · split
    · exact .frame (by simp)
    · split
      · exact .frame (by simp)
      · split
        · exact cancelAt_settles h _
        · exact .frame (by simp)

theorem execSuspend_settles (h : Header) (items : List Item) : s.SettlesTo (execSuspend h items s) :=
  atPosition_settles fun p s => by
    split
    · exact .finish (.setCtx s _ _) _ _
    · exact .finish (.setCtx s _ _) _ _
    · exact .finish (.setCtx s _ _) _ _
    · exact .reply s _ _
    · exact .reply s _ _

theorem execResume_settles (h : Header) (items : List Item) : s.SettlesTo (execResume h items s) :=
  atPosition_settles fun p s => by
    split
    · exact .finish (.setCtx s _ _) _ _
    · exact .finish (.setCtx s _ _) _ _
    · exact .finish (.setCtx s _ _) _ _
    · exact .reply s _ _

theorem execEscalationTimeout_settles (p : PositionNo) : s.SettlesTo (execEscalationTimeout p s) := by
  unfold execEscalationTimeout
  split
  · exact .idle s
  · split
    · split
      · exact .judge (.endEscalation s _ _ _)
      · exact .idle s
    · exact .idle s

end Sys2Proof.Machine
end

section
/-! SUPPORT. Every command keeps the form of the stores and the conditions as they are judged: jobs, the tariff, the
hall. -/
namespace Sys2Proof.Machine

variable {s t : State}

/-! ### Jobs (04) -/

theorem State.KeepsForm.dropEntry (e : QueueEntry) (a : Answer) (s : State) :
    s.KeepsForm ((s.removeEntryOf e.requester).answerRequester e.requester a) :=
  (removeEntryOf s e.requester).trans (answerRequester _ _ _)

/-- A grant ends with the conditions judged. -/
theorem grantEntry_settles (e : QueueEntry) (v : UnitNo) (l : BankLetter) (edition : Nat) (values : JobValues)
    (r : Rec) : s.SettlesTo (.next (grantEntry e v l edition values r s)) := by
  unfold grantEntry
  extract_lets queued started r' marked
  have granted : s.KeepsForm marked :=
    State.KeepsForm.trans (t := started.putRecord e.handle.slot r') (.frame ⟨rfl, rfl, rfl⟩) (.takePin _ l)
  have read := granted.trans (.readAt marked (.unit v) e.handle.slot r')
  split <;> rename_i hl <;> rw [hl] at read
  · exact .judge (read.trans (.endUnread _ _ _))
  · exact .judge read

theorem execGrantOfJob_settles : s.SettlesTo (execGrantOfJob s) := by
  unfold execGrantOfJob
  split
  · exact .idle s
  · split
    · split
      · exact .idle s
      · split
        · exact .judge (.dropEntry _ _ s)
        · split
          · exact .judge (.dropEntry _ _ s)
          · exact grantEntry_settles _ _ _ _ _ _
    · exact .idle s

theorem State.KeepsForm.jobReadFails (s : State) (v : UnitNo) (j : Job) (e : BankEntry) (f : FaultReport) :
    s.KeepsForm (s.jobReadFails v j e f) := (failBankEntry s _ _ _ _).trans (frame ⟨rfl, rfl, rfl⟩)

theorem State.KeepsForm.runJob (s : State) (v : UnitNo) (j : Job) : s.KeepsForm (s.runJob v j).1 := by
  unfold State.runJob
  split
  · exact .refl s
  · split
    · exact .refl s
    · exact .refl s
    · exact .jobReadFails s _ _ _ _

theorem finishJob_settles (h : s.KeepsForm t) (v : UnitNo) (j : Job) (a : Answer) : s.SettlesTo (t.finishJob v j a) :=
  .judge (h.trans (.trans (.endJob t v j) (.answerRequester _ _ a)))

theorem positionFault_settles (h : s.KeepsForm t) (v : UnitNo) (j : Job) (f : FaultReport) :
    s.SettlesTo (positionFault v j f t) := by
  unfold positionFault
  split
  · exact finishJob_settles h v j _
  · split
    · split
      · exact finishJob_settles h v j _
      · split
        · exact finishJob_settles h v j _
        · exact .judge (h.trans (.trans (.endJob t v j) (.escalate _ _ _ _ _ _ _)))
    · exact finishJob_settles h v j _

theorem storeQuote_settles (h : s.KeepsForm t) (v : UnitNo) (j : Job) (r : Rec) (e : Entered) (q : Quote) :
    s.SettlesTo (.next (storeQuote v j r e q t)) := by
  unfold storeQuote
  dsimp only
  split
  · exact .judge (h.trans (.trans (.putRecord t _ _)
      (.trans (.endJob _ _ _) (.trans (.raise _ _) (.answerRequester _ _ _)))))
  · exact .judge (h.trans (.trans (.putRecord t _ _)
      (.trans (.takePin _ _) (.trans (.endJob _ _ _) (.answerRequester _ _ _)))))

theorem addOption_settles (h : s.KeepsForm t) (v : UnitNo) (j : Job) (r : Rec) (e : Entered) (q : Quote) (l : Label)
    (adj : Nat) (rw : Option ReweighPart) (line : Option Line) :
    s.SettlesTo (.next (addOption v j r e q l adj rw line t)) :=
  .judge (h.trans (.trans (.putRecord t _ _) (.trans (.endJob _ _ _) (.answerRequester _ _ _))))

/-- A completion that comes about ends with the conditions judged, where its application does. -/
theorem completion_settles {v : UnitNo} {kind : JobKind → Bool} {apply : Job → Rec → JobResult → State → Outcome}
    (ha : ∀ j r result t, s.KeepsForm t → s.SettlesTo (apply j r result t)) :
    s.SettlesTo (completion v kind s apply) := by
  unfold completion
  split
  · exact .idle s
  · split
    · exact .idle s
    · rename_i j _
      split
      · exact .idle s
      · have run := State.KeepsForm.runJob s v j
        split <;> rename_i hrun <;> rw [hrun] at run
        · exact .judge run
        · split
          · exact finishJob_settles run v j _
          · rename_i r _
            have read := run.trans (.readAt _ (.unit v) j.entry.handle.slot r)
            split <;> rename_i hread <;> rw [hread] at read
            · exact ha _ _ _ _ read
            · exact .judge (read.trans (.endUnread _ _ _))
            · exact .judge read

theorem execRateJobCompletion_settles (v : UnitNo) : s.SettlesTo (execRateJobCompletion v s) :=
  completion_settles fun j r result t h => by
    split
    · exact storeQuote_settles h v j _ _ _
    · exact positionFault_settles h v j _
    · exact finishJob_settles h v j _

theorem execRateOptionCompletion_settles (v : UnitNo) : s.SettlesTo (execRateOptionCompletion v s) :=
  completion_settles fun j r result t h => by
    split
    · exact addOption_settles h v j _ _ _ _ _ _ _
    · exact positionFault_settles h v j _
    · exact finishJob_settles h v j _

theorem execRerateReweighCompletion_settles (v : UnitNo) : s.SettlesTo (execRerateReweighCompletion v s) :=
  completion_settles fun j r result t h => by
    split
    · split
      · exact finishJob_settles (h.trans (.putRecord t _ _)) v j _
      · exact finishJob_settles h v j _
    · exact finishJob_settles h v j _

theorem execDiscardedJobCompletion_settles (v : UnitNo) : s.SettlesTo (execDiscardedJobCompletion v s) := by
  unfold execDiscardedJobCompletion
  split
  · exact .idle s
  · split
    · exact .idle s
    · rename_i j _
      split
      · exact .idle s
      · have run := State.KeepsForm.runJob s v j
        split <;> rename_i hrun <;> rw [hrun] at run
        · exact .judge run
        · exact .judge (run.trans (.endJob _ _ _))

theorem execJobReadFailsCheck_settles (v : UnitNo) (e : BankEntry) : s.SettlesTo (execJobReadFailsCheck v e s) := by
  unfold execJobReadFailsCheck
  split
  · exact .idle s
  · split
    · exact .idle s
    · split
      · exact .idle s
      · split
        · split
          · exact .judge (.jobReadFails s _ _ _ _)
          · exact .idle s
        · exact .idle s

/-! ### The tariff (09) -/

theorem execBankClear_settles (h : Header) (items : List Item) : s.SettlesTo (execBankClear h items s) :=
  bankRequest_settles fun _ _ => .finish (.setBank fun _ => rfl) _ _

theorem execBankWrite_settles (h : Header) (items : List Item) : s.SettlesTo (execBankWrite h items s) :=
  bankRequest_settles fun l s => by
    split
    · exact .reply s _ _
    · exact .finish (.setBank fun formed => Bank.canonical_takeWrite (formed.banks l) _) _ _

theorem execBankCopy_settles (h : Header) (items : List Item) : s.SettlesTo (execBankCopy h items s) :=
  bankRequest_settles fun _ s => by
    split
    · exact .reply s _ _
    · split
      · exact .finish (.failBankEntry s _ _ _ _) _ _
      · exact .finish (.setBank fun formed => Bank.canonical_copyOf (formed.banks _)) _ _

theorem execBankVerify_settles (h : Header) (items : List Item) : s.SettlesTo (execBankVerify h items s) :=
  bankRequest_settles fun _ s => by
    split
    · exact .reply s _ _
    · unfold verifyBank
      split
      · exact .reply s _ _
      · split
        · exact .reply s _ _
        · exact .finish (.failBankEntry s _ _ _ _) _ _
        · exact .reply s _ _
        · exact .finish (.setAlike (by rfl)) _ _

theorem execScheduleSwitch_settles (h : Header) (items : List Item) : s.SettlesTo (execScheduleSwitch h items s) :=
  bankRequest_settles fun l s => by
    split
    · rename_i effective grace _ _
      unfold scheduleSwitch
      split
      · exact .reply s _ _
      · have scheduled : s.KeepsForm (s.setBank l { s.bank l with
            state := .scheduled ((s.bank l).state.edition.getD 0) effective grace }) := .setAlike rfl
        dsimp only
        split
        · exact .finish (scheduled.trans (.takeSwitch _ l)) _ _
        · exact .finish scheduled _ _
    · exact .reply s _ _

theorem execUnschedule_settles (h : Header) (items : List Item) : s.SettlesTo (execUnschedule h items s) :=
  bankRequest_settles fun _ _ => .finish (.setAlike (Bank.unscheduled_canonical _)) _ _

theorem execSwitch_settles : s.SettlesTo (execSwitch s) := by
  unfold execSwitch
  split
  · exact .idle s
  · split
    · exact .judge (.takeSwitch s _)
    · exact .idle s

theorem execGraceExpiry_settles (l : BankLetter) : s.SettlesTo (execGraceExpiry l s) := by
  unfold execGraceExpiry
  split
  · exact .idle s
  · split
    · exact .judge (.expireGrace s l)
    · exact .idle s

/-- A patch applied ends with the conditions judged. -/
theorem applyPatch_settles (h : s.KeepsForm t) (p : Patch) : s.SettlesTo (.next (t.applyPatch p)) :=
  .judge (h.trans (.trans (.patchSlot t p) (.frame (by simp))))

theorem patchRequest_settles (change : PatchChange) (h : Header) (items : List Item) :
    s.SettlesTo (patchRequest change h items s) := by
  unfold patchRequest
  split
  · split
    · exact .reply s _ _
    · split
      · exact .reply s _ _
      · split
        · exact .reply s _ _
        · split
          · exact applyPatch_settles (.frame (by simp)) _
          · exact .frame (by simp)
  · exact .reply s _ _

theorem execPatchApplied_settles : s.SettlesTo (execPatchApplied s) := by
  unfold execPatchApplied
  split
  · exact .idle s
  · split
    · split
      · exact applyPatch_settles (.refl s) _
      · exact .idle s
    · exact .idle s

/-! ### The hall (12) -/

theorem execSetTime_settles (h : Header) (items : List Item) : s.SettlesTo (execSetTime h items s) :=
  haltedRequest_settles fun s => by
    split
    · exact .reply s _ _
    · rename_i time _
      have timed : s.KeepsForm { s with hallTime := time } := .frame ⟨rfl, rfl, rfl⟩
      exact .finish (timed.trans (.switchIfDue _)) _ _

theorem execSetTimers_settles (h : Header) (items : List Item) : s.SettlesTo (execSetTimers h items s) :=
  haltedRequest_settles fun _ => .finish (.frame (by simp)) _ _

theorem execSetEnables_settles (h : Header) (items : List Item) : s.SettlesTo (execSetEnables h items s) :=
  haltedRequest_settles fun s => by
    split
    · exact .reply s _ _
    · exact .finish (.frame (by simp)) _ _

theorem execAcknowledge_settles (h : Header) (items : List Item) : s.SettlesTo (execAcknowledge h items s) :=
  haltedRequest_settles fun s => by
    split
    · exact .reply s _ _
    · exact .finish (.frame (by simp)) _ _

theorem execStatus_settles (h : Header) (items : List Item) : s.SettlesTo (execStatus h items s) :=
  request_settles fun s => by split <;> exact .reply s _ _

theorem execHallTimeTick_settles : s.SettlesTo (execHallTimeTick s) := by
  unfold execHallTimeTick
  split
  · exact .idle s
  · exact .after (t := { s with hallTime := min Config.hallTimeMax (s.hallTime + 1) }) (.frame (by simp))
      (.frame (by simp)) (.next (.countDown _) (State.Steady.countDown _).judged)

/-- The end of a drain judges the conditions, and raises causes without changing what is remembered (R197). -/
theorem endDrain_settles (h : s.KeepsForm t) : s.SettlesTo (.next t.endDrain) :=
  .next (h.trans (.frame (by simp [State.endDrain]))) fun _ => rfl

theorem execSoftReset_settles (h : Header) (items : List Item) : s.SettlesTo (execSoftReset h items s) :=
  haltedRequest_settles fun s => by
    have begun := State.KeepsForm.beginDrain s
    dsimp only
    split
    · exact endDrain_settles begun
    · exact .judge begun

theorem execDrainEnd_settles : s.SettlesTo (execDrainEnd s) := by
  unfold execDrainEnd
  split
  · exact .idle s
  · split
    · exact endDrain_settles (.refl s)
    · exact .idle s

/-- A hard reset remembers the conditions its own values have (R198). -/
theorem hardResetValues_settles (asserted : Bool) : s.SettlesTo (.next (s.hardResetValues asserted)) :=
  .next (.hardResetValues s asserted) fun _ =>
    have reset : State.reset.Judged := by decide +kernel
    reset

theorem execResetRelease_settles : s.SettlesTo (execResetRelease s) := by
  unfold execResetRelease
  split
  · exact hardResetValues_settles false
  · exact .idle s

theorem execUnknownRequest_settles (h : Header) (kind : Byte) : s.SettlesTo (execUnknownRequest h kind s) := by
  unfold execUnknownRequest
  split
  · exact .idle s
  · exact .frame (by simp)

/-- Every command keeps the form of the stores and the conditions as they are judged. -/
theorem exec_settles (i : Instr) : s.SettlesTo (exec i s) := by
  cases i with
  | newParcel h items => exact execNewParcel_settles h items
  | setAttributes h items => exact execSetAttributes_settles h items
  | rate h items => exact positionRequest_settles fun _ _ _ _ _ => rateRequest_settles _ _ _ _ _ _
  | commit h items => exact positionRequest_settles fun _ _ _ _ _ => commitRequest_settles _ _ _ _ _
  | printed h items => exact execPrinted_settles h items
  | spoilt h items => exact execSpoilt_settles h items
  | query h items => exact execQuery_settles h items
  | amendAddOption h items => exact positionRequest_settles fun _ _ _ _ hc => amendRequest_settles hc _ _ _ _
  | takeOver h items => exact execTakeOver_settles h items
  | void h items => exact positionRequest_settles fun _ _ _ _ hc => voidRequest_settles hc _ _ _ _
  | cancel h items => exact execCancel_settles h items
  | reweigh h items => exact execReweigh_settles h items
  | handover h items => exact execHandover_settles h items
  | setTime h items => exact execSetTime_settles h items
  | setTimers h items => exact execSetTimers_settles h items
  | setEnables h items => exact execSetEnables_settles h items
  | acknowledge h items => exact execAcknowledge_settles h items
  | status h items => exact execStatus_settles h items
  | openPosition h items => exact execOpenPosition_settles h items
  | closePosition h items => exact execClosePosition_settles h items
  | resetPosition h items => exact execResetPosition_settles h items
  | suspend h items => exact execSuspend_settles h items
  | resume h items => exact execResume_settles h items
  | grant h items => exact execGrant_settles h items
  | deny h items => exact execDeny_settles h items
  | loadBlock h items => exact execLoadBlock_settles h items
  | bankClear h items => exact execBankClear_settles h items
  | bankWrite h items => exact execBankWrite_settles h items
  | bankCopy h items => exact execBankCopy_settles h items
  | bankVerify h items => exact execBankVerify_settles h items
  | scheduleSwitch h items => exact execScheduleSwitch_settles h items
  | unschedule h items => exact execUnschedule_settles h items
  | patchWithdraw h items => exact haltedRequest_settles fun _ => patchRequest_settles _ _ _
  | patchRestore h items => exact haltedRequest_settles fun _ => patchRequest_settles _ _ _
  | patchRegrade h items => exact haltedRequest_settles fun _ => patchRequest_settles _ _ _
  | patchApplied => exact execPatchApplied_settles
  | settleAccept h items => exact execSettleAccept_settles h items
  | settleVoid h items => exact execSettleVoid_settles h items
  | querySupervisor h items => exact execQuerySupervisor_settles h items
  | voidSupervisor h items => exact execVoidSupervisor_settles h items
  | softReset h items => exact execSoftReset_settles h items
  | drainEnd => exact execDrainEnd_settles
  | frameDiscarded link bytes => exact .idle s
  | unknownRequest h kind => exact execUnknownRequest_settles h kind
  | hardReset => exact hardResetValues_settles true
  | resetRelease => exact execResetRelease_settles
  | hallTimeTick => exact execHallTimeTick_settles
  | printDeadlineExpiry n => exact execPrintDeadlineExpiry_settles n
  | escalationTimeout p => exact execEscalationTimeout_settles p
  | graceExpiry l => exact execGraceExpiry_settles l
  | switch => exact execSwitch_settles
  | grantOfJob => exact execGrantOfJob_settles
  | rateJobCompletion u => exact execRateJobCompletion_settles u
  | rateOptionCompletion u => exact execRateOptionCompletion_settles u
  | rerateReweighCompletion u => exact execRerateReweighCompletion_settles u
  | discardedJobCompletion u => exact execDiscardedJobCompletion_settles u
  | jobReadFailsCheck u e => exact execJobReadFailsCheck_settles u e

/-- Every step keeps the form of the stores and the conditions as they are judged. -/
theorem step_settles (h : step s = .next t) : s.KeepsForm t ∧ (s.Judged → t.Judged) := by
  unfold step at h
  split at h
  · cases h
    exact ⟨.refl s, id⟩
  · rename_i c rest _
    have taken : s.SettlesTo (exec c { s with pending := rest }) :=
      .after (.frame (by simp)) (.frame (by simp)) (exec_settles c)
    exact taken t h

end Sys2Proof.Machine
end

section
/-! The form of the stores and the conditions of the level causes at every step (R193): O56, O57. -/
namespace Sys2Proof.Machine

/-- Settles O56: what an operation writes into a store it puts in form, and the keys of records and index rise as
the laws of the tariff need them to. -/
theorem storesStayCanonical : Obligations.StoresStayCanonical := by
  unfold Obligations.StoresStayCanonical
  intro s t canonical h
  obtain ⟨rising, formed⟩ := State.canonical_iff_formed.1 canonical
  exact State.canonical_iff_formed.2 ⟨(step_keepsTariff h).rising rising, (step_settles h).1 formed⟩

/-- What a judgement adds to a flag: its condition changes from not holding to holding. -/
theorem pending_judge_iff (pending before now : Bool) :
    (pending || (now && !before)) = true ↔ pending = true ∨ (before = false ∧ now = true) := by
  cases pending <;> cases before <;> cases now <;> decide

/-- Settles O57: a command ends with the judgement of the conditions, or has changed nothing that they are read
from. -/
theorem rememberedConditionsFollowTheBlocks : Obligations.RememberedConditionsFollowTheBlocks := by
  unfold Obligations.RememberedConditionsFollowTheBlocks
  refine ⟨fun s t judged h => (step_settles h).2 judged, fun s => ⟨Iff.rfl, ?_, State.poolLow_iff, ?_⟩,
    fun a now => ⟨rfl, rfl, pending_judge_iff _ _ _, pending_judge_iff _ _ _, pending_judge_iff _ _ _, rfl, rfl, rfl,
      rfl⟩⟩
  · simp only [State.escalation_iff, Context.isEscalated_iff]
  · simp only [State.held_iff, RecordBody.isHeld_iff]

end Sys2Proof.Machine
end

section
/-! SUPPORT. Every command answers a next state (log entry 18). -/
namespace Sys2Proof.Machine

variable (s : State)

theorem atPosition_goesOn (k : Kind) (h : Header) (items : List Item) (body : PositionNo → State → Outcome)
    (hb : ∀ p s, ∃ t, body p s = .next t) : ∃ t, atPosition k h items s body = .next t :=
  haltedRequest_goesOn s _ _ _ _ fun s => by
    split
    · exact ⟨_, rfl⟩
    · exact hb _ s

theorem bankRequest_goesOn (k : Kind) (h : Header) (items : List Item) (body : BankLetter → State → Outcome)
    (hb : ∀ l s, ∃ t, body l s = .next t) : ∃ t, bankRequest k h items s body = .next t :=
  haltedRequest_goesOn s _ _ _ _ fun s => by
    split
    · exact ⟨_, rfl⟩
    · split
      · exact hb _ s
      · exact ⟨_, rfl⟩

theorem labelledBySerial_goesOn (l : Link) (serial : Nat) (refusing : Rec → Bool)
    (body : Nat → Rec → Entered → Quote → Label → Nat → Option ReweighPart → State → Outcome)
    (hb : ∀ n r e q lab adj rw s, ∃ t, body n r e q lab adj rw s = .next t) :
    ∃ t, labelledBySerial l serial refusing s body = .next t := by
  unfold labelledBySerial
  (repeat' split) <;> first | exact ⟨_, rfl⟩ | exact hb _ _ _ _ _ _ _ _

theorem heldRecord_goesOn (l : Link) (items : List Item)
    (body : Nat → Rec → Entered → Quote → Label → Nat → ReweighPart → State → Outcome)
    (hb : ∀ n r e q lab adj rw s, ∃ t, body n r e q lab adj rw s = .next t) :
    ∃ t, heldRecord l items s body = .next t := by
  unfold heldRecord
  (repeat' split) <;> first | exact ⟨_, rfl⟩ | exact hb _ _ _ _ _ _ _ _

/-! ### Requests that a GRANT executes again (R127) -/

section
variable (p : PositionNo) (session : Session) (presented : Option Reservation) (eg : Nat) (tag : Tag)
  (items : List Item)

theorem rateRequest_goesOn : ∃ t, rateRequest p session presented eg tag items s = .next t :=
  withRecord_goesOn s _ _ _ _ fun _ _ _ => by (repeat' split) <;> exact ⟨_, rfl⟩

theorem commitRequest_goesOn : ∃ t, commitRequest p session eg tag items s = .next t :=
  withRecord_goesOn s _ _ _ _ fun _ _ _ => by
    dsimp only
    (repeat' split) <;> exact ⟨_, rfl⟩

theorem amendRequest_goesOn : ∃ t, amendRequest p session presented eg tag items s = .next t :=
  withRecord_goesOn s _ _ _ _ fun _ _ _ => by
    dsimp only
    (repeat' split) <;> exact ⟨_, rfl⟩

theorem voidRequest_goesOn : ∃ t, voidRequest p session presented eg tag items s = .next t :=
  withRecord_goesOn s _ _ _ _ fun _ _ _ => by
    dsimp only
    (repeat' split) <;> exact ⟨_, rfl⟩

end

theorem reexecute_goesOn (p : PositionNo) (session : Session) (g : Nat) (request : HeldRequest) :
    ∃ t, reexecute p session g request s = .next t := by
  unfold reexecute
  split
  · exact rateRequest_goesOn s _ _ _ _ _ _
  · exact commitRequest_goesOn s _ _ _ _ _
  · exact amendRequest_goesOn s _ _ _ _ _ _
  · exact voidRequest_goesOn s _ _ _ _ _ _

theorem andThen_goesOn {o : Outcome} (f : State → State) (ho : ∃ t, o = .next t) : ∃ t, andThen o f = .next t := by
  obtain ⟨t, rfl⟩ := ho
  exact ⟨f t, rfl⟩

/-! ### The tariff and the dispatch line (09, 10) -/

theorem patchRequest_goesOn (change : PatchChange) (h : Header) (items : List Item) :
    ∃ t, patchRequest change h items s = .next t := by
  unfold patchRequest
  (repeat' split) <;> exact ⟨_, rfl⟩

theorem reweighLabelled_goesOn (l : Link) (serial mass : Nat) (sides : Sides) (bank : BankLetter) (n : Nat) (r : Rec)
    (e : Entered) (q : Quote) (lab : Label) (adj : Nat) :
    ∃ t, reweighLabelled l serial mass sides bank n r e q lab adj s = .next t := by
  unfold reweighLabelled
  dsimp only
  (repeat' split) <;> exact ⟨_, rfl⟩

theorem execReweigh_goesOn (h : Header) (items : List Item) : ∃ t, execReweigh h items s = .next t :=
  haltedRequest_goesOn s _ _ _ _ fun s => by
    split
    · split
      · exact ⟨_, rfl⟩
      · exact labelledBySerial_goesOn s _ _ _ _ fun _ _ _ _ _ _ _ s => reweighLabelled_goesOn s _ _ _ _ _ _ _ _ _ _ _
    · exact ⟨_, rfl⟩

theorem execGrant_goesOn (h : Header) (items : List Item) : ∃ t, execGrant h items s = .next t :=
  atPosition_goesOn s _ _ _ _ fun _ _ => by
    (repeat' split) <;> first | exact ⟨_, rfl⟩ | exact andThen_goesOn _ (reexecute_goesOn _ _ _ _ _)

theorem execCancel_goesOn (h : Header) (items : List Item) : ∃ t, execCancel h items s = .next t := by
  unfold execCancel cancelAt
  dsimp only
  (repeat' split) <;> exact ⟨_, rfl⟩

end Sys2Proof.Machine
end

section
/-! The model's own step and its totality (log entries 1 and 18): O1, O2. -/
namespace Sys2Proof.Machine

/-- Settles O1. -/
theorem stepExecutesFrontCommand : Obligations.StepExecutesFrontCommand := by
  unfold Obligations.StepExecutesFrontCommand
  refine ⟨fun c rest s h => ?_, fun s h => ?_⟩
  · rw [step, h]
  · rw [step, h]

/-- Settles O2: a request goes on where its body does, and no branch of a body or of an event stops. -/
theorem commandsGoOn : Obligations.CommandsGoOn := by
  unfold Obligations.CommandsGoOn
  intro c s
  cases c with
  | newParcel h items | query h items =>
    dsimp only [exec, execNewParcel, execQuery]
    refine positionRequest_goesOn s _ _ _ _ fun _ _ _ _ => ?_
    (repeat' split) <;> exact ⟨_, rfl⟩
  | setAttributes h items | printed h items | spoilt h items | takeOver h items =>
    dsimp only [exec, execSetAttributes, execPrinted, execSpoilt, execTakeOver]
    refine positionRequest_goesOn s _ _ _ _ fun _ _ _ s => withRecord_goesOn s _ _ _ _ fun _ _ _ => ?_
    (repeat' split) <;> exact ⟨_, rfl⟩
  | rate h items => exact positionRequest_goesOn s _ _ _ _ fun _ _ _ s => rateRequest_goesOn s _ _ _ _ _ _
  | commit h items => exact positionRequest_goesOn s _ _ _ _ fun _ _ _ s => commitRequest_goesOn s _ _ _ _ _
  | amendAddOption h items => exact positionRequest_goesOn s _ _ _ _ fun _ _ _ s => amendRequest_goesOn s _ _ _ _ _ _
  | void h items => exact positionRequest_goesOn s _ _ _ _ fun _ _ _ s => voidRequest_goesOn s _ _ _ _ _ _
  | cancel h items => exact execCancel_goesOn s h items
  | reweigh h items => exact execReweigh_goesOn s h items
  | handover h items =>
    dsimp only [exec, execHandover]
    refine haltedRequest_goesOn s _ _ _ _ fun s => ?_
    split
    · exact ⟨_, rfl⟩
    · exact labelledBySerial_goesOn s _ _ _ _ fun _ _ _ _ _ _ _ _ => ⟨_, rfl⟩
  | settleAccept h items | settleVoid h items =>
    dsimp only [exec, execSettleAccept, execSettleVoid]
    exact haltedRequest_goesOn s _ _ _ _ fun s => heldRecord_goesOn s _ _ _ fun _ _ _ _ _ _ _ _ => ⟨_, rfl⟩
  | patchWithdraw h items | patchRestore h items | patchRegrade h items =>
    exact haltedRequest_goesOn s _ _ _ _ fun s => patchRequest_goesOn s _ _ _
  | openPosition h items | closePosition h items | resetPosition h items | suspend h items | resume h items
  | deny h items =>
    dsimp only [exec, execOpenPosition, execClosePosition, execResetPosition, execSuspend, execResume, execDeny]
    refine atPosition_goesOn s _ _ _ _ fun _ _ => ?_
    (repeat' split) <;> exact ⟨_, rfl⟩
  | grant h items => exact execGrant_goesOn s h items
  | bankClear h items | bankWrite h items | bankCopy h items | bankVerify h items | scheduleSwitch h items
  | unschedule h items =>
    dsimp only [exec, execBankClear, execBankWrite, execBankCopy, execBankVerify, verifyBank, execScheduleSwitch,
      scheduleSwitch, execUnschedule]
    refine bankRequest_goesOn s _ _ _ _ fun _ _ => ?_
    (repeat' split) <;> exact ⟨_, rfl⟩
  | setTime h items | setTimers h items | setEnables h items | acknowledge h items | loadBlock h items
  | querySupervisor h items | voidSupervisor h items | softReset h items =>
    dsimp only [exec, execSetTime, execSetTimers, execSetEnables, execAcknowledge, execLoadBlock, loadBlock,
      execQuerySupervisor, execVoidSupervisor, execSoftReset]
    refine haltedRequest_goesOn s _ _ _ _ fun _ => ?_
    (repeat' split) <;> exact ⟨_, rfl⟩
  | status h items =>
    dsimp only [exec, execStatus]
    refine request_goesOn s _ _ _ _ fun _ => ?_
    split <;> exact ⟨_, rfl⟩
  | rateJobCompletion u | rateOptionCompletion u | rerateReweighCompletion u =>
    dsimp only [exec, execRateJobCompletion, execRateOptionCompletion, execRerateReweighCompletion]
    refine completion_goesOn s _ _ _ fun _ _ _ s => ?_
    (repeat' split) <;> first | exact ⟨_, rfl⟩ | exact positionFault_goesOn s _ _ _
  | frameDiscarded link bytes | hardReset => exact ⟨_, rfl⟩
  | patchApplied | drainEnd | unknownRequest h kind | resetRelease | hallTimeTick | printDeadlineExpiry n
  | escalationTimeout p | graceExpiry l | switch | grantOfJob | discardedJobCompletion u | jobReadFailsCheck u e =>
    dsimp only [exec, execPatchApplied, execDrainEnd, execUnknownRequest, execResetRelease, execHallTimeTick,
      execPrintDeadlineExpiry, execEscalationTimeout, execGraceExpiry, execSwitch, execGrantOfJob,
      execDiscardedJobCompletion, execJobReadFailsCheck]
    (repeat' split) <;> exact ⟨_, rfl⟩

end Sys2Proof.Machine
end

section
/-! SUPPORT. Every request but CANCEL takes the path of R187, and no command does anything while the reset input is
asserted (R198). -/
namespace Sys2Proof.Machine

variable {s : State}

/-- The items of a PATCH row are those of its request, where the row is the one its change chooses. -/
theorem exec_patch_eq_request (h : Header) (items : List Item) :
    ∃ body, exec (requestCommand .patch h items) s = request .patch h (itemsAccepted .patch items) s body := by
  cases accepted : itemsAccepted .patch items with
  | true =>
    obtain hc | hc | hc := patchChange_of_accepted accepted <;>
      simp only [requestCommand, hc, exec, execPatchWithdraw, execPatchRestore, execPatchRegrade, patchAccepted_eq hc,
        haltedRequest, accepted] <;> exact ⟨_, rfl⟩
  | false =>
    have refused (code : Nat) : patchAccepted code items = false := by simp [patchAccepted, accepted]
    dsimp only [requestCommand]
    split <;>
      simp only [exec, execPatchWithdraw, execPatchRestore, execPatchRegrade, haltedRequest, refused] <;>
      exact ⟨_, rfl⟩

/-- So are those of a SETTLE row. -/
theorem exec_settle_eq_request (h : Header) (items : List Item) :
    ∃ body, exec (requestCommand .settle h items) s = request .settle h (itemsAccepted .settle items) s body := by
  cases accepted : itemsAccepted .settle items with
  | true =>
    obtain hf | hf := settleForm_of_accepted accepted <;>
      simp only [requestCommand, hf, exec, execSettleAccept, execSettleVoid, settleAccepted_eq hf, haltedRequest,
        accepted] <;> exact ⟨_, rfl⟩
  | false =>
    have refused (form : Nat) : settleAccepted form items = false := by simp [settleAccepted, accepted]
    dsimp only [requestCommand]
    split <;> simp only [exec, execSettleAccept, execSettleVoid, haltedRequest, refused] <;> exact ⟨_, rfl⟩

/-- Every request but CANCEL is its link checks, then a body (R187). -/
theorem exec_eq_request {k : Kind} (hk : k ≠ .cancel) (h : Header) (items : List Item) :
    ∃ body, exec (requestCommand k h items) s = request k h (itemsAccepted k items) s body := by
  cases k with
  | cancel => exact absurd rfl hk
  | patch => exact exec_patch_eq_request h items
  | settle => exact exec_settle_eq_request h items
  | newParcel | setAttributes | rate | commit | printed | spoilt | query | amend | takeOver | void =>
    dsimp only [requestCommand, exec, execNewParcel, execSetAttributes, execRate, execCommit, execPrinted, execSpoilt,
      execQuery, execAmendAddOption, execTakeOver, execVoid, positionRequest]
    exact ⟨_, rfl⟩
  | reweigh | handover | setTime | setTimers | setEnables | acknowledge | status | loadBlock | querySupervisor
  | voidSupervisor | softReset =>
    dsimp only [requestCommand, exec, execReweigh, execHandover, execSetTime, execSetTimers, execSetEnables,
      execAcknowledge, execStatus, execLoadBlock, execQuerySupervisor, execVoidSupervisor, execSoftReset, haltedRequest]
    exact ⟨_, rfl⟩
  | openPosition | closePosition | resetPosition | suspend | resume | grant | deny =>
    dsimp only [requestCommand, exec, execOpenPosition, execClosePosition, execResetPosition, execSuspend, execResume,
      execGrant, execDeny, atPosition, haltedRequest]
    exact ⟨_, rfl⟩
  | bankClear | bankCopy | bankWrite | bankVerify | scheduleSwitch | unschedule =>
    dsimp only [requestCommand, exec, execBankClear, execBankCopy, execBankWrite, execBankVerify, execScheduleSwitch,
      execUnschedule, bankRequest, haltedRequest]
    exact ⟨_, rfl⟩

/-- A request is never one of the two reset events. -/
theorem isReset_requestCommand (k : Kind) (h : Header) (items : List Item) :
    isReset (requestCommand k h items) = false := by
  cases k with
  | patch =>
    dsimp only [requestCommand]
    split <;> rfl
  | settle =>
    dsimp only [requestCommand]
    split <;> rfl
  | _ => rfl

/-- While the reset input is asserted no command but the two reset events does anything (R198). -/
theorem exec_asserted {c : Instr} (ha : s.resetAsserted = true) (hc : isReset c = false) : exec c s = .next s := by
  have guarded : (s.resetAsserted || s.halted) = true := by rw [ha, Bool.true_or]
  cases c with
  | hardReset | resetRelease => cases hc
  | frameDiscarded link bytes => rfl
  | newParcel h items | setAttributes h items | rate h items | commit h items | printed h items | spoilt h items
  | query h items | amendAddOption h items | takeOver h items | void h items =>
    dsimp only [exec, execNewParcel, execSetAttributes, execRate, execCommit, execPrinted, execSpoilt, execQuery,
      execAmendAddOption, execTakeOver, execVoid]
    exact request_asserted _ _ _ _ ha
  | reweigh h items | handover h items | setTime h items | setTimers h items | setEnables h items
  | acknowledge h items | status h items | loadBlock h items | patchWithdraw h items | patchRestore h items
  | patchRegrade h items | settleAccept h items | settleVoid h items | querySupervisor h items
  | voidSupervisor h items | softReset h items =>
    dsimp only [exec, execReweigh, execHandover, execSetTime, execSetTimers, execSetEnables, execAcknowledge, execStatus,
      execLoadBlock, execPatchWithdraw, execPatchRestore, execPatchRegrade, execSettleAccept, execSettleVoid,
      execQuerySupervisor, execVoidSupervisor, execSoftReset]
    exact request_asserted _ _ _ _ ha
  | openPosition h items | closePosition h items | resetPosition h items | suspend h items | resume h items
  | grant h items | deny h items =>
    dsimp only [exec, execOpenPosition, execClosePosition, execResetPosition, execSuspend, execResume, execGrant,
      execDeny, atPosition]
    exact request_asserted _ _ _ _ ha
  | bankClear h items | bankWrite h items | bankCopy h items | bankVerify h items | scheduleSwitch h items
  | unschedule h items =>
    dsimp only [exec, execBankClear, execBankCopy, execBankWrite, execBankVerify, execScheduleSwitch, execUnschedule,
      bankRequest]
    exact request_asserted _ _ _ _ ha
  | cancel h items | unknownRequest h kind | hallTimeTick => exact if_pos ha
  | grantOfJob => exact if_pos (by rw [guarded, Bool.true_or])
  | patchApplied | drainEnd | printDeadlineExpiry n | escalationTimeout p | graceExpiry l | switch
  | discardedJobCompletion u | jobReadFailsCheck u e => exact if_pos guarded
  | rateJobCompletion u | rateOptionCompletion u | rerateReweighCompletion u =>
    dsimp only [exec, execRateJobCompletion, execRateOptionCompletion, execRerateReweighCompletion, completion]
    exact if_pos guarded

end Sys2Proof.Machine
end

section
/-! The hard reset and its release (R198): O3. -/
namespace Sys2Proof.Machine

variable (s : State) (asserted : Bool)

/-! ### The values of hard reset -/

theorem State.hardResetValues_link (l : Link) : (s.hardResetValues asserted).link l = ⟨none, []⟩ := by
  cases l with
  | position p => exact Vector.getElem_replicate p.isLt
  | dispatch => rfl
  | supervisor => rfl

theorem State.hardResetValues_ctx (p : PositionNo) : (s.hardResetValues asserted).ctx p = .closed :=
  Vector.getElem_replicate p.isLt

theorem State.hardResetValues_unit (u : UnitNo) : (s.hardResetValues asserted).unit u = none :=
  Vector.getElem_replicate u.isLt

theorem State.hardResetValues_bank (l : BankLetter) : (s.hardResetValues asserted).bank l = .cleared := by
  cases l <;> rfl

/-- No cause is pending after a hard reset. -/
theorem State.hardResetValues_line : (s.hardResetValues asserted).line = false := by
  cases asserted <;> rfl

/-- Settles O3. -/
theorem hardResetAndRelease : Obligations.HardResetAndRelease := by
  unfold Obligations.HardResetAndRelease
  refine ⟨fun s => ⟨_, rfl, rfl, rfl, s.hardResetValues_link true⟩, fun s ha => ?_, fun s ha => ?_⟩
  · refine ⟨fun k h items => exec_asserted ha (isReset_requestCommand k h items), fun h kind => exec_asserted ha rfl,
      fun l bytes => if_pos ha, ?_, fun c t hc => ?_⟩
    · rw [State.line, ha]
      rfl
    · by_cases reset : isReset c
      · cases c with
        | hardReset =>
          cases hc
          rfl
        | resetRelease =>
          rw [exec, execResetRelease, if_pos ha] at hc
          cases hc
          rfl
        | _ => cases reset
      · rw [exec_asserted ha (by simpa using reset)] at hc
        cases hc
        rfl
  · exact ⟨_, if_pos ha, rfl, rfl, rfl, rfl, fun _ => rfl, s.hardResetValues_bank false, s.hardResetValues_unit false,
      rfl, rfl, rfl, s.hardResetValues_ctx false, rfl, rfl, rfl, rfl, rfl, rfl, s.hardResetValues_line false,
      s.hardResetValues_link false⟩

end Sys2Proof.Machine
end

section
/-! SUPPORT. The link checks of R187 and the items a link accepts (R188, R189, R199). -/
namespace Sys2Proof.Machine

variable {s : State} {k : Kind} {l : Link} {ok : Bool}

/-! ### The link checks in their order (R187) -/

theorem linkRefusal_sort (h : sortOf l ≠ linkSort k) : linkRefusal s k l ok = some .notOnThisLink := if_pos h

theorem linkRefusal_busy (h : sortOf l = linkSort k) (held : (s.link l).outstanding ≠ none) (hk : k ≠ .cancel) :
    linkRefusal s k l ok = some .busy := by
  have held : (s.link l).outstanding.isSome = true := Option.isSome_iff_ne_none.2 held
  simp [linkRefusal, h, held, hk]

theorem linkRefusal_malformed (h : sortOf l = linkSort k) (free : (s.link l).outstanding = none ∨ k = .cancel) :
    linkRefusal s k l false = some .malformed := by
  have passes : ((s.link l).outstanding.isSome && k != .cancel) = false := by
    rcases free with free | rfl
    · rw [free]
      rfl
    · exact Bool.and_false _
  simp [linkRefusal, h, passes]

/-- Every request that the link refuses is answered at once with its own tag (R187). -/
theorem exec_refused {h : Header} {items : List Item} {a : Answer} (ha : s.resetAsserted = false)
    (hr : linkRefusal s k h.link (itemsAccepted k items) = some a) :
    exec (requestCommand k h items) s = .next (s.send h.link h.tag k.code a) := by
  by_cases hk : k = .cancel
  · subst hk
    simp only [requestCommand, exec, execCancel, ha, hr, Bool.false_eq_true, if_false]
  · obtain ⟨body, path⟩ := exec_eq_request (s := s) hk h items
    rw [path, request_refused k h _ body a ha hr]

/-! ### The items accepted (R189) -/

theorem judgedByTable_iff {c : Nat} : judgedByTable k c = true ↔ k = .setAttributes ∧ 0x05 ≤ c ∧ c ≤ 0x0C := by
  simp only [judgedByTable, Bool.and_eq_true, beq_iff_eq, within_eq_true]

theorem mayRepeat_iff {c : Nat} : mayRepeat k c = true ↔
    (k = .bankWrite ∧ c = 0x25) ∨ (k = .setAttributes ∧ 0x05 ≤ c ∧ c ≤ 0x0C) := by
  simp only [mayRepeat, Bool.or_eq_true, judgedByTable_iff, Bool.and_eq_true, beq_iff_eq]

theorem codeCount_ne_zero_iff {c : Nat} {items : List Item} : codeCount c items ≠ 0 ↔ ∃ i ∈ items, i.code = c := by
  simp [codeCount, List.countP_eq_zero]

/-- What meets one of two properties that exclude each other is counted by each. -/
theorem countP_or_of_disjoint {α : Type} {p q : α → Bool} {l : List α} (h : ∀ x ∈ l, p x = true → q x = false) :
    (l.countP fun x => p x || q x) = l.countP p + l.countP q := by
  induction l with
  | nil => rfl
  | cons x rest ih =>
    have here := h x List.mem_cons_self
    rw [List.countP_cons, List.countP_cons, List.countP_cons, ih fun y hy => h y (List.mem_cons_of_mem _ hy)]
    cases hp : p x with
    | false =>
      simp only [Bool.false_or, Bool.false_eq_true, if_false]
      omega
    | true =>
      simp only [Bool.true_or, here hp, Bool.false_eq_true, if_false, if_true]
      omega

/-- The items of a group of codes, counted by code and all at once. -/
theorem sum_codeCount {group : List Nat} (distinct : group.Nodup) (items : List Item) :
    (group.map fun c => codeCount c items).sum = items.countP fun x => group.contains x.code := by
  induction group with
  | nil => simp
  | cons c rest ih =>
    obtain ⟨fresh, distinct⟩ := List.nodup_cons.1 distinct
    rw [List.map_cons, List.sum_cons, ih distinct, codeCount, ← countP_or_of_disjoint]
    · simp only [List.contains_cons]
    · intro i _ here
      rw [beq_iff_eq.1 here]
      simpa using fresh

theorem itemRule_oneOf_nodup (k : Kind) : (itemRule k).oneOf.Nodup := by cases k <;> decide

/-- List entries stand only with a head of their kind (log entry 13). -/
theorem listEntriesFit_iff (items : List Item) : listEntriesFit items = true ↔
    (∀ l n, .listSelector l n ∈ items → ∃ hl hn fields, .descriptorHead hl hn 1 fields ∈ items) ∧
      ∀ m ps, .listBand m ps ∈ items → ∃ hl hn fields, .descriptorHead hl hn 3 fields ∈ items := by
  have head (kind : Nat) : (items.any fun j => match j with | .descriptorHead _ _ k _ => k == kind | _ => false) = true ↔
      ∃ hl hn fields, .descriptorHead hl hn kind fields ∈ items := by
    rw [List.any_eq_true]
    constructor
    · rintro ⟨j, hj, hk⟩
      cases j <;> simp only [Bool.false_eq_true, beq_iff_eq] at hk
      subst hk
      exact ⟨_, _, _, hj⟩
    · rintro ⟨hl, hn, fields, h⟩
      exact ⟨_, h, beq_self_eq_true kind⟩
  simp only [listEntriesFit, List.all_eq_true]
  constructor
  · exact fun h => ⟨fun l n m => (head 1).1 (h _ m), fun m ps b => (head 3).1 (h _ b)⟩
  · rintro ⟨selectors, bands⟩ i hi
    cases i with
    | listSelector l n => exact (head 1).2 (selectors l n hi)
    | listBand m ps => exact (head 3).2 (bands m ps hi)
    | _ => rfl

/-- What R189 asks of the items of a request, condition by condition. -/
theorem itemsAccepted_iff (k : Kind) (items : List Item) : itemsAccepted k items = true ↔
    (∀ i ∈ items, i.code ∈ (itemRule k).required ++ (itemRule k).optional ++ (itemRule k).oneOf ++
      (itemRule k).someOf) ∧
    (∀ i ∈ items, (k = .setAttributes ∧ 0x05 ≤ i.code ∧ i.code ≤ 0x0C) ∨ itemInRange k i = true) ∧
    (∀ i ∈ items, (k = .bankWrite ∧ i.code = 0x25) ∨ (k = .setAttributes ∧ 0x05 ≤ i.code ∧ i.code ≤ 0x0C) ∨
      items.countP (fun x => x.code == i.code) = 1) ∧
    (∀ c ∈ (itemRule k).required, ∃ i ∈ items, i.code = c) ∧
    ((itemRule k).oneOf ≠ [] → items.countP (fun x => (itemRule k).oneOf.contains x.code) = 1) ∧
    ((itemRule k).someOf ≠ [] → ∃ i ∈ items, i.code ∈ (itemRule k).someOf) ∧
    (∀ l n, .listSelector l n ∈ items → ∃ hl hn fields, .descriptorHead hl hn 1 fields ∈ items) ∧
    ∀ m ps, .listBand m ps ∈ items → ∃ hl hn fields, .descriptorHead hl hn 3 fields ∈ items := by
  have some : ((itemRule k).someOf.isEmpty || (itemRule k).someOf.any fun c => codeCount c items != 0) = true ↔
      ((itemRule k).someOf ≠ [] → ∃ i ∈ items, i.code ∈ (itemRule k).someOf) := by
    rw [Bool.or_eq_true, List.isEmpty_iff, ← or_iff_not_imp_left, List.any_eq_true]
    refine or_congr Iff.rfl ⟨?_, ?_⟩
    · rintro ⟨c, hc, stands⟩
      obtain ⟨i, hi, rfl⟩ := codeCount_ne_zero_iff.1 (bne_iff_ne.1 stands)
      exact ⟨i, hi, hc⟩
    · rintro ⟨i, hi, hc⟩
      exact ⟨i.code, hc, bne_iff_ne.2 (codeCount_ne_zero_iff.2 ⟨i, hi, rfl⟩)⟩
  have one : ((itemRule k).oneOf.isEmpty || ((itemRule k).oneOf.map fun c => codeCount c items).sum == 1) = true ↔
      ((itemRule k).oneOf ≠ [] → items.countP (fun x => (itemRule k).oneOf.contains x.code) = 1) := by
    rw [Bool.or_eq_true, List.isEmpty_iff, beq_iff_eq, sum_codeCount (itemRule_oneOf_nodup k), ← or_iff_not_imp_left]
  have required : ((itemRule k).required.all fun c => codeCount c items != 0) = true ↔
      ∀ c ∈ (itemRule k).required, ∃ i ∈ items, i.code = c := by
    simp only [List.all_eq_true, bne_iff_ne, codeCount_ne_zero_iff]
  have each : (items.all fun i =>
        ((itemRule k).required ++ (itemRule k).optional ++ (itemRule k).oneOf ++ (itemRule k).someOf).contains i.code
          && (judgedByTable k i.code || itemInRange k i) && (mayRepeat k i.code || codeCount i.code items == 1)) = true ↔
      (∀ i ∈ items, i.code ∈ (itemRule k).required ++ (itemRule k).optional ++ (itemRule k).oneOf ++
        (itemRule k).someOf) ∧
      (∀ i ∈ items, (k = .setAttributes ∧ 0x05 ≤ i.code ∧ i.code ≤ 0x0C) ∨ itemInRange k i = true) ∧
      ∀ i ∈ items, (k = .bankWrite ∧ i.code = 0x25) ∨ (k = .setAttributes ∧ 0x05 ≤ i.code ∧ i.code ≤ 0x0C) ∨
        items.countP (fun x => x.code == i.code) = 1 := by
    simp only [List.all_eq_true, Bool.and_eq_true, Bool.or_eq_true, List.contains_iff_mem, judgedByTable_iff,
      mayRepeat_iff, beq_iff_eq, codeCount, or_assoc, and_assoc, ← forall_and, ← forall_and]
  unfold itemsAccepted
  simp only [Bool.and_eq_true]
  rw [each, required, one, some, listEntriesFit_iff]
  simp only [and_assoc]

end Sys2Proof.Machine
end

section
/-! The links and the items they accept (R187 to R189, R199): O5. -/
namespace Sys2Proof.Machine

/-- A kind byte of no request kind is unknown (R187, check 1). -/
theorem frameCommand_unlisted (link : Link) {kind : Byte} (tag : Tag) (body : List Byte)
    (unlisted : ∀ k : Kind, k.code ≠ kind) : frameCommand link kind tag body = .unknownRequest ⟨link, tag⟩ kind := by
  have none : Kind.ofCode kind = none := List.find?_eq_none.2 fun k _ => by simpa using unlisted k
  rw [frameCommand, none]

/-- The link of each kind (R188). -/
theorem linkSort_iff (k : Kind) :
    (linkSort k = .position ↔ k ∈ [.newParcel, .setAttributes, .rate, .commit, .printed, .spoilt, .query, .amend,
      .takeOver, .void, .cancel]) ∧
    (linkSort k = .dispatch ↔ k ∈ [.reweigh, .handover]) := by cases k <;> decide

theorem bankOfByte_isSome_iff {n : Nat} : (bankOfByte n).isSome = true ↔ n = 0x41 ∨ n = 0x42 := by
  unfold bankOfByte
  split
  · simp [*]
  · split <;> simp [*]

theorem tableOfByte_isSome_iff {n : Nat} : (tableOfByte n).isSome = true ↔ n = 0x4E ∨ n = 0x48 := by
  unfold tableOfByte
  split
  · simp [*]
  · split <;> simp [*]

/-- A value of 0 or more. -/
theorem within_zero_iff {hi n : Nat} : within 0 hi n = true ↔ n ≤ hi := by simp [within_eq_true]

/-- The changes of a patch and the grades that go with them (R159). -/
theorem patchChange_inRange_iff (k : Kind) (a b : Nat) :
    itemInRange k (.patchChange a b) = true ↔ ((a = 1 ∨ a = 2) ∧ b = 0) ∨ (a = 3 ∧ b ≤ 3) := by
  simp only [itemInRange, Bool.or_eq_true, Bool.and_eq_true, beq_iff_eq, within_zero_iff]
  tauto

/-- Settles O5: a request is its link checks, then a body; the rest is the tables of R188, R189 and R199. -/
theorem linkRefusesFrames : Obligations.LinkRefusesFrames := by
  unfold Obligations.LinkRefusesFrames
  refine ⟨fun k h items s ha => ⟨fun sort => ?_, fun sort held hk => ?_, fun sort free refused => ?_⟩,
    ⟨fun link kind tag body => frameCommand_unlisted link tag body, fun h kind s ha => ?_⟩,
    fun k => ⟨(linkSort_iff k).1, (linkSort_iff k).2, fun _ => ⟨rfl, rfl, rfl⟩⟩, itemsAccepted_iff, ?_,
    fun k n a b c bytes => ?_⟩
  · exact exec_refused ha (linkRefusal_sort sort)
  · exact exec_refused ha (linkRefusal_busy sort held hk)
  · exact exec_refused ha (by rw [refused]; exact linkRefusal_malformed sort free)
  · exact if_neg (by rw [ha]; decide)
  · and_intros <;> decide
  · refine ⟨?_, within_zero_iff, within_zero_iff, rfl, within_eq_true, ?_, within_eq_true, within_eq_true,
      within_zero_iff, within_eq_true, within_zero_iff, within_zero_iff, within_eq_true, within_eq_true, within_zero_iff,
      within_zero_iff, within_eq_true, within_zero_iff, within_eq_true, bankOfByte_isSome_iff, within_eq_true,
      within_zero_iff, ?_, patchChange_inRange_iff k a b, ?_, within_eq_true, rfl, rfl, rfl⟩
    · simp only [itemInRange, Bool.and_eq_true, within_eq_true, Nat.zero_le, true_and]
    · simp [itemInRange, within_eq_true, and_assoc]
    · simp only [itemInRange, Bool.and_eq_true, tableOfByte_isSome_iff, within_zero_iff, selectorMax]
    · simp only [itemInRange, within_eq_true]
      omega

end Sys2Proof.Machine
end

section
/-! SUPPORT. Bytes and numbers, the check sequence and the receiver (R186, R199). -/
namespace Sys2Proof

/-! ### The check sequence -/

theorem checkSums_append (bytes : List Byte) (x : Byte) : checkSums (bytes ++ [x]) =
    (((checkSums bytes).1 + x.toNat) % 255,
      ((checkSums bytes).2 + ((checkSums bytes).1 + x.toNat) % 255) % 255) := by
  rw [checkSums, List.foldl_append]
  rfl

/-- Each sum fits a byte. -/
theorem checkSums_lt (bytes : List Byte) : (checkSums bytes).1 < 256 ∧ (checkSums bytes).2 < 256 := by
  rcases List.eq_nil_or_concat bytes with rfl | ⟨front, x, rfl⟩
  · decide
  · rw [List.concat_eq_append, checkSums_append]
    dsimp only
    omega

/-- Two check bytes are those of the sums exactly where their numbers are the sums. -/
theorem checkBytes_iff (bytes : List Byte) (c1 c2 : Byte) :
    [c1, c2] = [BitVec.ofNat 8 (checkSums bytes).1, BitVec.ofNat 8 (checkSums bytes).2] ↔
      (c1.toNat, c2.toNat) = checkSums bytes := by
  obtain ⟨first, second⟩ := checkSums_lt bytes
  have byte (c : Byte) {n : Nat} (h : n < 256) : c = BitVec.ofNat 8 n ↔ c.toNat = n := by
    rw [← BitVec.toNat_inj, BitVec.toNat_ofNat, Nat.mod_eq_of_lt h]
  rw [List.cons.injEq, List.cons.injEq, byte c1 first, byte c2 second, Prod.ext_iff]
  simp only [and_true]

/-! ### The judgement of a frame -/

/-- Fewer than five bytes after a start byte: the length is not there yet. -/
theorem readFrame_short {bytes : List Byte} (h : bytes.length < 5) : readFrame bytes = .incomplete := by
  unfold readFrame
  split
  · simp only [List.length_cons] at h
    omega
  · rfl

section
variable (kind t1 t0 l1 l0 : Byte)

theorem readFrame_incomplete {rest : List Byte} (room : natOfBytes [l1, l0] ≤ 1024)
    (h : rest.length < natOfBytes [l1, l0] + 2) :
    readFrame (kind :: t1 :: t0 :: l1 :: l0 :: rest) = .incomplete := by
  have room : ¬ bodyMax < natOfBytes [l1, l0] := by
    rw [bodyMax]
    omega
  simp only [readFrame, room, h, if_true, if_false]

theorem readFrame_discarded (rest : List Byte) (h : 1024 < natOfBytes [l1, l0]) :
    readFrame (kind :: t1 :: t0 :: l1 :: l0 :: rest) = .discarded := if_pos h

/-- A whole frame passes its check exactly where its check bytes are the sums. -/
theorem readFrame_whole (body after : List Byte) (c1 c2 : Byte) (length : body.length = natOfBytes [l1, l0])
    (room : body.length ≤ 1024) :
    readFrame (kind :: t1 :: t0 :: l1 :: l0 :: (body ++ c1 :: c2 :: after)) =
      if (c1.toNat, c2.toNat) = checkSums (kind :: t1 :: t0 :: l1 :: l0 :: body) then
        .frame kind (BitVec.ofNat 16 (natOfBytes [t1, t0])) body after
      else .discarded := by
  have room : ¬ bodyMax < body.length := by
    rw [bodyMax]
    omega
  have whole : ¬ (body ++ c1 :: c2 :: after).length < body.length + 2 := by
    rw [List.length_append, List.length_cons, List.length_cons]
    omega
  have checks : ((body ++ c1 :: c2 :: after).drop body.length).take 2 = [c1, c2] := by
    rw [List.drop_left]
    rfl
  have rest : (body ++ c1 :: c2 :: after).drop (body.length + 2) = after := by
    rw [← List.drop_drop, List.drop_left]
    rfl
  simp only [readFrame, ← length, room, whole, if_false, checks, rest, List.take_left, checkBytes_iff]

end

/-! ### The search -/

variable (link : Link) (n : Nat) {rest : List Byte}

theorem scanBytes_nil : scanBytes link n [] = ([], []) := by cases n <;> rfl

theorem scanBytes_passed {x : Byte} (h : x ≠ startByte) : scanBytes link (n + 1) (x :: rest) = scanBytes link n rest :=
  if_neg h

theorem scanBytes_incomplete (h : readFrame rest = .incomplete) :
    scanBytes link (n + 1) (startByte :: rest) = ([], startByte :: rest) := by
  rw [scanBytes, if_pos rfl, h]

theorem scanBytes_discarded (h : readFrame rest = .discarded) : scanBytes link (n + 1) (startByte :: rest) =
    (.frameDiscarded link (startByte :: rest) :: (scanBytes link n rest).1, (scanBytes link n rest).2) := by
  rw [scanBytes, if_pos rfl, h]

theorem scanBytes_frame {kind : Byte} {tag : Tag} {body after : List Byte}
    (h : readFrame rest = .frame kind tag body after) : scanBytes link (n + 1) (startByte :: rest) =
      (frameCommand link kind tag body :: (scanBytes link n after).1, (scanBytes link n after).2) := by
  rw [scanBytes, if_pos rfl, h]

end Sys2Proof

namespace Sys2Proof.Machine

/-- Settles O6. -/
theorem receiverFindsFrames : Obligations.ReceiverFindsFrames := by
  unfold Obligations.ReceiverFindsFrames
  refine ⟨⟨rfl, checkSums_append⟩, fun _ => readFrame_short, fun kind t1 t0 l1 l0 rest =>
    ⟨readFrame_incomplete kind t1 t0 l1 l0, readFrame_discarded kind t1 t0 l1 l0 rest, ?_⟩,
    fun link n x rest => scanBytes_passed link n, fun link n rest => scanBytes_incomplete link n,
    fun link n rest => scanBytes_discarded link n, fun link n rest kind tag body after => scanBytes_frame link n,
    fun _ _ _ => rfl⟩
  rintro body after c1 c2 length room rfl
  exact readFrame_whole kind t1 t0 l1 l0 body after c1 c2 length room

end Sys2Proof.Machine
end

section
/-! SUPPORT. The encoder and the reader of items and frames undo each other (R199, R186). -/
namespace Sys2Proof

/-! ### Numbers in one, two and four bytes -/

theorem toNat_byte {n : Nat} (h : fits1 n = true) : (BitVec.ofNat 8 n).toNat = n := by
  rw [BitVec.toNat_ofNat, Nat.mod_eq_of_lt (of_decide_eq_true h)]

theorem natOfBytes_two {n : Nat} (h : fits2 n = true) : natOfBytes (bytesOfNat 2 n) = n := by
  have h : n < 65536 := of_decide_eq_true h
  show natOfBytes [BitVec.ofNat 8 (n / 256), BitVec.ofNat 8 n] = n
  simp only [natOfBytes, List.foldl_cons, List.foldl_nil, BitVec.toNat_ofNat]
  omega

theorem natOfBytes_four {n : Nat} (h : fits4 n = true) : natOfBytes (bytesOfNat 4 n) = n := by
  have h : n < 4294967296 := of_decide_eq_true h
  show natOfBytes [BitVec.ofNat 8 (n / 256 / 256 / 256), BitVec.ofNat 8 (n / 256 / 256), BitVec.ofNat 8 (n / 256),
    BitVec.ofNat 8 n] = n
  simp only [natOfBytes, List.foldl_cons, List.foldl_nil, BitVec.toNat_ofNat]
  omega

/-- The prices of a band, four bytes each. -/
theorem pricesOfBytes_flatMap {prices : List Nat} (h : prices.all fits4 = true) :
    pricesOfBytes (prices.flatMap (bytesOfNat 4)) = prices := by
  induction prices with
  | nil => rfl
  | cons p rest ih =>
    obtain ⟨here, there⟩ := Bool.and_eq_true_iff.1 h
    show natOfBytes (bytesOfNat 4 p) :: pricesOfBytes (rest.flatMap (bytesOfNat 4)) = p :: rest
    rw [natOfBytes_four here, ih there]

theorem length_bytesOfNat (len n : Nat) : (bytesOfNat len n).length = len := by
  induction len generalizing n with
  | zero => rfl
  | succ len ih =>
    rw [bytesOfNat, List.length_append, ih]
    rfl

theorem length_flatMap_four (prices : List Nat) : (prices.flatMap (bytesOfNat 4)).length = 4 * prices.length := by
  simp [List.length_flatMap, length_bytesOfNat, Nat.mul_comm]

/-! ### One item -/

/-- A head is read where its fields have the length of its kind. -/
theorem Item.read_descriptorHead {l i k : Nat} {rest : List Byte} (hl : fits1 l = true) (hi : fits2 i = true)
    (hk : fits1 k = true) (room : rest.length ≤ 13) (length : (headLength k).getD (rest.length + 4) = rest.length + 4) :
    Item.read 0x24 (Item.value (.descriptorHead l i k rest)) = .descriptorHead l i k rest := by
  have fits : (decide (rest.length ≤ 13) && (headLength k).getD (rest.length + 4) == rest.length + 4) = true := by
    simp [room, length]
  show (if rest.length ≤ 13 && ((headLength (BitVec.ofNat 8 k).toNat).getD (rest.length + 4) == rest.length + 4) then
      Item.descriptorHead (BitVec.ofNat 8 l).toNat (natOfBytes (bytesOfNat 2 i)) (BitVec.ofNat 8 k).toNat rest
    else .raw 0x24 _) = _
  rw [toNat_byte hl, natOfBytes_two hi, toNat_byte hk, if_pos fits]

/-- A band is read by its length, which is that of no selector. -/
theorem Item.read_listBand {m : Nat} {prices : List Nat} (hm : fits2 m = true) (count : prices.length = 12)
    (h : prices.all fits4 = true) : Item.read 0x25 (Item.value (.listBand m prices)) = .listBand m prices := by
  have length : ((prices.flatMap (bytesOfNat 4)).length == 48) = true := by rw [length_flatMap_four, count]; rfl
  have back := pricesOfBytes_flatMap h
  cases prices with
  | nil => cases count
  | cons p rest =>
    show (if ((p :: rest).flatMap (bytesOfNat 4)).length == 48 then
        Item.listBand (natOfBytes (bytesOfNat 2 m)) (pricesOfBytes ((p :: rest).flatMap (bytesOfNat 4)))
      else .raw 0x25 _) = _
    rw [if_pos length, natOfBytes_two hm, back]

/-- What the reader makes of an item's own code and value, line by line of the item table (R199). -/
theorem Item.read_value {i : Item} (h : i.fits = true) (whole : ∀ bs, i ≠ .cut bs) : Item.read i.code i.value = i := by
  cases i with
  | cut bs => exact absurd rfl (whole bs)
  | raw c v =>
    simp only [Item.fits, Bool.and_eq_true, beq_iff_eq] at h
    exact h.2
  | reserve | clearOptions => rfl
  | serial n => exact congrArg Item.serial (natOfBytes_four h)
  | declaredValue n => exact congrArg Item.declaredValue (natOfBytes_four h)
  | hallTime n => exact congrArg Item.hallTime (natOfBytes_four h)
  | lowStock n => exact congrArg Item.lowStock (natOfBytes_four h)
  | firstSerial n => exact congrArg Item.firstSerial (natOfBytes_four h)
  | count n => exact congrArg Item.count (natOfBytes_four h)
  | serviceCode n => exact congrArg Item.serviceCode (natOfBytes_two h)
  | destination n => exact congrArg Item.destination (natOfBytes_two h)
  | mass n => exact congrArg Item.mass (natOfBytes_two h)
  | addOption n => exact congrArg Item.addOption (natOfBytes_two h)
  | optionCode n => exact congrArg Item.optionCode (natOfBytes_two h)
  | printDeadline n => exact congrArg Item.printDeadline (natOfBytes_two h)
  | escalationTimeout n => exact congrArg Item.escalationTimeout (natOfBytes_two h)
  | editionNumber n => exact congrArg Item.editionNumber (natOfBytes_two h)
  | grace n => exact congrArg Item.grace (natOfBytes_two h)
  | statedGrade n => exact congrArg Item.statedGrade (toNat_byte h)
  | contentCategory n => exact congrArg Item.contentCategory (toNat_byte h)
  | position n => exact congrArg Item.position (toNat_byte h)
  | grade n => exact congrArg Item.grade (toNat_byte h)
  | escalationEnable n => exact congrArg Item.escalationEnable (toNat_byte h)
  | enables n => exact congrArg Item.enables (toNat_byte h)
  | causes n => exact congrArg Item.causes (toNat_byte h)
  | bankLetter n => exact congrArg Item.bankLetter (toNat_byte h)
  | settleForm n => exact congrArg Item.settleForm (toNat_byte h)
  | statusPart n => exact congrArg Item.statusPart (toNat_byte h)
  | handle s g =>
    obtain ⟨hs, hg⟩ := Bool.and_eq_true_iff.1 h
    exact congrArg₂ Item.handle (natOfBytes_two hs) (toNat_byte hg)
  | selector l n =>
    obtain ⟨hl, hn⟩ := Bool.and_eq_true_iff.1 h
    exact congrArg₂ Item.selector (toNat_byte hl) (natOfBytes_two hn)
  | patchChange c g =>
    obtain ⟨hc, hg⟩ := Bool.and_eq_true_iff.1 h
    exact congrArg₂ Item.patchChange (toNat_byte hc) (toNat_byte hg)
  | tableLimit l n =>
    obtain ⟨hl, hn⟩ := Bool.and_eq_true_iff.1 h
    exact congrArg₂ Item.tableLimit (toNat_byte hl) (natOfBytes_two hn)
  | listSelector l n =>
    obtain ⟨hl, hn⟩ := Bool.and_eq_true_iff.1 h
    exact congrArg₂ Item.listSelector (toNat_byte hl) (natOfBytes_two hn)
  | sides a b c =>
    simp only [Item.fits, Bool.and_eq_true] at h
    obtain ⟨⟨ha, hb⟩, hc⟩ := h
    show Item.sides (natOfBytes (bytesOfNat 2 a)) (natOfBytes (bytesOfNat 2 b)) (natOfBytes (bytesOfNat 2 c)) = _
    rw [natOfBytes_two ha, natOfBytes_two hb, natOfBytes_two hc]
  | parameters g m t =>
    simp only [Item.fits, Bool.and_eq_true] at h
    obtain ⟨⟨hg, hm⟩, ht⟩ := h
    show Item.parameters (natOfBytes (bytesOfNat 2 g)) (BitVec.ofNat 8 m).toNat (natOfBytes (bytesOfNat 4 t)) = _
    rw [natOfBytes_two hg, toNat_byte hm, natOfBytes_four ht]
  | segment n u f l bl bi x =>
    simp only [Item.fits, Bool.and_eq_true] at h
    obtain ⟨⟨⟨⟨⟨⟨hn, hu⟩, hf⟩, hl⟩, hbl⟩, hbi⟩, hx⟩ := h
    show Item.segment (BitVec.ofNat 8 n).toNat (BitVec.ofNat 8 u).toNat (natOfBytes (bytesOfNat 2 f))
      (natOfBytes (bytesOfNat 2 l)) (BitVec.ofNat 8 bl).toNat (natOfBytes (bytesOfNat 2 bi)) (BitVec.ofNat 8 x).toNat = _
    rw [toNat_byte hn, toNat_byte hu, natOfBytes_two hf, natOfBytes_two hl, toNat_byte hbl, natOfBytes_two hbi,
      toNat_byte hx]
  | zonePlace n u l h' z c =>
    simp only [Item.fits, Bool.and_eq_true] at h
    obtain ⟨⟨⟨⟨⟨hn, hu⟩, hl⟩, hh⟩, hz⟩, hc⟩ := h
    show Item.zonePlace (BitVec.ofNat 8 n).toNat (BitVec.ofNat 8 u).toNat (natOfBytes (bytesOfNat 2 l))
      (natOfBytes (bytesOfNat 2 h')) (BitVec.ofNat 8 z).toNat (natOfBytes (bytesOfNat 2 c)) = _
    rw [toNat_byte hn, toNat_byte hu, natOfBytes_two hl, natOfBytes_two hh, toNat_byte hz, natOfBytes_two hc]
  | descriptorHead l i k rest =>
    simp only [Item.fits, Bool.and_eq_true, decide_eq_true_eq, beq_iff_eq] at h
    obtain ⟨⟨⟨⟨hl, hi⟩, hk⟩, room⟩, length⟩ := h
    exact Item.read_descriptorHead hl hi hk room length
  | listBand m prices =>
    simp only [Item.fits, Bool.and_eq_true, beq_iff_eq] at h
    obtain ⟨⟨hm, count⟩, all⟩ := h
    exact Item.read_listBand hm count all

/-- A code fits a byte. -/
theorem Item.code_lt {i : Item} (h : i.fits = true) (whole : ∀ bs, i ≠ .cut bs) : i.code < 256 := by
  cases i with
  | cut bs => exact absurd rfl (whole bs)
  | raw c v =>
    simp only [Item.fits, Bool.and_eq_true] at h
    exact of_decide_eq_true h.1.1
  | _ => exact of_decide_eq_true rfl

/-- So does the length of a value. -/
theorem Item.length_value_lt {i : Item} (h : i.fits = true) : i.value.length < 256 := by
  cases i with
  | raw c v =>
    simp only [Item.fits, Bool.and_eq_true, decide_eq_true_eq] at h
    exact Nat.lt_succ_of_le h.1.2
  | descriptorHead l i k rest =>
    simp only [Item.fits, Bool.and_eq_true, decide_eq_true_eq] at h
    obtain ⟨⟨-, room⟩, -⟩ := h
    simp only [Item.value, List.length_append, length_bytesOfNat]
    omega
  | listBand m prices =>
    simp only [Item.fits, Bool.and_eq_true, beq_iff_eq] at h
    obtain ⟨⟨-, count⟩, -⟩ := h
    simp only [Item.value, List.length_append, length_bytesOfNat, length_flatMap_four, count]
    decide
  | _ =>
    simp only [Item.value, List.length_append, length_bytesOfNat, List.length_nil]
    decide

/-! ### A body -/

/-- The reader takes an item off the front of a body. -/
theorem readItems_cons (n : Nat) {i : Item} (h : i.fits = true) (whole : ∀ bs, i ≠ .cut bs) (rest : List Byte) :
    readItems (n + 1) (i.bytes ++ rest) = i :: readItems n rest := by
  have bytes : i.bytes = BitVec.ofNat 8 i.code :: BitVec.ofNat 8 i.value.length :: i.value := by
    cases i with
    | cut bs => exact absurd rfl (whole bs)
    | _ => rfl
  have code : (BitVec.ofNat 8 i.code).toNat = i.code := toNat_byte (decide_eq_true (Item.code_lt h whole))
  have length : (BitVec.ofNat 8 i.value.length).toNat = i.value.length :=
    toNat_byte (decide_eq_true (Item.length_value_lt h))
  have room : i.value.length ≤ (i.value ++ rest).length := by
    rw [List.length_append]
    omega
  rw [bytes, List.cons_append, List.cons_append, readItems, length, if_pos room, code, List.take_left,
    List.drop_left, Item.read_value h whole]

/-- Bytes too few for the item they begin are one item cut short. -/
theorem readItems_cut (n : Nat) {bs : List Byte} (h : cutBytes bs = true) : readItems (n + 1) bs = [.cut bs] := by
  match bs, h with
  | [c], _ => rfl
  | c :: l :: rest, h =>
    have short : ¬ l.toNat ≤ rest.length := Nat.not_le.2 (of_decide_eq_true h)
    rw [readItems, if_neg short]

/-- The items of a body are those that spell it. -/
theorem readItems_bodyOf {items : List Item} (fits : items.all Item.fits = true) (last : cutLast items = true) {n : Nat}
    (room : (bodyOf items).length ≤ n) : readItems n (bodyOf items) = items := by
  induction items generalizing n with
  | nil => cases n <;> rfl
  | cons i rest ih =>
    obtain ⟨here, there⟩ := Bool.and_eq_true_iff.1 fits
    have body : bodyOf (i :: rest) = i.bytes ++ bodyOf rest := rfl
    by_cases cut : ∃ bs, i = .cut bs
    · obtain ⟨bs, rfl⟩ := cut
      obtain rfl : rest = [] := List.isEmpty_iff.1 last
      have alone : bodyOf [Item.cut bs] = bs := List.append_nil bs
      rw [alone] at room ⊢
      have here : cutBytes bs = true := here
      cases n with
      | zero =>
        rw [List.eq_nil_of_length_eq_zero (Nat.le_zero.1 room)] at here
        cases here
      | succ n => exact readItems_cut n here
    · have whole : ∀ bs, i ≠ .cut bs := fun bs e => cut ⟨bs, e⟩
      have last : cutLast rest = true := by
        cases i with
        | cut bs => exact absurd rfl (whole bs)
        | _ => exact last
      have begins : 2 ≤ i.bytes.length := by
        cases i with
        | cut bs => exact absurd rfl (whole bs)
        | _ => exact Nat.le_add_left 2 _
      rw [body, List.length_append] at room
      cases n with
      | zero => omega
      | succ n => rw [body, readItems_cons n here whole, ih there last (by omega)]

/-- The items of a frame's body are those it was made from. -/
theorem itemsOf_bodyOf {items : List Item} (h : itemsWf items = true) : itemsOf (bodyOf items) = items := by
  simp only [itemsWf, Bool.and_eq_true] at h
  obtain ⟨⟨fits, last⟩, -⟩ := h
  exact readItems_bodyOf fits last le_rfl

/-! ### A frame -/

theorem Kind.ofCode_code (k : Kind) : Kind.ofCode k.code = some k := by cases k <;> decide

/-- The bytes of a frame pass their check. -/
theorem readFrame_frameBytes (kind : Byte) (tag : Tag) {body : List Byte} (room : body.length ≤ 1024) :
    readFrame (frameBytes kind tag body).tail = .frame kind tag body [] := by
  have length : body.length = natOfBytes (bytesOfNat 2 body.length) :=
    (natOfBytes_two (decide_eq_true (by omega))).symm
  have back : BitVec.ofNat 16 (natOfBytes (bytesOfNat 2 tag.toNat)) = tag := by
    rw [natOfBytes_two (decide_eq_true tag.isLt), BitVec.ofNat_toNat, BitVec.setWidth_eq]
  obtain ⟨first, second⟩ := checkSums_lt (kind :: (bytesOfNat 2 tag.toNat ++ bytesOfNat 2 body.length ++ body))
  refine (readFrame_whole kind _ _ _ _ body [] _ _ length room).trans ?_
  rw [if_pos]
  · exact congrArg (FrameRead.frame kind · body []) back
  · exact Prod.ext (toNat_byte (decide_eq_true first)) (toNat_byte (decide_eq_true second))

/-- On a receiver that holds no byte, a frame's bytes are the command of the frame. -/
theorem scanBytes_frameBytes (link : Link) (k : Kind) (tag : Tag) {items : List Item} (h : itemsWf items = true) :
    scanBytes link (frameBytes k.code tag (bodyOf items)).length (frameBytes k.code tag (bodyOf items)) =
      ([requestCommand k ⟨link, tag⟩ items], []) := by
  have room : (bodyOf items).length ≤ 1024 := by
    simp only [itemsWf, Bool.and_eq_true] at h
    exact of_decide_eq_true h.2
  have command : frameCommand link k.code tag (bodyOf items) = requestCommand k ⟨link, tag⟩ items := by
    rw [frameCommand, Kind.ofCode_code, itemsOf_bodyOf h]
  have frame : frameBytes k.code tag (bodyOf items) = startByte :: (frameBytes k.code tag (bodyOf items)).tail := rfl
  rw [frame, List.length_cons, scanBytes_frame link _ (readFrame_frameBytes k.code tag room), scanBytes_nil, command]

end Sys2Proof

namespace Sys2Proof.Machine

/-- Settles O7: the item table is read back line by line, and the frame around the items passes its check. -/
theorem frameBytesGiveTheCommand : Obligations.FrameBytesGiveTheCommand := by
  unfold Obligations.FrameBytesGiveTheCommand
  intro k link tag items wf
  refine ⟨itemsOf_bodyOf wf, fun s ha empty => ?_⟩
  have link_same : { s.link link with received := [] } = s.link link := by rw [← empty]
  simp only [State.receive, ha, Bool.false_eq_true, if_false, empty, List.nil_append, scanBytes_frameBytes link k tag wf,
    link_same, State.setLink_link]

end Sys2Proof.Machine
end

section
/-! An answer goes to its request (R190, R187, R199): O8. -/
namespace Sys2Proof.Machine

/-- The kind of the answer to a request kind: 80 hexadecimal above it (R190). -/
theorem toNat_answerKind_code (k : Kind) : (answerKind k.code).toNat = k.code.toNat + 0x80 := by cases k <;> rfl

theorem Answer.outcome_range (a : Answer) : 1 ≤ a.outcome ∧ a.outcome ≤ 46 := by
  cases a <;> exact of_decide_eq_true rfl

/-- A subject takes four bytes. -/
theorem length_subjectBytes (subject : Subject) : (subjectBytes subject).length = 4 := by
  cases subject <;> rfl

/-- A fault report takes eight bytes (R199). -/
theorem FaultReport.length_bytes (f : FaultReport) : f.bytes.length = 8 := by
  have grades : (match f.grades with
      | some (needed, checked) => byte1 needed ++ byte1 checked
      | none => byte1 255 ++ byte1 255).length = 2 := by cases f.grades <;> rfl
  rw [FaultReport.bytes, List.length_append, List.length_append, length_subjectBytes]
  exact congrArg (2 + 4 + ·) grades

/-- Settles O8: sending adds one answer and frees its link; the rest is the layout of answers. -/
theorem answerGoesToItsRequest : Obligations.AnswerGoesToItsRequest := by
  unfold Obligations.AnswerGoesToItsRequest
  refine ⟨fun s l a o held => ⟨State.answer_answers s a held, s.answer_outstanding l a, fun m apart => ?_,
      toNat_answerKind_code⟩, fun a => ⟨a.content, rfl, a.outcome_range⟩, ?_, ?_⟩
  · exact State.link_answer_other apart.symm a
  · simp only [List.forall_mem_cons, List.not_mem_nil, false_implies, implies_true, and_true]
    and_intros <;> rfl
  · intro content h st q l v m part c d f subject r bank name reason entry
    exact ⟨rfl, rfl, rfl, rfl, rfl, rfl, rfl, rfl, rfl, rfl, rfl, rfl, rfl, f.length_bytes, fun _ => rfl, fun _ => rfl⟩

end Sys2Proof.Machine
end

section
/-! Hall time and the settings (R191, R192): O51. -/
namespace Sys2Proof.Machine

variable {s : State} {g : Tag} {items : List Item}

/-! ### SET TIME (R191) -/

/-- A switch that falls due leaves the supervisor link aside. -/
theorem State.switchIfDue_supervisor (s : State) (x : LinkState) :
    (s.setLink .supervisor x).switchIfDue = s.switchIfDue.setLink .supervisor x := by
  have due : (s.setLink .supervisor x).dueBank = s.dueBank := rfl
  rw [State.switchIfDue, State.switchIfDue, due]
  split
  · exact State.takeSwitch_supervisor s x _
  · rfl

theorem State.switchIfDue_of_dueBank {l : BankLetter} (h : s.dueBank = some l) : s.switchIfDue = s.takeSwitch l := by
  rw [State.switchIfDue, h]

theorem State.switchIfDue_of_none (h : s.dueBank = none) : s.switchIfDue = s := by rw [State.switchIfDue, h]

/-- No bank is due where every effective time lies ahead. -/
theorem State.dueBank_ahead
    (h : ∀ l edition effective grace, (s.bank l).state = .scheduled edition effective grace → s.hallTime < effective) :
    s.dueBank = none := by
  have idle (l : BankLetter) : (s.bank l).switchDue s.hallTime = false := by
    unfold Bank.switchDue
    split
    · rename_i edition effective grace hs
      exact decide_eq_false (Nat.not_le.2 (h l edition effective grace hs))
    · rfl
  rw [State.dueBank, show s.bankA.switchDue s.hallTime = false from idle .a,
    show s.bankB.switchDue s.hallTime = false from idle .b]
  rfl

/-- SET TIME writes hall time, takes a switch that falls due and answers. -/
theorem exec_setTime {t : Nat} (hs : s.Serves .setTime .supervisor items) (ht : hallTimeOf items = some t) :
    exec (.setTime ⟨.supervisor, g⟩ items) s =
      .next ((State.switchIfDue { s with hallTime := t }).judge.send .supervisor g Kind.setTime.code
        (.done (.hallTime t))) := by
  show execSetTime ⟨.supervisor, g⟩ items s = _
  refine (haltedRequest_serves .setTime ⟨.supervisor, g⟩ items _ hs).trans ?_
  rw [ht]
  exact State.finish_supervisor (f := fun u => State.switchIfDue { u with hallTime := t })
    (State.switchIfDue_supervisor { s with hallTime := t }) _ hs.free

/-- SET TIMERS writes the settings it carries and answers. -/
theorem exec_setTimers (hs : s.Serves .setTimers .supervisor items) :
    exec (.setTimers ⟨.supervisor, g⟩ items) s =
      .next ((State.judge { s with
        timers := ⟨(printDeadlineOf items).getD s.timers.printDeadline,
          (escalationTimeoutOf items).getD s.timers.escalationTimeout⟩,
        pool := ⟨s.pool.blocks, (lowStockOf items).getD s.pool.threshold⟩ }).send .supervisor g
        Kind.setTimers.code (.done (.timers ((printDeadlineOf items).getD s.timers.printDeadline)
          ((escalationTimeoutOf items).getD s.timers.escalationTimeout)
          ((lowStockOf items).getD s.pool.threshold)))) := by
  show execSetTimers ⟨.supervisor, g⟩ items s = _
  refine (haltedRequest_serves .setTimers ⟨.supervisor, g⟩ items _ hs).trans ?_
  exact State.finish_beside (f := fun u => { u with
      timers := ⟨(printDeadlineOf items).getD s.timers.printDeadline,
        (escalationTimeoutOf items).getD s.timers.escalationTimeout⟩,
      pool := ⟨s.pool.blocks, (lowStockOf items).getD s.pool.threshold⟩ })
    (fun _ => rfl) .supervisor .setTimers g _ hs.free

/-! ### A second (R192) -/

theorem Rec.tick_printing {r : Rec} {e : Entered} {q : Quote} {l : Label} {d : Nat} (h : r.body = .printing e q l d) :
    r.tick = { r with body := .printing e q l (d - 1) } := by rw [Rec.tick, h]

theorem Rec.tick_other {r : Rec} (h : r.body.isPrinting = false) : r.tick = r := by
  unfold Rec.tick
  split
  · rename_i hb
    rw [hb] at h
    cases h
  · rfl

theorem Context.tick_other {c : Context} (h : c.isEscalated = false) : c.tick = c := by
  cases c with
  | escalated session slot => cases h
  | _ => rfl

theorem Bank.tick_running {b : Bank} {edition n : Nat} (h : b.state = .retiring edition (.running n)) :
    b.tick = { b with state := .retiring edition (.running (n - 1)) } := by rw [Bank.tick, h]

theorem Bank.tick_other {b : Bank} (h : ∀ edition n, b.state ≠ .retiring edition (.running n)) : b.tick = b := by
  unfold Bank.tick
  split
  · exact absurd ‹_› (h _ _)
  · rfl

/-- In HALTED nothing counts down (R183). -/
theorem State.countDown_halted (h : s.halted = true) : s.countDown = s := if_pos h

/-- Outside HALTED every record, position and bank stands a second later. -/
theorem State.countDown_running (h : s.halted = false) : s.countDown =
    { s with
      table := { s.table with records := s.table.records.mapValues Rec.tick }
      positions := s.positions.map Context.tick
      bankA := s.bankA.tick
      bankB := s.bankB.tick } := if_neg (by rw [h]; decide)

/-- What a second counts down outside HALTED, and what it leaves. -/
theorem State.countDown_counts (h : s.halted = false) :
    (∀ n, s.record n = none → s.countDown.record n = none) ∧
    (∀ n r, s.record n = some r → r.body.isPrinting = false → s.countDown.record n = some r) ∧
    (∀ n r e q l d, s.record n = some r → r.body = .printing e q l d →
      s.countDown.record n = some { r with body := .printing e q l (d - 1) }) ∧
    (∀ p session slot, s.ctx p = .escalated session slot →
      s.countDown.ctx p = .escalated session { slot with remaining := slot.remaining - 1 }) ∧
    (∀ p, (s.ctx p).isEscalated = false → s.countDown.ctx p = s.ctx p) ∧
    (∀ l edition n, (s.bank l).state = .retiring edition (.running n) →
      s.countDown.bank l = { s.bank l with state := .retiring edition (.running (n - 1)) }) ∧
    (∀ l, (∀ edition n, (s.bank l).state ≠ .retiring edition (.running n)) → s.countDown.bank l = s.bank l) := by
  have record (n : Nat) : s.countDown.record n = (s.record n).map Rec.tick := by
    rw [State.countDown_running h]
    exact Table.get_mapValues _ _ n
  have ctx (p : PositionNo) : s.countDown.ctx p = (s.ctx p).tick := by
    rw [State.countDown_running h]
    exact Vector.getElem_map _ p.isLt
  have bank (l : BankLetter) : s.countDown.bank l = (s.bank l).tick := by
    rw [State.countDown_running h]
    cases l <;> rfl
  refine ⟨fun n hn => ?_, fun n r hr other => ?_, fun n r e q l d hr hb => ?_, fun p session slot hc => ?_,
    fun p other => ?_, fun l edition n hb => ?_, fun l other => ?_⟩
  · rw [record, hn, Option.map_none]
  · rw [record, hr, Option.map_some, Rec.tick_other other]
  · rw [record, hr, Option.map_some, Rec.tick_printing hb]
  · rw [ctx, hc, Context.tick]
  · rw [ctx, Context.tick_other other]
  · rw [bank, Bank.tick_running hb]
  · rw [bank, Bank.tick_other other]

/-- What a second leaves aside, in HALTED too. -/
theorem State.countDown_aside (s : State) :
    s.countDown.hallTime = s.hallTime ∧ s.countDown.links = s.links ∧ s.countDown.units = s.units ∧
    s.countDown.queue = s.queue ∧ s.countDown.pool = s.pool ∧ s.countDown.attention = s.attention ∧
    s.countDown.integrity = s.integrity ∧ s.countDown.timers = s.timers ∧ s.countDown.answers = s.answers ∧
    s.countDown.table.generations = s.table.generations ∧ s.countDown.table.index = s.table.index ∧
    s.countDown.grantState = s.grantState ∧ s.countDown.pendingReweigh = s.pendingReweigh := by
  unfold State.countDown
  split <;> and_intros <;> rfl

/-- Settles O51: the two settings requests by their finishing rules, the tick by what a second counts and leaves. -/
theorem hallTimeAndSettings : Obligations.HallTimeAndSettings := by
  unfold Obligations.HallTimeAndSettings
  refine ⟨fun g items s t hs ht ahead => ?_,
    fun g items s l t edition effective grace hs ht scheduled other reached => ?_,
    fun g items s => exec_setTimers, fun s ha => ?_⟩
  · rw [exec_setTime hs ht, State.switchIfDue_of_none (State.dueBank_ahead ahead)]
  · have due := State.dueBank_scheduled (s := { s with hallTime := t }) scheduled other
    rw [exec_setTime hs ht, State.switchIfDue_of_dueBank (due.trans (if_pos reached))]
  · obtain ⟨time, links, units, queue, pool, attention, integrity, timers, answers, generations, index, grant,
      pending⟩ := State.countDown_aside { s with hallTime := min Config.hallTimeMax (s.hallTime + 1) }
    refine ⟨_, if_neg (by rw [ha]; decide), time, links, units, queue, pool, attention, integrity, timers, answers,
      generations, index, grant, pending, fun halted => ?_, fun running => ?_⟩
    · rw [time]
      exact State.countDown_halted halted
    · exact State.countDown_counts (s := { s with hallTime := min Config.hallTimeMax (s.hallTime + 1) }) running

end Sys2Proof.Machine
end

section
/-! The attention flags follow their requests (R182, R193 to R195): O52. -/
namespace Sys2Proof.Machine

variable {s : State} {g : Tag} {items : List Item}

theorem bitOf_eq_testBit (n i : Nat) : bitOf n i = n.testBit i := by
  rw [Nat.testBit_eq_decide_div_mod_eq]
  rfl

/-- What a cause's condition reports: the level causes have one, the edge causes none. -/
def Conditions.level (now : Conditions) : Cause → Bool
  | .escalation => now.escalation
  | .poolLow => now.poolLow
  | .held => now.held
  | .integrity | .switchTaken | .bankRetired | .quotesLapsed => false

theorem Attention.acknowledge_get (a : Attention) (named : Causes) (c : Cause) :
    (a.acknowledge named).pending.get c = (a.pending.get c && (!named.get c || a.conditions.level c)) := by
  cases c with
  | escalation | poolLow | held => rfl
  | integrity | switchTaken | bankRetired | quotesLapsed =>
    rw [Conditions.level, Bool.or_false]
    rfl

theorem Attention.enable_get (a : Attention) (x : Causes) (c : Cause) :
    (a.enable x).pending.get c =
      (a.pending.get c || (x.get c && !a.enabled.get c && a.conditions.level c)) := by
  cases c with
  | escalation | poolLow | held => rfl
  | integrity | switchTaken | bankRetired | quotesLapsed =>
    rw [Conditions.level, Bool.and_false, Bool.or_false]
    rfl

/-- Two bytes of flags meet exactly in a cause that both flag. -/
theorem Causes.meet_iff (a b : Causes) : a.meet b = true ↔ ∃ c : Cause, a.get c = true ∧ b.get c = true := by
  simp only [Causes.meet, Bool.or_eq_true, Bool.and_eq_true]
  constructor
  · rintro ((((((h | h) | h) | h) | h) | h) | h)
    · exact ⟨.escalation, h⟩
    · exact ⟨.integrity, h⟩
    · exact ⟨.poolLow, h⟩
    · exact ⟨.held, h⟩
    · exact ⟨.switchTaken, h⟩
    · exact ⟨.bankRetired, h⟩
    · exact ⟨.quotesLapsed, h⟩
  · rintro ⟨c, h⟩
    cases c <;> simp only [Causes.get] at h <;> simp only [h, and_self, true_or, or_true]

theorem IntegrityState.acknowledged_eq (i : IntegrityState) (named : Bool) :
    i.acknowledged named = if named = true ∧ i = .alert then .normal else i := by
  unfold IntegrityState.acknowledged
  simp only [Bool.and_eq_true, beq_iff_eq]

theorem State.line_iff (s : State) : s.line = true ↔
    s.resetAsserted = false ∧ ∃ c : Cause, s.attention.pending.get c = true ∧ s.attention.enabled.get c = true := by
  rw [State.line, Bool.and_eq_true, Bool.not_eq_true', Causes.meet_iff]

theorem exec_setEnables {n : Nat} (hs : s.Serves .setEnables .supervisor items) (hn : enablesOf items = some n) :
    exec (.setEnables ⟨.supervisor, g⟩ items) s =
      .next ((State.judge { s with
        attention := s.attention.enable (Causes.ofByte n),
        integrity := { s.integrity with alertEnable := bitOf n 7 } }).send .supervisor g Kind.setEnables.code
        (.done (.enables (Causes.ofByte n) (bitOf n 7) (s.attention.enable (Causes.ofByte n)).pending))) := by
  show execSetEnables ⟨.supervisor, g⟩ items s = _
  refine (haltedRequest_serves .setEnables ⟨.supervisor, g⟩ items _ hs).trans ?_
  rw [hn]
  exact State.finish_beside (f := fun u => { u with
      attention := s.attention.enable (Causes.ofByte n)
      integrity := { s.integrity with alertEnable := bitOf n 7 } })
    (fun _ => rfl) .supervisor .setEnables g _ hs.free

theorem exec_acknowledge {n : Nat} (hs : s.Serves .acknowledge .supervisor items) (hn : causesOf items = some n) :
    exec (.acknowledge ⟨.supervisor, g⟩ items) s =
      .next ((State.judge { s with
        attention := s.attention.acknowledge (Causes.ofByte n),
        integrity := { s.integrity with
            state := if bitOf n 1 = true ∧ s.integrity.state = .alert then .normal else s.integrity.state } }).send
        .supervisor g Kind.acknowledge.code (.done (.flags (s.attention.acknowledge (Causes.ofByte n)).pending))) := by
  show execAcknowledge ⟨.supervisor, g⟩ items s = _
  refine (haltedRequest_serves .acknowledge ⟨.supervisor, g⟩ items _ hs).trans ?_
  rw [hn, ← IntegrityState.acknowledged_eq]
  exact State.finish_beside (f := fun u => { u with
      attention := s.attention.acknowledge (Causes.ofByte n)
      integrity := { s.integrity with state := s.integrity.state.acknowledged (bitOf n 1) } })
    (fun _ => rfl) .supervisor .acknowledge g _ hs.free

/-- Settles O52: the bits by `bitOf_eq_testBit`, the two requests by their finishing rules, the flags by one equation
per operation, and the line by `State.line_iff`. -/
theorem attentionFollowsItsRequests : Obligations.AttentionFollowsItsRequests := by
  unfold Obligations.AttentionFollowsItsRequests
  refine ⟨fun n i x => ?_, fun g items s n => exec_setEnables, fun g items s n => exec_acknowledge,
    fun a named x c => ?_, State.line_iff⟩
  · have bit := bitOf_eq_testBit n
    exact ⟨bit i, bit 0, bit 1, bit 2, bit 3, bit 4, bit 5, bit 6, rfl, rfl, rfl, rfl, rfl, rfl, rfl⟩
  · refine ⟨rfl, rfl, fun unnamed => ?_, fun hn => ?_, rfl, rfl, ?_⟩
    · rw [Attention.acknowledge_get, unnamed, Bool.not_false, Bool.true_or, Bool.and_true]
    · rw [Attention.acknowledge_get, hn, Bool.not_true, Bool.false_or]
      cases c <;> rfl
    · rw [Attention.enable_get]
      cases c <;> rfl

end Sys2Proof.Machine
end

section
/-! The soft reset position by position (R76, R135, R164, R197). -/
namespace Sys2Proof.Machine

variable {s t u : State} {p q : PositionNo}

/-! ### One position -/

/-- The context a SOFT RESET leaves, from whether it ends the request the position holds (R135). -/
def Context.softReset (ends : Bool) : Context → Context
  | .closed => .closed
  | .opened session _ => .opened session none
  | .working session _ _ request => if ends then .opened session none else .working session false none request
  | .escalated session _ => .opened session none
  | .suspended session _ => .opened session none

theorem State.entryOf_isSome (s : State) (r : Requester) :
    (s.entryOf r).isSome = s.queue.any fun e => e.requester == r := List.isSome_find?

theorem State.softResetEnds_congr (queue : t.queue = s.queue) (ctx : t.ctx p = s.ctx p) :
    t.softResetEnds p = s.softResetEnds p := by
  unfold State.softResetEnds
  rw [ctx, queue]

theorem State.resetAnswer_congr {l : Link} (h : t.link l = s.link l) : t.resetAnswer l = s.resetAnswer l := by
  rw [State.resetAnswer, State.resetAnswer, h]

/-- A position is answered RESET where its request ends, and its context is reset. -/
theorem State.softResetPosition_eq (s : State) (p : PositionNo) : s.softResetPosition p =
    (if s.softResetEnds p then s.answer (.position p) .reset else s).setCtx p
      ((s.ctx p).softReset (s.softResetEnds p)) := by
  unfold State.softResetPosition State.softResetEnds
  rw [State.entryOf_isSome]
  cases hc : s.ctx p with
  | closed => exact (State.setCtx_ctx s p hc).symm
  | opened session res => rfl
  | working session pend res request =>
    cases s.queue.any fun e => e.requester == .position p <;> rfl
  | escalated session slot => rfl
  | suspended session saved => cases saved <;> rfl

/-- Every block but the links, the contexts and the answers stands as it did. -/
def State.BehindDesks (s t : State) : Prop :=
  ∃ links positions answers, t = { s with links := links, positions := positions, answers := answers }

theorem State.BehindDesks.trans (h : s.BehindDesks t) (h' : t.BehindDesks u) : s.BehindDesks u := by
  obtain ⟨links, positions, answers, rfl⟩ := h
  obtain ⟨links, positions, answers, rfl⟩ := h'
  exact ⟨links, positions, answers, rfl⟩

theorem State.answer_behindDesks (s : State) (l : Link) (a : Answer) : s.BehindDesks (s.answer l a) := by
  unfold State.answer
  split
  · exact ⟨s.links, s.positions, s.answers, rfl⟩
  · cases l <;> exact ⟨_, s.positions, _, rfl⟩

theorem State.softResetPosition_behindDesks (s : State) (p : PositionNo) : s.BehindDesks (s.softResetPosition p) := by
  rw [State.softResetPosition_eq]
  split
  · exact (s.answer_behindDesks _ _).trans ⟨_, _, _, rfl⟩
  · exact ⟨_, _, _, rfl⟩

theorem State.softResetPosition_ctx (s : State) (p : PositionNo) :
    (s.softResetPosition p).ctx p = (s.ctx p).softReset (s.softResetEnds p) := by
  rw [State.softResetPosition_eq, State.ctx_setCtx]

theorem State.softResetPosition_ctx_other (s : State) (h : p ≠ q) : (s.softResetPosition p).ctx q = s.ctx q := by
  rw [State.softResetPosition_eq, State.ctx_setCtx_other _ _ _ _ h]
  split
  · rw [State.ctx, State.answer_positions, State.ctx]
  · rfl

theorem State.softResetPosition_link_other (s : State) {l : Link} (h : .position p ≠ l) :
    (s.softResetPosition p).link l = s.link l := by
  rw [State.softResetPosition_eq]
  split
  · exact State.link_answer_other h _
  · rfl

theorem State.softResetPosition_outstanding (s : State) (p : PositionNo) :
    ((s.softResetPosition p).link (.position p)).outstanding =
      if s.softResetEnds p then none else (s.link (.position p)).outstanding := by
  rw [State.softResetPosition_eq]
  split
  · exact s.answer_outstanding (.position p) .reset
  · rfl

theorem State.softResetPosition_answers (s : State) (p : PositionNo) : (s.softResetPosition p).answers =
    s.answers ++ if s.softResetEnds p then s.resetAnswer (.position p) else [] := by
  rw [State.softResetPosition_eq, State.setCtx_answers]
  split
  · exact State.answers_answer (.position p) .reset
  · exact (List.append_nil _).symm

/-! ### All positions -/

/-- What the reset of the listed positions leaves. -/
structure State.DesksReset (ps : List PositionNo) (s t : State) : Prop where
  frame : s.BehindDesks t
  link : ∀ l, (∀ p ∈ ps, .position p ≠ l) → t.link l = s.link l
  ctx_other : ∀ p, p ∉ ps → t.ctx p = s.ctx p
  ctx : ∀ p ∈ ps, t.ctx p = (s.ctx p).softReset (s.softResetEnds p)
  outstanding : ∀ p ∈ ps, (t.link (.position p)).outstanding =
    if s.softResetEnds p then none else (s.link (.position p)).outstanding
  answers : t.answers = s.answers ++ ps.flatMap fun p => if s.softResetEnds p then s.resetAnswer (.position p) else []

theorem State.foldl_softResetPosition {ps : List PositionNo} (nodup : ps.Nodup) (s : State) :
    s.DesksReset ps (ps.foldl State.softResetPosition s) := by
  induction ps generalizing s with
  | nil => exact ⟨⟨_, _, _, rfl⟩, fun _ _ => rfl, fun _ _ => rfl, nofun, nofun, (List.append_nil _).symm⟩
  | cons p rest ih =>
    obtain ⟨fresh, nodup⟩ := List.nodup_cons.1 nodup
    obtain ⟨frame, link, ctx_other, ctx, outstanding, answers⟩ := ih nodup (s.softResetPosition p)
    have ne (q : PositionNo) (hq : q ∈ rest) : p ≠ q := fun h => fresh (h ▸ hq)
    have links (q : PositionNo) (hq : q ∈ rest) :
        (s.softResetPosition p).link (.position q) = s.link (.position q) :=
      s.softResetPosition_link_other fun h => ne q hq (Link.position.inj h)
    have ends (q : PositionNo) (hq : q ∈ rest) : (s.softResetPosition p).softResetEnds q = s.softResetEnds q :=
      State.softResetEnds_congr (s.softResetPosition_queue p) (s.softResetPosition_ctx_other (ne q hq))
    rw [List.foldl_cons]
    refine ⟨(s.softResetPosition_behindDesks p).trans frame, fun l hl => ?_, fun q hq => ?_, fun q hq => ?_,
      fun q hq => ?_, ?_⟩
    · obtain ⟨head, tail⟩ := List.forall_mem_cons.1 hl
      exact (link l tail).trans (s.softResetPosition_link_other head)
    · obtain ⟨head, tail⟩ := not_or.1 (List.mem_cons.not.1 hq)
      exact (ctx_other q tail).trans (s.softResetPosition_ctx_other (Ne.symm head))
    · rcases List.mem_cons.1 hq with rfl | hq
      · exact (ctx_other q fresh).trans (s.softResetPosition_ctx q)
      · rw [ctx q hq, ends q hq, s.softResetPosition_ctx_other (ne q hq)]
    · rcases List.mem_cons.1 hq with rfl | hq
      · rw [link (.position q) fun r hr h => ne r hr (Link.position.inj h).symm]
        exact s.softResetPosition_outstanding q
      · rw [outstanding q hq, ends q hq, links q hq]
    · rw [answers, s.softResetPosition_answers, List.flatMap_cons, List.append_assoc]
      refine congrArg (fun x => s.answers ++ (_ ++ x)) (List.flatMap_congr fun q hq => ?_)
      rw [ends q hq, State.resetAnswer_congr (links q hq)]

/-! ### Dispatch -/

theorem State.softResetDispatch_eq (s : State) : s.softResetDispatch =
    if s.queue.any fun e => e.requester == .dispatch then { s.answer .dispatch .reset with pendingReweigh := none }
    else s := by
  rw [State.softResetDispatch, State.entryOf_isSome]

/-- What the reset of dispatch leaves. -/
structure State.DispatchReset (s t : State) : Prop where
  frame : ∃ dispatch answers pendingReweigh, t = { s with
    links := { s.links with dispatch := dispatch }, answers := answers, pendingReweigh := pendingReweigh }
  outstanding : t.links.dispatch.outstanding =
    if s.queue.any (fun e => e.requester == .dispatch) then none else s.links.dispatch.outstanding
  pendingReweigh : t.pendingReweigh =
    if s.queue.any (fun e => e.requester == .dispatch) then none else s.pendingReweigh
  answers : t.answers = s.answers ++
    if s.queue.any fun e => e.requester == .dispatch then s.resetAnswer .dispatch else []

theorem State.softResetDispatch_resets (s : State) : s.DispatchReset s.softResetDispatch := by
  rw [State.softResetDispatch_eq]
  cases h : s.queue.any fun e => e.requester == .dispatch with
  | false =>
    refine ⟨⟨s.links.dispatch, _, _, rfl⟩, ?_, ?_, ?_⟩ <;> rw [h]
    · rfl
    · rfl
    · exact (List.append_nil _).symm
  | true =>
    refine ⟨?_, ?_, ?_, ?_⟩
    · rw [if_pos rfl, State.answer]
      split <;> exact ⟨_, _, _, rfl⟩
    all_goals rw [h]
    · exact s.answer_outstanding .dispatch .reset
    · rfl
    · exact State.answers_answer .dispatch .reset

/-! ### The queue -/

theorem State.markQueued_record (s : State) (slot n : Nat) (m : Bool) : (s.markQueued slot m).record n =
    (s.record n).map fun r => if slot = n then { r with queued := m } else r := by
  unfold State.markQueued
  cases h : s.record slot with
  | none =>
    by_cases hn : slot = n
    · subst hn
      rw [h]
      rfl
    · simp only [if_neg hn, Option.map_id']
  | some r =>
    by_cases hn : slot = n
    · subst hn
      rw [h]
      simp only [if_true, Option.map_some]
      exact Table.get_insert_same _ _ _
    · simp only [if_neg hn, Option.map_id']
      exact Table.get_insert_other _ _ _ _ (Ne.symm hn)

theorem State.markQueued_frame (s : State) (slot : Nat) (m : Bool) :
    ∃ records, s.markQueued slot m = { s with table := { s.table with records := records } } := by
  unfold State.markQueued
  split <;> exact ⟨_, rfl⟩

theorem foldl_markQueued_clear (l : List QueueEntry) (s : State) :
    (∃ records, l.foldl (fun t e => t.markQueued e.handle.slot false) s =
        { s with table := { s.table with records := records } }) ∧
      ∀ n, (l.foldl (fun t e => t.markQueued e.handle.slot false) s).record n =
        (s.record n).map fun r => { r with queued := r.queued && !l.any fun x => x.handle.slot == n } := by
  induction l generalizing s with
  | nil => exact ⟨⟨_, rfl⟩, fun n => by simp⟩
  | cons e rest ih =>
    obtain ⟨⟨records, frame⟩, record⟩ := ih (s.markQueued e.handle.slot false)
    obtain ⟨records', first⟩ := s.markQueued_frame e.handle.slot false
    rw [List.foldl_cons]
    refine ⟨⟨records, by rw [frame, first]⟩, fun n => ?_⟩
    rw [record, State.markQueued_record, Option.map_map]
    refine congrArg (fun f => (s.record n).map f) (funext fun r => ?_)
    by_cases h : e.handle.slot = n
    · simp [h]
    · simp only [Function.comp_apply, if_neg h, List.any_cons, beq_false_of_ne h, Bool.false_or]

/-! ### The drain begins -/

theorem Bank.unscheduled_scheduled {b : Bank} {edition effective grace : Nat}
    (h : b.state = .scheduled edition effective grace) : b.unscheduled = { b with state := .verified edition } := by
  rw [Bank.unscheduled, h]

theorem Bank.unscheduled_other {b : Bank} (h : b.state.name ≠ .scheduled) : b.unscheduled = b := by
  unfold Bank.unscheduled
  split
  · rename_i hb
    exact absurd (congrArg BankState.name hb) h
  · rfl

/-- What the start of a drain leaves. -/
structure State.DrainBegun (s t : State) : Prop where
  reset : s.SoftResetOf t
  grantState : t.grantState = .draining
  supervisor : t.link .supervisor = s.link .supervisor
  answers : t.answers = s.answers ++ s.softResetAnswers

theorem State.beginDrain_begun (s : State) : s.DrainBegun s.beginDrain := by
  obtain ⟨⟨links, positions, answers, desks⟩, link, -, ctx, outstanding, sent⟩ :=
    s.foldl_softResetPosition (List.nodup_finRange 24)
  have context (p : PositionNo) := ctx p (List.mem_finRange p)
  simp only [State.beginDrain, State.softResetQueue]
  generalize (List.finRange 24).foldl State.softResetPosition s = v at *
  obtain ⟨⟨dispatch, answers', pending, line⟩, free, emptied, answered⟩ := v.softResetDispatch_resets
  generalize v.softResetDispatch = d at *
  obtain ⟨⟨records, marks⟩, record⟩ := foldl_markQueued_clear d.queue d
  generalize d.queue.foldl (fun t e => t.markQueued e.handle.slot false) d = w at *
  have supervisor : v.link .supervisor = s.link .supervisor := link .supervisor nofun
  have own : v.link .dispatch = s.link .dispatch := link .dispatch nofun
  rw [State.resetAnswer_congr own, sent, List.append_assoc] at answered
  have queue : v.queue = s.queue := by rw [desks]
  have pendingReweigh : v.pendingReweigh = s.pendingReweigh := by rw [desks]
  rw [queue, pendingReweigh] at emptied
  rw [queue] at answered free
  have dispatchLine : v.links.dispatch = s.links.dispatch := own
  rw [dispatchLine] at free
  subst desks line marks
  refine ⟨⟨rfl, rfl, rfl, rfl, rfl, rfl, rfl, rfl, rfl, fun n hn => ?_, fun n r hr => ?_, emptied, free,
    fun l edition effective grace hl => ?_, fun l hl => ?_, fun p hp => ?_, fun p session res hp => ?_,
    fun p session slot hp => ?_, fun p session saved hp => ?_, fun p session pend res request hp => ?_,
    fun p => outstanding p (List.mem_finRange p)⟩, rfl, supervisor, answered⟩
  · exact (record n).trans (congrArg _ hn)
  · exact (record n).trans (congrArg _ hr)
  · cases l <;> exact Bank.unscheduled_scheduled hl
  · cases l <;> exact Bank.unscheduled_other hl
  all_goals
    refine (context p).trans ?_
    rw [hp]
    rfl

end Sys2Proof.Machine
end

section
/-! STATUS, SOFT RESET and the end of its drain (R196, R197): O53. -/
namespace Sys2Proof.Machine

variable {s t : State} {g : Tag} {items : List Item}

/-! ### STATUS (R196) -/

/-- A vector's list, mapped, by its places. -/
theorem map_toList_eq_finRange {α β : Type} {n : Nat} (v : Vector α n) (f : α → β) :
    v.toList.map f = (List.finRange n).map fun i => f (v.get i) := by
  refine List.ext_getElem (by simp) fun i h h' => ?_
  simp [Vector.get]

/-- STATUS reads none of the links. -/
theorem State.statusPart_hold (s : State) (k : Kind) (g : Tag) (n : Nat) :
    (s.hold .supervisor k g).statusPart n = s.statusPart n := by
  unfold State.statusPart
  split <;> rfl

/-- STATUS answers the part it names, in HALTED too. -/
theorem exec_status {n : Nat} (ha : s.Admits .status .supervisor items) (hn : statusPartOf items = some n) :
    exec (.status ⟨.supervisor, g⟩ items) s =
      .next (s.send .supervisor g Kind.status.code (.status (s.statusPart n))) := by
  show execStatus ⟨.supervisor, g⟩ items s = _
  obtain ⟨-, -, free, -⟩ := id ha
  refine (request_admitted .status ⟨.supervisor, g⟩ items _ ha).trans ?_
  rw [hn, ← s.statusPart_hold .status g]
  exact State.reply_hold _ _ _ _ free

/-! ### The end of the drain (R76, R197) -/

/-- Every level cause whose condition holds is pending. -/
def Attention.LevelsPending (a : Attention) (now : Conditions) : Prop :=
  (now.escalation = true → a.pending.escalation = true) ∧ (now.poolLow = true → a.pending.poolLow = true) ∧
    (now.held = true → a.pending.held = true)

theorem Attention.judge_drainEnded_levelsPending (a : Attention) (now : Conditions) :
    (a.judge now).drainEnded.LevelsPending now := by
  have raised (x : Bool) {y : Bool} (h : y = true) : (x || y) = true := by rw [h, Bool.or_true]
  exact ⟨raised _, raised _, raised _⟩

/-- The end of a drain answers the SOFT RESET that is outstanding, grants again and raises the level causes. -/
theorem State.endDrain_held {o : Outstanding} (h : (s.link .supervisor).outstanding = some o) : s.endDrain =
    { s with
      grantState := .granting
      links := { s.links with supervisor := { s.links.supervisor with outstanding := none } }
      answers := s.answers ++ [⟨.supervisor, o.tag, answerKind o.kind.code, .done .plain⟩]
      attention := (s.attention.judge s.conditions).drainEnded } := by
  have held : (State.link { s with grantState := .granting } .supervisor).outstanding = some o := h
  rw [State.endDrain, State.answer_held _ _ held]
  rfl

/-- DRAIN_END is taken where a drain is in progress and every unit idle, and nowhere else. -/
theorem exec_drainEnd (live : s.Live) :
    exec .drainEnd s = .next (if s.grantState = .draining ∧ s.allIdle = true then s.endDrain else s) := by
  obtain ⟨released, running⟩ := live
  show execDrainEnd s = _
  simp only [execDrainEnd, released, running, Bool.or_self, Bool.false_eq_true, if_false, State.draining,
    Bool.and_eq_true, beq_iff_eq]
  split <;> rfl

/-! ### SOFT RESET (R197) -/

/-- A SOFT RESET begins its drain from the state that holds it, which ends at once with every unit idle. -/
theorem exec_softReset (hs : s.Serves .softReset .supervisor items) :
    exec (.softReset ⟨.supervisor, g⟩ items) s = .next
      (if s.allIdle then (s.hold .supervisor .softReset g).beginDrain.endDrain
        else (s.hold .supervisor .softReset g).beginDrain.judge) := by
  obtain ⟨reset, -, -, -⟩ := (s.hold .supervisor .softReset g).beginDrain_begun
  obtain ⟨-, units, -⟩ := reset
  have idle : (s.hold .supervisor .softReset g).beginDrain.allIdle = s.allIdle := by
    rw [State.allIdle, units]
    rfl
  show execSoftReset ⟨.supervisor, g⟩ items s = _
  refine (haltedRequest_serves .softReset ⟨.supervisor, g⟩ items _ hs).trans ?_
  simp only [idle]
  split <;> rfl

/-- The drain of a SOFT RESET, told from the state before the request was held. -/
theorem State.beginDrain_hold (s : State) (g : Tag) :
    let t := (s.hold .supervisor .softReset g).beginDrain
    s.SoftResetOf t ∧ t.grantState = .draining ∧ (t.link .supervisor).outstanding = some ⟨.softReset, g⟩ ∧
      t.answers = s.answers ++ s.softResetAnswers := by
  obtain ⟨reset, grant, supervisor, answers⟩ := (s.hold .supervisor .softReset g).beginDrain_begun
  exact ⟨reset, grant, congrArg LinkState.outstanding supervisor, answers⟩

/-- Settles O53: STATUS by `exec_status`, SOFT RESET by what the start of a drain leaves (`State.beginDrain_begun`), the
drain's end by `State.endDrain_held`. -/
theorem statusAndSoftReset : Obligations.StatusAndSoftReset := by
  unfold Obligations.StatusAndSoftReset
  refine ⟨fun g items s n ha hn => ⟨s.statusPart n, exec_status ha hn, ?_⟩, fun j mass code sides => ?_,
    fun session res pend request slot => ⟨rfl, rfl, rfl, rfl, rfl, rfl⟩, fun g items s hs => ?_, fun s live => ?_⟩
  · refine ⟨?_, ?_, ?_, ?_, ?_, ?_, ?_⟩ <;> rintro rfl
    case refine_3 => exact congrArg (fun l => StatusContent.rating l _ _) (map_toList_eq_finRange _ _)
    case refine_4 => exact congrArg StatusContent.positions (map_toList_eq_finRange _ _)
    all_goals rfl
  · refine ⟨rfl, rfl, rfl, ?_, ?_, ?_⟩ <;> exact congrArg JobKind.name
  · obtain ⟨reset, draining, outstanding, answers⟩ := s.beginDrain_hold g
    rw [exec_softReset hs]
    generalize (s.hold .supervisor .softReset g).beginDrain = t at *
    refine ⟨fun busy => ⟨t.judge, by rw [busy]; rfl, reset, draining, outstanding, answers⟩, fun idle => ?_⟩
    rw [idle, if_pos rfl, State.endDrain_held outstanding, answers]
    obtain ⟨-, poolLow, held⟩ := t.attention.judge_drainEnded_levelsPending t.conditions
    exact ⟨_, rfl, reset, rfl, rfl, rfl, poolLow, held⟩
  · rw [exec_drainEnd live]
    refine ⟨fun o draining idle ho => ?_, fun other => ?_⟩
    · rw [if_pos ⟨draining, idle⟩, State.endDrain_held ho]
      obtain ⟨escalation, poolLow, held⟩ := s.attention.judge_drainEnded_levelsPending s.conditions
      exact ⟨_, rfl, rfl, rfl, rfl, rfl, rfl, rfl, rfl, rfl, escalation, poolLow, held⟩
    · rw [if_neg]
      rintro ⟨draining, idle⟩
      rcases other with other | other
      · exact other draining
      · rw [other] at idle
        cases idle

end Sys2Proof.Machine
end
